-- ==== Sys2Proof/Word.lean ====
section
/-! DEFINITION. The word types of the block and the shape of a sparse table. -/
namespace Sys2Proof

/-- One byte of memory, of a descriptor or of a record. -/
abbrev Byte := BitVec 8

/-- A 32-bit register, lane register or accumulator word (R8). -/
abbrev Word := BitVec 32

/-- A sparse table: a list of (index, value) pairs, rising in the index. An index that is not
listed has the table's default value, which the reader of the table names. -/
abbrev Tab (α : Type) := List (Nat × α)

/-- A string of bytes, lowest address first. -/
abbrev Bytes := List Byte

end Sys2Proof
end

