-- ==== Sys2Proof/Syntax.lean ====
section
/-! DEFINITION. The commands of the block: one constructor of `Instr` per row of the opcode table,
with the row's operands. Physical facts that come about outside the block (a voltage, a temperature,
a decoded sector, bytes read from host memory) are operands of the command that brings them in. -/
namespace Sys2Proof

/-- The outcome of a read of host memory (R300, R306); `denied`: under ATS, a translation without the permission (R301). -/
inductive HostRead where
  | ok (data : Bytes) (ep : Bool)
  | ur
  | ca
  | timeout
  | denied
  deriving DecidableEq, Repr

/-- The three conventional resets (R454). -/
inductive ConvReset where
  | perst | hot | linkDown
  deriving DecidableEq, Repr

/-- Why a phase is failed (R400): its current in per cent of the rating, or how long it misbehaved. -/
inductive PhaseFault where
  | overCurrent (percent : Nat)
  | misbehaved (us : Nat)
  deriving DecidableEq, Repr

/-- What fires the hardware trip (R426): a die's sensors of one sample, or a stack's report. -/
inductive TripSource where
  | junction (die : Nat) (sensors : List (Nat × Int))
  | stack (stack : Nat) (degC : Int)
  deriving DecidableEq, Repr

/-- A defect, repair or reduction that a start or a later test finds: an entry of Ledger
sections 1 to 10 (R435). -/
inductive Defect where
  | hbmRemap (channel pc sid bg bk row spare : Nat)
  | hbmUnrepaired (channel pc sid bg bk row : Nat)
  | hbmChannelOut (channel : Nat)
  | hbmPin (channel pc pin : Nat)
  | gsRow (slice row spare : Nat)
  | gsWay (slice way : Nat)
  | pole (pole state : Nat) (wires : List Nat)
  | core (tent cluster phys : Nat)
  | domain (index : Nat)
  | phase (rail phase : Nat)
  | sensor (index : Nat)
  | sense (rail : Nat)
  | lateral (edge module rate width : Nat)
  | spanLane (port peer width : Nat)
  deriving DecidableEq, Repr

/-- What the tests of a start found (R441, R457): new defects; the trained rate and width of every
lateral module that did not reach 32 GT/s and x64; the rail voltages; and whether Vestibule 0's
parts passed their self-test. -/
structure Findings where
  defects : List Defect
  railMv : List (Nat × Nat)
  vestibule0Ok : Bool
  storeOk : Bool
  deriving DecidableEq, Repr

/-- A reference to one group: linear core, group slot, and the bytes of the instruction issued
(the encoding belongs to the toolchain, R62). -/
structure Iss where
  core : Nat
  slot : Nat
  len : Nat
  deriving DecidableEq, Repr

/-- A source operand: a register or an immediate word. -/
inductive Src where
  | reg (r : Nat)
  | imm (w : Word)
  deriving DecidableEq, Repr

/-- The vector number types of R62. -/
inductive VTy where
  | fp32 | fp16x2 | bf16x2 | int32 | int64
  deriving DecidableEq, Repr

/-- Comparison conditions. -/
inductive Cmp where
  | eq | ne | lt | le | gt | ge
  deriving DecidableEq, Repr

/-- The special registers of R62. -/
inductive SReg where
  | lane | group | setX | setY | setZ | coreIdx | tscLo | tscHi
  deriving DecidableEq, Repr

/-- Vector arithmetic, bit operations, compares, selects, conversions and special registers (R62). -/
inductive VOp where
  | mov
  | add (t : VTy) | sub (t : VTy) | mul (t : VTy) | fma (t : VTy)
  | min (t : VTy) | max (t : VTy)
  | and | or | xor | not | shl | shr | sar
  | cmp (t : VTy) (c : Cmp)
  | sel
  | cvt (src dst ctl : Nat)
  | sreg (r : SReg)
  deriving DecidableEq, Repr

/-- The functions of the special-function pipe (R58). -/
inductive SpecialFn where
  | exp2 | log2 | recip | rsqrt | sqrt | sin | cos | tanh
  deriving DecidableEq, Repr

/-- Where a memory instruction reaches (R62). -/
inductive Space where
  | local_ | virt | const
  deriving DecidableEq, Repr

/-- A load, store or constant load: `width` bytes per lane (1, 2, 4, 8 or 16) at the lane's address
register plus `off`; a virtual address takes the register pair. -/
structure LsArgs where
  store : Bool
  space : Space
  width : Nat
  addr : Nat
  off : Nat
  data : Nat
  cls : Option Nat
  deriving DecidableEq, Repr

/-- The atomic operations of R62. -/
inductive AtomOp where
  | add | min | max | and | or | xor | exch | cas
  deriving DecidableEq, Repr

/-- Operations and element types of in-cache reductions (R217). -/
inductive RedOp where
  | add | min | max | cadd
  deriving DecidableEq, Repr
inductive RedTy where
  | fp32 | bf16x2 | int32 | int64
  deriving DecidableEq, Repr

/-- An atomic that returns a value, or (`red`) a reduction that returns none. -/
inductive AtomKind where
  | ret (op : AtomOp) (w64 : Bool) (dst : Nat)
  | red (op : RedOp) (ty : RedTy)
  deriving DecidableEq, Repr

structure AtomArgs where
  kind : AtomKind
  space : Space
  addr : Nat
  off : Nat
  src : Nat
  cmp : Nat
  /-- A class lower than the ring's (R274). -/
  cls : Option Nat := none
  deriving DecidableEq, Repr

/-- Lane-exchange kinds (R63) and tally kinds (R64). -/
inductive XlnKind where
  | at_ | below | above | flip
  deriving DecidableEq, Repr
inductive TallyKind where
  | every | some_ | map | count | kin | same
  deriving DecidableEq, Repr

/-- The scopes of FENCE (R73). -/
inductive Scope where
  | core | device | system
  deriving DecidableEq, Repr

/-- What has gone wrong in a slice's arrays (R223, R225): nothing; bytes of a line (any line of the slice, by address)
upset in its low or high half; one copy of the entry of the set's way at fault, or both; both copies of the dead-range
entry of the given place in the slice's table. -/
inductive GsFault where
  | none
  | parity (line : Nat) (lo hi : Bool)
  | tagOne
  | tagBoth (set way : Nat)
  | deadBoth (entry : Nat)
  deriving DecidableEq, Repr

/-- The severity that a stack's inner code returns with a burst (R246); of a burst with several bits corrected, how
many. -/
inductive Burst where
  | clean | one | several (bits : Nat) | uncorrected
  deriving DecidableEq, Repr

/-- What the medium shows when a sector is read (R245 to R247): the symbols in error with the 16 bits XORed into each,
the inner-code severities of the sector's two bursts, and how many attempts ended in a command or address parity error. -/
structure Sector where
  errs : List (Nat × Nat) := []
  bursts : Burst × Burst := (.clean, .clean)
  parity : Nat := 0
  deriving DecidableEq, Repr

/-- A beat on a Pole's 536 functional wires (R228, R229): D0 to D511, C0 to C15, K0 to K7 from bit 0. -/
abbrev PoleBeat := Nat

/-- Units that hold a role epoch (R281). -/
inductive RoleUnit where
  | core (i : Nat) | cluster (i : Nat) | plot (t : Nat) | port (n : Nat)
  deriving DecidableEq, Repr

/-- What a periodic far-end sense finds on a lane (R347). -/
inductive LaneSense where
  | open_ | receiver | transmitter
  deriving DecidableEq, Repr

/-- A training sequence seen on a physical lane (R348). -/
structure LaneTrain where
  logical : Nat
  addr : Nat
  port : Nat
  inverted : Bool
  deriving DecidableEq, Repr

/-- Why an UP port retrains (R350). -/
inductive RetrainCause where
  | lockLoss | replays | uncorrectableRate
  deriving DecidableEq, Repr

/-- A Span message after decryption (R353), with its payload and poison bits. -/
structure SpanMsg where
  type : Nat
  info : Nat
  dst : Nat
  src : Nat
  group : Nat
  seq : Nat
  rank : Nat
  ttl : Nat
  offset : Nat
  poison : Nat
  payload : Bytes
  deriving DecidableEq, Repr

/-- A message as it arrives on a port: whether its tag verifies and whether it bears the port's
present role epoch (R282, R355). -/
structure SpanIn where
  port : Nat
  tagOk : Bool
  epoch : Nat
  msg : SpanMsg
  deriving DecidableEq, Repr

/-- A Span flit as received (R351): its 256 bytes, and the symbols in error of each of its codewords. -/
structure Flit where
  bytes : Bytes
  errs : List Nat
  deriving DecidableEq, Repr

/-- A Guyline frame (R474): the common head and its CRC field, and whether it is one of the module's own that has come round. -/
structure GlnHead where
  hops : Nat
  srcPos : Nat
  seq : Nat
  own : Bool
  crc : Nat
  deriving DecidableEq, Repr

/-- The telemetry of a BEAT frame (R474). -/
structure Beat where
  state : Nat
  throttle : Nat
  power10 : Nat
  demand25 : Nat
  regionMax : Int
  lid : Int
  uncorrected : Nat
  fatal : Nat
  deriving DecidableEq, Repr

/-- MCTP message types (R467). -/
inductive MctpType where
  | control | pldm | spdm | other
  deriving DecidableEq, Repr

/-- Sideband pins checked under R479 and what is found on them. -/
inductive PinShort where
  | ok | toGnd | to3v3
  deriving DecidableEq, Repr

/-- How a request of the host arrives on its IDE stream (R302, R304): without the T bit of its selective stream, with
it, or failing its IDE check. -/
inductive IdeMark where
  | plain | trusted | failed
  deriving DecidableEq, Repr

/-- How a request of the host to a BAR arrives: on its IDE stream (R302, R304), with EP set, with an ECRC error (R306). -/
structure Arrival where
  ide : IdeMark := .plain
  ep : Bool := false
  ecrcBad : Bool := false
  deriving DecidableEq, Repr

/-- What the link does with a rate and a width (R285, R286): it trains to them, in flit mode or not; or the partner changes
to the width by L0p, whatever the rate. -/
inductive LinkEvent where
  | trained (flit : Bool)
  | l0p
  deriving DecidableEq, Repr

/-- A configuration write with behaviour of its own (R285, R289, R290, R293, R300, R301, R305). The sizes of BAR4 are those
of the Resizable BAR and VF Resizable BAR capabilities; BARs are numbered 0, 2 and 4. -/
inductive CfgWrite where
  | memSpace (on : Bool)
  | ats (on : Bool)
  | resizeBar4 (log2GiB : Nat)
  | resizeVfBar4 (log2GiB : Nat)
  | bar (n addr : Nat)
  | vfBar (n addr : Nat)
  | maxPayload (code : Nat)
  | maxRead (code : Nat)
  | tag10 (on : Bool)
  | relaxed (on : Bool)
  | ecrc (generate check : Bool)
  | completionTimeout (ticks : Nat)
  | lockedField
  deriving DecidableEq, Repr

/-- The commands of the block. -/
inductive Instr where
  | perstNRelease (sris pufOk : Bool)
  | configSpaceReady
  | configurationRequestRetry (fn : Nat)
  | conventionalReset (kind : ConvReset)
  | linkTraining (rate10 width : Nat) (how : LinkEvent := .trained false)
  | converterStart (mv : Int) (us : Nat)
  | converterStop (mv : Int) (us : Nat)
  | inputStageOpen (mv : Int) (us : Nat)
  | inputReconnect (mv : Int) (us : Nat)
  | inputLowTimer (mv : Int) (us : Nat)
  | senseOpen (rail : Nat)
  | phaseFail (rail phase : Nat) (why : PhaseFault)
  | droopDetect (cluster mv : Nat)
  | stretchRelease (cluster mv periods : Nat)
  | powerAllocation (inputMv inputMa fixedW : Nat) (demand : List (Nat × Nat))
  | domainPowerUp (domain estMa : Nat)
  | domainGrant (rail estMa : Nat)
  | domainGrantTimeout (domain estMa : Nat)
  | domainRampDone (domain percent : Nat)
  | coreIdleOff (core us : Nat)
  | domainShutdownDone (domain : Nat)
  | clockLoss
  | sensorSample (readings : List (Nat × Int)) (lid : Int)
  | sensorSuspect (sensor us : Nat)
  | throttleTick
  | thermalFloor
  | thermalTrip (src : TripSource)
  | tripRestart (secs : Nat) (lid : Option Int)
  | bondTempSample
  | lifeLogWrite (ok : Bool)
  | bootCtlLoad
  | packageVerdict (pkg : HostRead) (storeOk : Bool)
  | bootCtlStart
  | ledgerCheck (ledger : HostRead) (found : Findings)
  | startComplete (ms : Nat)
  | startTimeout
  | configCommit (op : Nat)
  | devCtlRepitch
  | devCtlStrike
  | sealCommit (hostOk storeOk : Bool)
  | secMboxGo (token : HostRead) (storeOk : Bool)
  | sqTail (fn page value width : Nat) (how : Arrival := {})
  | cqHead (fn page value width : Nat) (how : Arrival := {})
  | descriptorFetch (read : HostRead)
  | descriptorAdmit (ring : Nat)
  | nop (op : Nat)
  | loadBundle (op : Nat) (src : HostRead)
  | unloadBundle (op : Nat)
  | launch (op : Nat)
  | setPlacement (op epoch : Nat)
  | launchComplete (op : Nat)
  | launchTimeout (op : Nat)
  | copy (op : Nat)
  | copySealed (op : Nat) (src : HostRead)
  | fill (op : Nat)
  | compare (op : Nat) (src : HostRead)
  | digest (op : Nat) (src : HostRead)
  | scrub (op : Nat) (found : List (Nat × Sector))
  | chainOperationDone (op : Nat)
  | prefetch (op : Nat)
  | flush (op : Nat)
  | invalidate (op : Nat)
  | declareDead (op : Nat)
  | declareDeadRetire (op : Nat)
  | plotMap (op : Nat)
  | plotUnmap (op : Nat)
  | roleEpochIncrement (unit : RoleUnit)
  | tlbInvalidate (op : Nat)
  | allReduce (op : Nat)
  | reduceScatter (op : Nat)
  | allGather (op : Nat)
  | allToAll (op : Nat)
  | spanSend (op : Nat)
  | spanRecv (op : Nat)
  | spanOperationTimeout (op : Nat)
  | setPolicyGuard (op : Nat)
  | setPolicyGroundsheet (op : Nat)
  | semSignal (op : Nat)
  | semWait (op : Nat)
  | semWaitWake (op : Nat)
  | semWaitTimeout (op : Nat)
  | queryPoleFailures (op : Nat)
  | queryPortLatency (op : Nat)
  | queryStaleRole (op : Nat)
  | queryHbmOut (op : Nat)
  | queryBondWear (op : Nat)
  | ringEnable (fn ring : Nat) (how : Arrival := {})
  | ringDisable (fn ring : Nat) (how : Arrival := {})
  | ringDisabled (ring : Nat)
  | eventRingEnable (fn : Nat) (how : Arrival := {})
  | eventRingDisable (fn : Nat) (how : Arrival := {})
  | evtHead (fn index : Nat) (how : Arrival := {})
  | eventRecordWrite (ok : Bool)
  | teardownErase (part : Nat)
  | teardownDone (part : Nat)
  | bar4Read (fn offset len : Nat) (how : Arrival := {})
  | bar4Write (fn offset : Nat) (data : Bytes) (ep : Bool := false) (how : Arrival := {})
  | vfEnable (num : Nat)
  | vfDisable
  | vfShutdownDone
  | vfFlr (vf : Nat)
  | pfFlr
  | d3hotEntry (fn : Nat)
  | d0Return (fn : Nat)
  | msixUnmask (fn vector : Nat)
  | hostReadCompletion (tag : Nat) (res : HostRead)
  | hostCompletionTimeout (tag : Nat)
  | atsInvalidateRequest (fn addr len : Nat)
  | lockInterfaceRequest (vf : Nat)
  | startInterfaceRequest (vf : Nat)
  | stopInterfaceRequest (vf : Nat)
  | getMeasurements (conn : Nat) (nonce : Bytes)
  | spdmRequest (conn code : Nat) (body : Bytes)
  | pqCert (conn offset : Nat)
  | pqSig (conn : Nat)
  | getLog (conn start part : Nat)
  | keyImport (conn part slot : Nat) (key : Bytes)
  | keyDrop (conn part slot : Nat)
  | chunkGet (conn : Nat)
  | branch (at_ : Iss) (cond target reconv : Nat) (link : Option Nat := none)
  | indirectBranch (at_ : Iss) (target reconv : Nat) (link : Option Nat := none)
  | exit (at_ : Iss)
  | vectorInstruction (at_ : Iss) (op : VOp) (dst : Nat) (srcs : List Src)
  | specialFunction (at_ : Iss) (fn : SpecialFn) (dst : Nat) (src : Src)
  | loadStore (at_ : Iss) (args : LsArgs)
  | atomic (at_ : Iss) (args : AtomArgs)
  | xln (at_ : Iss) (kind : XlnKind) (dst flag : Nat) (src sel fill : Src) (span : Nat)
  | tally (at_ : Iss) (kind : TallyKind) (dst flag : Nat) (src : Src)
  | join (at_ : Iss) (barrier n : Nat)
  | lockAcq (at_ : Iss) (addr : Nat)
  | lockRel (at_ : Iss) (addr : Nat)
  | spinTimeout (core slot : Nat)
  | mmaIssue (at_ : Iss) (dst addr : Nat)
  | attIssue (at_ : Iss) (dst addr : Nat)
  | mmaWait (at_ : Iss) (token : Nat)
  | fence (at_ : Iss) (scope : Scope)
  | trap (at_ : Iss) (imm : BitVec 16)
  | brk (at_ : Iss)
  | matrixOperationStart (core : Nat)
  | matrixOperationEnd (core : Nat)
  | bankDrain (core : Nat)
  | tallyUpdate (op : Nat)
  | promotionReceipt (op core : Nat)
  | splitArrival (core : Nat)
  | combineRequest (core epoch : Nat)
  | combine (cluster : Nat)
  | sortRequest (core : Nat)
  | attentionForward (core : Nat)
  | attentionBackward (core : Nat)
  | debugAttach (mask : Nat)
  | debugDetach (mask : Nat)
  | dbgHalt
  | dbgHaltCore
  | haltTakesEffect (core slot : Nat)
  | dbgStep (othersRun : Bool)
  | dbgResume
  | dbgResetCore
  | dbgRegData (write : Option Word)
  | dbgLsData (write : Option Word)
  | coreFaultReset (core : Nat)
  | sliceRequest (slice : Nat) (fault : GsFault)
  | fillArrival (slice line : Nat) (lo hi : Sector) (fault : GsFault := .none)
  | reductionPerform (slice : Nat)
  | memorySideAtomic (slice : Nat) (lo hi : Sector)
  | rowRemap (channel row : Nat) (found : List (Nat × Sector) := [])
  | refreshManagement (channel pc bank count : Nat)
  | hbmThermalRead (stack : Nat) (degC : Int) (watts : Nat)
  | hbmErrorWindow (stack extra : Nat) (damage : List (Nat × List (Nat × Nat)) := [])
  | hiddenHeatExit (stack : Nat)
  | patrolScrub (channel line half : Nat) (found : Sector)
  | poleBeatFail (pole : Nat) (sent : List PoleBeat) (got : PoleBeat := 0)
  | poleTest (pole : Nat) (failing : List Nat)
  | plotMigration (tent : Nat)
  | lateralModuleRetrain (edge module rate width : Nat)
  | bucketAdmit (kind port cls : Nat)
  | spanPortEnable (port : Nat)
  | spanPortDisable (port : Nat)
  | spanSense (port : Nat) (lanes : List LaneSense)
  | spanTrainTimeout (port : Nat)
  | spanEqualisationDone (port : Nat) (lanes : List (Option LaneTrain)) (ok : Bool)
  | spanLinkTest (port : Nat) (good : List Bool)
  | spanSecureDone (port : Nat) (chainOk : Bool) (peer : Nat) (certDigest cfgDigest : Bytes)
  | spanDownRetry (port : Nat)
  | spanRetrain (port : Nat) (cause : RetrainCause)
  | spanRetrainDone (port : Nat) (good : List Bool)
  | spanFlitReceive (port : Nat) (flit : Flit)
  | spanKeyUpdate (port : Nat) (tx : Bool)
  | spanData (m : SpanIn)
  | spanReady (m : SpanIn)
  | spanReq (m : SpanIn)
  | spanClear (m : SpanIn)
  | spanDone (m : SpanIn)
  | spanCounts (m : SpanIn)
  | spanGo (m : SpanIn)
  | spanAbort (m : SpanIn)
  | spanNack (m : SpanIn)
  | spanBusyRetry (op : Nat)
  | spanRelease (m : SpanIn)
  | entdaa (addr : Nat)
  | mctpMessage (transport requester : Nat) (type : MctpType) (body : Bytes)
  | pldmRequest (type command : Nat) (body : Bytes)
  | setStateEffecterStates (effecter bits : Nat) (setAgain : Nat)
  | fruRead (offset len : Nat)
  | guylineListenDone (aSignal bSignal : Bool) (ownIdle : Bool)
  | claim (h : GlnHead) (prio : Nat) (serial : Bytes)
  | disc (h : GlnHead) (count : Nat)
  | sync (h : GlnHead) (masterNs residence delay : Nat)
  | beat (h : GlnHead) (b : Beat)
  | grant (h : GlnHead) (pos watts : Nat)
  | glnBreak (h : GlnHead) (pos : Nat)
  | leave (h : GlnHead)
  | beatTimer
  | syncTimer
  | grantRound
  | masterLost
  | ringInLoss
  | ringRecover
  | grantTimeout (ms : Nat)
  | pinCheck (pins : List (Nat × PinShort))
  | leakMeasure (ohms : Nat)
  | pwrVminCtlClear
  | w1cClear (fn offset bits setNow : Nat) (how : Arrival := {})
  | lowWordRead (accessor offset : Nat) (bytes : Nat := 4) (how : Arrival := {})
  | registerWrite (accessor offset : Nat) (value : Word) (bytes : Nat) (how : Arrival := {})
  | configurationWrite (fn : Nat) (w : CfgWrite)
  | alignmentMarker (disagree : List Nat)
  | aux3v3Absent
  | inputAbsentHoldRelease (secs : Nat)
  | spanPortDrainDone (port : Nat)
  deriving DecidableEq, Repr

end Sys2Proof
end

