-- ==== Sys2Proof/Config.lean ====
section
/-! DEFINITION. What an implementation fixes and the values the spec leaves open. Every `opaque`
constant here is uninterpreted: nothing can be proved of its value (log entries 3 to 8). -/
namespace Sys2Proof.Config

/-- The 16-byte device serial, written at manufacture (R381). -/
opaque serialByte : Nat → Byte
def serial : Bytes := (List.range 16).map serialByte
/-- The Vendor ID of the module's maker, assigned by the PCI-SIG (R288). -/
opaque vendorId : BitVec 16
/-- The identifier of the Physical Layer 128.0 GT/s capability, assigned by the PCI-SIG (R289). -/
opaque capPhy128 : Nat
/-- The digest of the immutable boot ROM (R389 block 1). -/
opaque romDigest : Bytes
/-- The boot ROM's key digests for the four signing-key slots: Ed448 and ML-DSA-87 (R378 check 3). -/
opaque romKeyDigest : Nat → Bytes × Bytes
/-- The 48-bit I3C provisional ID built from the device serial (R467). -/
opaque provisionalId : Bytes → Bytes
/-- The contents of the FRU EEPROM, written at manufacture (R509). -/
opaque fru : Nat → Byte
/-- The DeviceID and manufacturing CA certificates with the Vymar root, of the classical chain (false) and the ML-DSA-87 one
(true), written at manufacture (R376, R381). -/
opaque caCerts : Bool → Bytes
/-- The expected path drop of a remotely sensed rail, in 1/1000 of its output (R397); 104 is the carrier converter. -/
opaque pathDrop : Nat → Nat
/-- θ of a stack in mK per W and κ in 1/1000, characterised per stack (R258, R381). -/
opaque stackTheta : Nat → Nat
opaque stackKappa : Nat → Nat
/-- Initial and maximum management thresholds read from a stack's mode registers (R256). -/
opaque raaInitial : Nat → Nat
opaque raaMax : Nat → Nat

/-! Cryptography (R371): the spec names the algorithms; the model leaves them uninterpreted. -/
/-- SHAKE256 with 64-byte output: byte i of the digest. -/
opaque shakeByte : Bytes → Nat → Byte
def shake256 (b : Bytes) : Bytes := (List.range 64).map (shakeByte b)
/-- KMAC256: key, data, output length in bytes, customisation string; byte i of the output. -/
opaque kmacByte : Bytes → Bytes → Nat → String → Nat → Byte
def kmac256 (key data : Bytes) (n : Nat) (custom : String) : Bytes := (List.range n).map (kmacByte key data n custom)
/-- The Unique Device Secret that the PUF and its helper data give (R373). -/
opaque uds : Bytes
/-- Ed448 and ML-DSA-87 verification: context string, public key, message, signature. -/
opaque verifyEd448 : String → Bytes → Bytes → Bytes → Bool
opaque verifyMlDsa : String → Bytes → Bytes → Bytes → Bool
/-- Ed448 and ML-DSA-87 signing under a private key or seed, with the empty context string (R372). -/
opaque signEd448 : Bytes → Bytes → Bytes
opaque signMlDsa : Bytes → Bytes → Bytes
/-- The alias certificate: false for Ed448, true for ML-DSA-87; the DeviceID key that signs it, the alias key it certifies,
and its vendor, model, SVN, firmware digest and UEID (R375). -/
opaque aliasCert : Bool → Bytes → Bytes → String × String → Nat → Bytes × Bytes → Bytes
/-- AES-256-GCM decryption: key, IV, additional data, ciphertext, tag; none when the tag fails (R392). -/
opaque gcmOpen : Bytes → Bytes → Bytes → Bytes → Bytes → Option Bytes
/-- AES-256-GCM encryption: byte i of the ciphertext and tag under a key, an IV, additional data and plaintext (R355). -/
opaque gcmSeal : Bytes → Bytes → Bytes → Bytes → Nat → Byte
/-- Key and 32-bit salt that the SPDM key schedule gives a direction of a Span port (true: transmit): byte i of the 36, by
port, session and key generation (R355). -/
opaque spanKey : Nat → Nat → Nat → Bool → Nat → Byte
/-- The equaliser coefficients that training finds for a unit: kind and unit of R532 (device-private form). -/
opaque coefficients : Nat → Nat → Bytes
/-- The body of the answer to a standard SPDM request that the spec gives only by reference: the request's code, the
module's classical chain, the request's body (R387). -/
opaque spdmAnswer : Nat → Bytes → Bytes → Bytes
/-- The body of the answer to a PLDM or MCTP control request, given by the DMTF bindings (R467, R468). -/
opaque pldmAnswer : Nat → Nat → Bytes → Bytes

/-- AES-256 on one block of 16 bytes: key, block; and its inverse (R251). -/
opaque aesEnc : Nat → Bytes → Bytes
opaque aesDec : Nat → Bytes → Bytes
/-- The two numbers that the security processor draws for an XTS key pair; the argument counts the pairs (R252). -/
opaque xtsDraw : Nat → Nat × Nat

/-- The header of a TLP as PCI Express forms it, byte i of 16: kind (0 write, 1 read request, 2 completion), function, address,
length (R490). -/
opaque tlpHeader : Nat → Nat → Nat → Nat → Nat → Byte

/-! Values the spec leaves open. -/
/-- A byte of HBM3E that nothing has written under the Tent's present key: noise (R252).
Arguments: the key generation of the Tent and the physical address. -/
opaque hbmNoise : Nat → Nat → Byte
/-- A byte of local store after its core lost power: arguments core, loss count, address (R411). -/
opaque lsNoise : Nat → Nat → Nat → Byte
/-- A register after its core lost power: arguments core, loss count, lane and register (R411). -/
opaque regNoise : Nat → Nat → Nat → Word
/-- Which line a full L1 gives up, of the n it holds; the spec names no rule (R56). Reads a counter. -/
opaque l1Victim : Nat → Nat
/-- The special functions of R58, fixed functions of their FP32 input; the argument names the function. -/
opaque special : Nat → Word → Word
/-- Activation functions 3 to 7 of R125, fixed functions within 4 ulp. -/
opaque activation : Nat → Word → Word
/-- The rounding of a vector conversion under stochastic rounding: the spec gives no index for a
vector instruction's element (R51, R62). Argument: a counter. -/
opaque vecRandom : Nat → Word
/-- A vector conversion of a value outside the INT32 range, which the spec leaves unstated (R62). -/
opaque cvtInt : Word → Word
/-- The leakage of a domain, in mA (R407 gives no figures). -/
opaque leakMa : Nat → Nat
/-- A value that the spec states nowhere; the argument is the counter of the state that makes it fresh. -/
opaque freeValue : Nat → Word

end Sys2Proof.Config
end

