-- ==== Sys2Proof/Machine/State.lean ====
section
/-! DEFINITION. The state of the block: plain data, one record per plane or unit of the spec.
The docstring of a field gives its width, the rule of spec/ that names it and its value at reset.
"reset" is the state right after a conventional reset with power good and PERST_N asserted. -/
namespace Sys2Proof.Machine

/-- Why the block stops with a fault. -/
inductive Fault where
  /-- Raised by the commands that bring in an input voltage beyond the absolute maximum ratings of
  R501 (below -60 V or above 80 V): the spec gives no behaviour there. Safe. -/
  | overStress
  deriving DecidableEq, Repr

/-- Why the block refuses a command. -/
inductive Refusal where
  /-- Raised by an arm of `exec` whose command has no meaning yet. Safe. -/
  | notModelled (mnemonic : String)
  deriving DecidableEq, Repr

/-- DEV_STATE.STATE (R432). -/
inductive DevSt where
  | stowed | pitching | pitched | open_ | striking | tripped
  deriving DecidableEq, Repr

/-- An entry of Ledger sections 11 to 13 (R532). -/
structure VarEntry where
  kind : Nat
  unit : Nat
  payload : Bytes
  deriving DecidableEq, Repr

/-- A Ledger's contents: sections 1 to 10 as lists of little-endian entries, sections 11 to 13 (R435). -/
structure Sections where
  fixed : Tab (List Nat) := []
  vars : Tab (List VarEntry) := []
  deriving DecidableEq, Repr

/-- What the device keeps of an accepted Ledger (R437). -/
structure LedgerAcc where
  gen : Nat
  svn : Nat
  sealTime : Nat
  logIndex : Nat
  rotation : Nat
  digest : Bytes
  secs : Sections
  deriving DecidableEq, Repr

/-- What the device keeps of an accepted firmware package (R377, R378). -/
structure Pkg where
  svn : Nat
  slot : Nat
  digest : Bytes
  comps : Tab Bytes
  deriving DecidableEq, Repr

/-- Device state, configuration commit and declaration (control plane). -/
structure Dev where
  /-- DEV_STATE.STATE, 3 bits (18_start_and_reset.md R432); reset STOWED. -/
  st : DevSt := .stowed
  /-- Generation of the last successful commit of this start, 64 bits (R448); reset 0. -/
  commitGen : Nat := 0
  /-- SHAKE256 digest of the committed configuration set, 64 bytes (R385, R389); reset empty. -/
  commitDigest : Bytes := []
  /-- The committed configuration set: the partition table and every RWL register instance as last
  committed, keyed as `Regs.w` (R20, R447, R450); reset empty (every field at its reset value). -/
  ptab : Tab Word := []
  /-- RWL fields are read-only, 1 bit (R11, R450); reset 0. -/
  locked : Bool := false
  /-- Partitions are in service: a commit succeeded and neither REPITCH nor STRIKING has torn them
  down (R394, R450); reset 0. -/
  inService : Bool := false
  /-- The operation of the CONFIG_COMMIT admitted and not yet complete (R448); reset none. -/
  commitOp : Option Nat := none
  /-- DEV_CTL.STRIKE waits for that commit, 1 bit (R448, R452); reset 0. -/
  strikeWaits : Bool := false
  /-- A DEV_CTL.REPITCH is tearing the partitions down, 1 bit (R451); reset 0. -/
  repitch : Bool := false
  /-- DEV_STAT.CFG_WRITE_LOST, 1 bit (23_setup_registers.md R519); reset 0. -/
  cfgWriteLost : Bool := false
  /-- DEV_STAT.FATAL, 1 bit (R482, R519); reset 0. -/
  fatal : Bool := false
  /-- DEV_STAT.STRIKE_REFUSED, 1 bit (R452, R519); reset 0. -/
  strikeRefused : Bool := false
  /-- DEV_DECL_TENTS.USABLE, 8 bits (R445, R519); reset 0. -/
  usable : Nat := 0
  /-- DEV_DECL_CORES.COUNT of each cluster, 4 bits each (R445, R519); reset 0. -/
  declCores : Tab Nat := []
  /-- DEV_DECL_PLOT.MAX_WAYS of each Tent, 4 bits each (R445, R519); reset 0. -/
  declWays : Tab Nat := []
  /-- Physical addresses of the lines out of service; LINES_OUT is their number (R255, R445); reset none. -/
  linesOut : List Nat := []
  /-- Linear channels out of service; CHANNELS_OUT is their number (R248, R445); reset none. -/
  chansOut : List Nat := []
  /-- DEV_DECL_SPAN.OUT, 18 bits (R445, R519); reset 0. -/
  spanOut : Nat := 0
  /-- DEV_DECL_LDG.NEW_DEFECTS, 16 bits (R445, R519); reset 0. -/
  newDefects : Nat := 0
  /-- Bound physical core of each logical core, one entry per enabled core (R30); reset none. -/
  physOf : Tab Nat := []
  deriving DecidableEq, Repr

/-- Start, Ledger and seal. -/
structure Boot where
  /-- BOOT_STAT.PHASE, 3 bits (R433, R520); reset 0. -/
  phase : Nat := 0
  /-- BOOT_STAT.RESULT, 4 bits (R520); reset 0. -/
  result : Nat := 0
  /-- BOOT_STAT.BUSY, 1 bit (R434, R520); reset 0. -/
  busy : Bool := false
  /-- BOOT_STAT.SEALED, 1 bit (R452, R520); reset 0. -/
  sealed : Bool := false
  /-- BOOT_STAT.KIND, 2 bits (R440, R520); reset 0. -/
  kind : Nat := 0
  /-- BOOT_STAT.COLD_REASON, 6 bits (R440, R520); reset 0. -/
  coldReason : Nat := 0
  /-- BOOT_STAT.TOKEN, 3 bits (R380, R520); reset 0. -/
  token : Nat := 0
  /-- BOOT_LDG_OUT_LEN.LEN, 24 bits (R452, R520); reset 0. -/
  outLen : Nat := 0
  /-- The UDS was reconstructed, 1 bit (15_trust.md R373); reset 1 (each release decides it). -/
  pufOk : Bool := true
  /-- The accepted firmware package (R378); reset none. -/
  pkg : Option Pkg := none
  /-- The accepted Ledger (R437); reset none. -/
  ledger : Option LedgerAcc := none
  /-- The working copy of the Ledger (R442); reset empty. -/
  work : Sections := {}
  /-- ROTATION that the successor carries, 6 bits (R435, R441); reset 0. -/
  rotation : Nat := 0
  /-- BOOT_TIME and TSCLK at BOOT_CTL.START, 64 bits each (R434, R435); reset 0. -/
  startTime : Nat := 0
  startTick : Nat := 0
  /-- The sealed Ledger written and not yet committed to the Identity Store (R452 step 4): its
  generation and digest; reset none. -/
  sealing : Option (Nat × Bytes) := none
  /-- EV_LEDGER_TRIMMED is due at the seal (R453), 1 bit; reset 0. -/
  trimmed : Bool := false
  /-- The defect findings of the start's tests, with the figures R441 gives rails (R441, R457); reset none. -/
  found : Option Findings := none
  /-- Die rails are off after step 5 of the seal, 1 bit (R452, R517); reset 0. -/
  dark : Bool := false
  deriving DecidableEq, Repr

/-- One copy of the anti-rollback record (R382): `tag` says that its KMAC256 tag verifies. -/
structure IdRec where
  tag : Bool := true
  minSvn : Nat := 0
  revoked : Nat := 0
  gen : Nat := 0
  digest : Bytes := []
  marker : Bool := false
  expect : Nat := 0
  deriving DecidableEq, Repr

/-- An entry of the measurement log (R385). -/
structure LogEntry where
  seq : Nat
  kind : Nat
  part : Nat
  ts : Nat
  subject : Bytes
  digest : Bytes
  deriving DecidableEq, Repr

/-- An SPDM connection (R387, R388). -/
structure Conn where
  /-- It runs inside a secured session. -/
  secured : Bool := false
  /-- Signing input of its last signed response, held for PQ_SIG. -/
  signed : Option Bytes := none
  /-- The large response that CHUNK_GET reads on. -/
  chunk : Bytes := []
  deriving DecidableEq, Repr

/-- Security processor and Identity Store. -/
structure Trust where
  /-- The two copies of the anti-rollback record (R382, R383): minimum SVN 32 bits, revoked slots 4 bits,
  Ledger generation 64 bits, digest 64 bytes, marker 1 bit, expected RPMC 32 bits; kept across
  resets; reset as manufactured (R379, R438), the RPMC 0 a DESIGN CHOICE. -/
  copyA : IdRec := {}
  copyB : IdRec := { expect := 1 }
  /-- Replay-protected monotonic counter, 32 bits (R381); kept; reset DESIGN CHOICE 0. -/
  rpmc : Nat := 0
  /-- Life-log records written in the device's life, 32 bits (R241, R435); kept; reset 0. -/
  lifeRecords : Nat := 0
  /-- Bond-wear bins of each Tent as last written to the life log (R241); kept; reset empty. -/
  lifeBins : Tab (List Nat) := []
  /-- The measurement log's stored entries, at most 16,384 (R385, R386); reset empty. -/
  log : List LogEntry := []
  /-- Sequence number of the next entry, 32 bits (R23); reset 0. -/
  seq : Nat := 0
  /-- The device chain value, 64 bytes (R386); reset zeros. -/
  chain : Bytes := List.replicate 64 0
  /-- Chain value and entry count of each partition (R386, R389); reset zeros. -/
  pchain : Tab (Bytes × Nat) := []
  /-- EV_LOG_FULL posted this start, 1 bit (R386); reset 0. -/
  logFull : Bool := false
  /-- Imported keys, slot 16p + i (R391); reset none. -/
  keys : Tab Bytes := []
  /-- SPDM connections (R387, R388); reset none. -/
  conns : Tab Conn := []
  /-- TDISP state of VF(p+1)'s TDI: 0 CONFIG_UNLOCKED, 1 CONFIG_LOCKED, 2 RUN, 3 ERROR (R303); reset 0. -/
  tdi : Tab Nat := []
  /-- Selective streams in the insecure state (R302); reset none. -/
  ideBad : List Nat := []
  /-- Test access ports are open for return-to-vendor analysis, 1 bit (R389); reset 0. -/
  tapOpen : Bool := false
  /-- Partitions attached by a debugger since they entered service, 8 bits (R389); reset 0. -/
  everAttached : Nat := 0
  /-- SEC_MBOX_STAT.RESULT, 3 bits (R380, R526); reset 0. -/
  mboxResult : Nat := 0
  /-- SEC_MBOX_STAT.BUSY, 1 bit (R526); reset 0 (a token is checked within its command). -/
  mboxBusy : Bool := false
  deriving DecidableEq, Repr

/-- The register file of BAR0 (R519 to R531). -/
structure Regs where
  /-- Every writable register instance as last written, 32 bits each, keyed offset + 2^25 × instance
  (selector value, or function for the EVT_ block) (R515, R519 to R530); reset the Reset column. -/
  w : Tab Word := []
  /-- Selector registers, held per accessor: key offset + 2^25 × accessor (R515); reset 0. -/
  sel : Tab Word := []
  /-- High words latched by a read of the low word, per accessor and register (R514); reset 0. -/
  latch : Tab Word := []
  /-- Low words written and waiting for their high word, key offset (R514); reset none. -/
  stage : Tab Word := []
  deriving DecidableEq, Repr

/-- What leaves the block over the host link. -/
inductive HostMsg where
  | write (fn addr : Nat) (data : Bytes) (ep relaxed : Bool)
  | interrupt (fn vector : Nat)
  | completion (fn : Nat) (status : Nat) (data : Bytes) (ep : Bool)
  | retry (fn : Nat)
  | read (tag fn addr len : Nat)
  | invalidated (fn addr len : Nat)
  | doe (conn : Nat) (data : Bytes)
  deriving DecidableEq, Repr

/-- Why the block reads host memory, with what the completion goes to (R300). -/
inductive ReadFor where
  | core (core id : Nat)
  | copy (op : Nat) (dst len : Nat)
  deriving DecidableEq, Repr

/-- An outstanding non-posted request (R300). -/
structure HostOut where
  tag : Nat
  fn : Nat
  addr : Nat
  len : Nat
  why : ReadFor
  /-- TSCLK at which it left (R300). -/
  at_ : Nat := 0
  deriving DecidableEq, Repr

/-- The PCI Express port and its functions (12_host_link.md). -/
structure Link where
  /-- The link is up, 1 bit (R285, R286); reset 0. -/
  up : Bool := false
  /-- Trained rate in 0.1 GT/s and width in lanes (R285, R286); reset 0. -/
  rate10 : Nat := 0
  width : Nat := 0
  /-- Flit mode is in use, and the width that L0p leaves in use (R285); reset 0. -/
  flit : Bool := false
  active : Nat := 0
  /-- Base addresses of BAR0, BAR2 and BAR4 of the PF (0, 2, 4) and of the VFs in the SR-IOV capability (8 + BAR) (R290);
  reset PRESUMED 0 (PCI Express). -/
  bars : Tab Nat := []
  /-- Max_Payload_Size and Max_Read_Request_Size, 128 × 2^code bytes (R285, R300); reset PRESUMED 0 (128 bytes) and 2
  (512 bytes) (PCI Express). -/
  mps : Nat := 0
  mrrs : Nat := 2
  /-- 10-bit tags, Relaxed Ordering, ECRC generation and checking are enabled, 1 bit each (R285, R300, R306); reset PRESUMED
  0, 1, 0, 0 (PCI Express). -/
  tag10 : Bool := false
  relaxed : Bool := true
  ecrcGen : Bool := false
  ecrcChk : Bool := false
  /-- The Completion Timeout Value, in TSCLK ticks (R300); reset 10 ms. -/
  cplTimeout : Nat := 1000000
  /-- Address and data of each MSI-X table entry, key 64 × function + vector (R291, R299); reset PRESUMED 0 (PCI Express). -/
  msix : Tab (Nat × Nat) := []
  /-- The configuration space is ready, 1 bit (R287); reset 0. -/
  cfgReady : Bool := false
  /-- SRIS, as PCIE_SRIS was read at the release of PERST_N, 1 bit (R285, R497); reset 0. -/
  sris : Bool := false
  /-- Functions in D3hot (R298); reset none. -/
  d3 : List Nat := []
  /-- Functions whose Memory Space Enable is set (R292); reset none. -/
  memSpace : List Nat := []
  /-- Functions whose ATS is enabled (R301); reset none. -/
  ats : List Nat := []
  /-- Size of BAR4 in log2 GiB: index 0 the PF, 1 every VF (R290, R293); reset 0 (1 GiB). -/
  bar4 : Tab Nat := []
  /-- NumVFs while VF Enable is set, 0 while it is clear (R295, R296); reset 0. -/
  numVfs : Nat := 0
  /-- DEV_VF_STAT.ENABLE_PENDING with the NumVFs latched (R296); reset none. -/
  vfPend : Option Nat := none
  /-- VFs are being shut down, 1 bit (R296); reset 0. -/
  vfShut : Bool := false
  /-- MSI-X vectors that are not masked, 64 × function + vector (R299); reset PRESUMED none (PCI Express
  resets every Mask bit to 1). -/
  unmasked : List Nat := []
  /-- MSI-X pending bits, 64 × function + vector (R299); reset none. -/
  pba : List Nat := []
  /-- Outstanding requests to host memory (R300); reset none. -/
  reads : List HostOut := []
  /-- Number of the next non-posted request: the model's name for its function and 10-bit tag (R285, R300); reset 0. -/
  nextTag : Nat := 0
  /-- Address translation caches: function and 4 KiB page, at most 1,024 each (R301); reset none. -/
  atc : List (Nat × Nat) := []
  /-- Invalidate Requests that wait for reads: function, address and length (R301); reset none. -/
  inval : List (Nat × Nat × Nat) := []
  /-- Errors logged in AER: function and kind, 1 UR, 2 CA, 3 poisoned TLP, 4 completion timeout, 5 ECRC
  (R292, R306); reset none. -/
  aer : List (Nat × Nat) := []
  /-- What has left the block towards the host, oldest first (R299, R300); reset none. -/
  out : List HostMsg := []
  /-- Writes and interrupts held while their function is in D3hot (R298); reset none. -/
  held : List HostMsg := []
  deriving DecidableEq, Repr

/-- A switched domain (R412). -/
structure Dom where
  /-- 0 OFF, 1 RAMPING, 2 ON, 3 SHUTTING. -/
  st : Nat := 0
  pend : Bool := false
  deriving DecidableEq, Repr

/-- Power delivery and clocking (16_power_and_clocks.md). -/
structure Pwr where
  /-- Input voltage in mV and current in mA as last brought in (R414, R469); reset 50,000 and 0, a DESIGN CHOICE. -/
  vin : Int := 50000
  iin : Nat := 0
  /-- Input power in W at the last ten allocations, newest first: the 1 ms running mean (R414, R469); reset none. -/
  pin : List Nat := []
  /-- The first-stage converter runs, 1 bit (R396); reset 1 (power good). -/
  running : Bool := true
  /-- The input stage has opened and waits to reconnect, 1 bit (R504); reset 0. -/
  opened : Bool := false
  /-- EV_PWR_INPUT_LOW posted for the present dip, 1 bit (R396); reset 0. -/
  lowPosted : Bool := false
  /-- Rails on local sense (R397); reset none. -/
  localSense : List Nat := []
  /-- Rise of the output of a rail on local sense, in 1/1000, at most 30 (R397); reset none. -/
  rise : Tab Nat := []
  /-- Failed phases, 16 × rail + phase (R400); reset none (each start adds the Ledger's). -/
  phaseBad : List Nat := []
  /-- Rails shut down (R401); reset none. -/
  railOff : List Nat := []
  /-- Setpoint of each in-package rail in mV (R399); reset DESIGN CHOICE 0 until a start characterises it. -/
  railMv : Tab Nat := []
  /-- Allocation of each cluster rail in mA under R414; absent until the first allocation; reset none. -/
  alloc : Tab Nat := []
  /-- Lowest minimum of each rail in mV with its timestamp (R403); reset 0, restarted at each start. -/
  vmin : Tab (Nat × Nat) := []
  /-- Droop stretch of each cluster in root cycles, 5 or 6 (R404, R405); reset none (4). -/
  droop : Tab Nat := []
  /-- Clusters whose droop stretch has begun to step down (R405); reset none. -/
  stepping : List Nat := []
  /-- Clusters whose arbiter forces ÷6 for a ramp (R410 step 4); reset none. -/
  ramp6 : List Nat := []
  /-- Mean period the arbiter of each cluster rail requests, in 1/1000 root cycle (R407); reset 4,000. -/
  arb : Tab Nat := []
  /-- Cluster rails whose matrix queues are held (R407 rule 3); reset none. -/
  hold : List Nat := []
  /-- Thermal period floor of each cluster rail's arbiter: 0 none, 1 ÷5 on every second period, 2 ÷5, 3 ÷6
  (R425); reset 0. -/
  floor : Tab Nat := []
  /-- PWR_STR_CNT5 and PWR_STR_CNT6 of each cluster, 64 bits (R406, R524); reset 0. -/
  cnt5 : Tab Nat := []
  cnt6 : Tab Nat := []
  /-- Droops counted on rails that do not stretch (R404); reset 0. -/
  droopCnt : Tab Nat := []
  /-- The 1,020 switched domains (R409, R412); reset OFF but those R411 switches on at start. -/
  doms : Tab Dom := []
  /-- Domains waiting for their rail's grant (R410); reset none. -/
  wait : List Nat := []
  /-- Domains whose ramp failed since the start; they stay open (R410); reset none. -/
  domFail : List Nat := []
  /-- Rotating pointer of each rail's arbiter over domain index (R273, R410); reset 0. -/
  ptr : Tab Nat := []
  /-- PWR_LIMIT_EFF.WATTS, 13 bits (R413, R524); reset 3,600. -/
  eff : Nat := 3600
  /-- The input-current term clamps the limit, 1 bit (R413); reset 0. -/
  clamped : Bool := false
  /-- PWR_TRIP.CAUSE with THM_TRIP.DIE and SENSOR, held by the carrier from auxiliary 3.3 V: (cause, die,
  sensor) (R427, R524, R525); kept; reset 0 (NONE, no trip). -/
  trip : Nat × Nat × Nat := (0, 0, 0)
  /-- The trip cause that the present start latched from it (R524, R428); reset as `trip`. -/
  latched : Nat × Nat × Nat := (0, 0, 0)
  /-- Seconds since the last trip and ages of the trips of the last 24 h, kept from auxiliary 3.3 V (R428,
  R429); kept; reset none. -/
  trips : List Nat := []
  /-- The controller holds the converter off (R429), 1 bit; reset 0. -/
  holdOff : Bool := false
  /-- A trip has latched the converter off until its restart (R427, R428), 1 bit; kept; reset 0. -/
  tripOff : Bool := false
  /-- The trip fell in the present cycle of SCLK, 1 bit (R427); reset 0. -/
  tripNow : Bool := false
  /-- Auxiliary 3.3 V is present, 1 bit (R510); reset 1. -/
  aux : Bool := true
  /-- THERMTRIP_N driven low, 1 bit (R427, R497); reset 0. -/
  thermtrip : Bool := false
  /-- CLK_STAT.LOCKED, 1 bit (R526); reset 1. -/
  clkLocked : Bool := true
  /-- CLK_STAT.ALIGN_CNT, 16 bits (R416, R526); reset 0. -/
  alignCnt : Nat := 0
  deriving DecidableEq, Repr

/-- Rainflow state of one Tent (R240). -/
structure Wear where
  /-- Turning points not yet closed, in 1/4 °C × sensors summed form reduced to mK, oldest first. -/
  res : List Int := []
  /-- The five bins in half cycles, lowest bin first. -/
  bins : List Nat := [0, 0, 0, 0, 0]
  deriving DecidableEq, Repr

/-- Temperature (17_thermal.md). -/
structure Thm where
  /-- Last reading of each of the 1,184 sensors in 0.25 °C, 11 bits signed (R419); reset DESIGN CHOICE 0. -/
  temp : Tab Int := []
  /-- THM_LID.DEGC, 11 bits signed (R525); reset 0. -/
  lid : Int := 0
  /-- Excluded sensors (R422); reset none (each start adds the Ledger's). -/
  excl : List Nat := []
  /-- Regions whose EV_THM_REGION_CAPPED was posted (R423); reset none. -/
  capped : List Nat := []
  /-- THM_THROTTLE.LEVEL n, 7 bits (R424, R525); reset 0. -/
  level : Nat := 0
  /-- 5 ms ticks since the start, modulo 4 (R424); reset 0. -/
  phase : Nat := 0
  /-- Every region has been at or below target − 3 K since the last 20 ms tick, 1 bit (R424); reset 0. -/
  clear : Bool := false
  /-- EV_THM_FLOOR posted in this episode, 1 bit (R424); reset 0. -/
  floorPosted : Bool := false
  /-- EV_THM_LID_HOT posted this start, 1 bit (R430); reset 0. -/
  lidPosted : Bool := false
  /-- Bond wear of each Tent (R240, R241); bins kept in the life log; reset 0. -/
  wear : Tab Wear := []
  /-- THM_LEAK.STATE, 2 bits (R508, R525); reset 3. -/
  leak : Nat := 3
  /-- Last leak classes measured, newest first, at most three (R508); reset none. -/
  leakRun : List Nat := []
  /-- Sensors above their warning or critical threshold, by PLDM sensor ID (R469, R470); reset none. -/
  above : List Nat := []
  deriving DecidableEq, Repr

/-- A detected event on its way to the rings (R330, R490, R491). -/
structure Ev where
  code : Nat
  sev : Nat
  ts : Nat
  part : Nat
  ring : Nat
  unit : Nat
  addr : Nat
  detail : Bytes
  /-- SUPPRESSED (R492). -/
  sup : Nat := 0
  deriving DecidableEq, Repr

/-- The event ring of a function (R329). -/
structure EvRing where
  /-- EVT_CFG.ENABLE, 1 bit (R529); reset 0. -/
  on : Bool := false
  /-- The device's write index, 16 bits (R329); reset 0. -/
  wr : Nat := 0
  /-- EVT_HEAD.INDEX, 16 bits (R529); reset 0. -/
  head : Nat := 0
  /-- PHASE of the present pass, 1 bit (R323); reset 1. -/
  phase : Bool := true
  /-- EVT_STAT bits and LOST (R529); reset 0. -/
  overflow : Bool := false
  cfgErr : Bool := false
  writeFail : Bool := false
  lost : Nat := 0
  deriving DecidableEq, Repr

/-- The event path (21_errors_and_events.md). -/
structure Evt where
  /-- Events detected and not yet written, oldest first (R491); reset none. -/
  q : List Ev := []
  /-- Event rings by function (R329); reset disabled. -/
  ring : Tab EvRing := []
  /-- Counts by function and code, 2^16 × function + code, 32 bits (R493); reset 0. -/
  cnt : Tab Nat := []
  /-- Last posted time and SUPPRESSED of each rate-limited source, 2^32 × code + UNIT (R492); reset none. -/
  win : Tab (Nat × Nat) := []
  /-- UNCORRECTED and FATAL events detected, as BEAT sends them (R474); reset 0. -/
  nUnc : Nat := 0
  nFatal : Nat := 0
  /-- Alert status, 5 bits (R470); reset 0. -/
  alert : Nat := 0
  /-- Partitions failed: PART_STAT.FAILED, 1 bit each (R481, R522); reset 0. -/
  failed : List Nat := []
  /-- Partitions whose FATAL event has been written and whose reset has not begun (R481); reset none. -/
  due : List Nat := []
  deriving DecidableEq, Repr

/-- Management buses (20_management_and_guyline.md). -/
structure Mgt where
  /-- I3C dynamic address, 7 bits (R467); reset none. -/
  i3c : Option Nat := none
  /-- Endpoint ID of each transport, 0 I3C, 1 PCIe (R467); reset none. -/
  eid : Tab Nat := []
  /-- Messages in flight by requester and type (R467); reset none. -/
  inflight : List (Nat × Nat) := []
  /-- Responses sent: transport, requester and bytes (R467, R468, R509); reset none. -/
  out : List (Nat × Nat × Bytes) := []
  /-- Pins whose EV_PIN_FAULT was posted this start (R479, R508); reset none. -/
  pins : List Nat := []
  deriving DecidableEq, Repr

/-- A Guyline frame sent: type, HOPS, SRC_POS, SEQ, body and CRC (R474). -/
structure GlnOut where
  type : Nat
  hops : Nat
  src : Nat
  seq : Nat
  body : List Nat
  crc : Nat
  deriving DecidableEq, Repr

/-- The Guyline ring (R471 to R478). -/
structure Gly where
  /-- GLN_STAT.STATE: 0 BYPASSED, 1 JOINING, 2 ELECTING, 3 RING, 4 CHAIN, 5 FAULT (R473); reset 0. -/
  st : Nat := 0
  /-- BYPASS_HOLD driven, 1 bit (R471); reset 0. -/
  hold : Bool := false
  /-- Ports A and B have swapped roles, 1 bit (R472); reset 0. -/
  swapped : Bool := false
  /-- GLN_STAT.POS and GLN_STAT.N, 6 and 7 bits (R528); reset 0. -/
  pos : Nat := 0
  n : Nat := 0
  /-- The module is master, 1 bit (R474); reset 0. -/
  master : Bool := false
  /-- Frame count, SEQ of the next frame, 32 bits (R474); reset 0. -/
  seq : Nat := 0
  /-- GLN_TIME_OFS.NS, 32 bits signed (R475); reset 0. -/
  ofs : Int := 0
  /-- GLN_CNT.CRC, 16 bits (R474); reset 0. -/
  crc : Nat := 0
  /-- The rack share in force in W, none while the rack term is absent: GLN_GRANT.WATTS (R477); reset none. -/
  grant : Option Nat := none
  /-- A higher grant received, in force at the next round (R477); reset none. -/
  next : Option Nat := none
  /-- The last BEAT of each position (R474, R528); reset none. -/
  peers : Tab Beat := []
  /-- Loop delay of the previous SYNC in ns and the master's send time (R475); reset 0. -/
  delay : Nat := 0
  syncAt : Nat := 0
  /-- EV_GLN_BUDGET_SHORT posted in this episode, 1 bit (R476); reset 0. -/
  short : Bool := false
  /-- This module sends BREAK (R478), 1 bit; reset 0. -/
  breaking : Bool := false
  /-- EV_GLN_RING_UP waits for the discovery that follows a repair (R478), 1 bit; reset 0. -/
  upDue : Bool := false
  /-- Frames sent or forwarded, oldest first (R474); reset none. -/
  out : List GlnOut := []
  deriving DecidableEq, Repr

/-- A Span port (R346). -/
structure Port where
  /-- SPN_PORT_STAT: STATE, REASON, WIDTH, ENABLE_PENDING, CROSSED (R527); reset 0. -/
  st : Nat := 0
  reason : Nat := 0
  width : Nat := 0
  pend : Bool := false
  crossed : Bool := false
  /-- SPN_PORT_CTL.ENABLE, 1 bit (R366, R527); reset 0. -/
  enable : Bool := false
  /-- The port drains after a disable (R366); reset 0. -/
  draining : Bool := false
  /-- Logical lane and inversion of each physical lane (R348); reset none. -/
  lanes : List (Option LaneTrain) := []
  /-- Peer Span address learnt in training (R348, R354); reset none. -/
  peer : Option Nat := none
  /-- EV_SPAN_MISWIRED posted since the port entered MISWIRED (R347), 1 bit; reset 0. -/
  miswired : Bool := false
  /-- Start times of the last retrains in TSCLK (R350); reset none. -/
  retrains : List Nat := []
  /-- Receive sequence, last acknowledged and discarding flag of the flit layer, 12 bits (R351, R352); reset 0. -/
  rxSeq : Nat := 0
  txSeq : Nat := 0
  discarding : Bool := false
  /-- Flits in the replay buffer, at most 512: SEQ, TYPE and PAYLOAD; and replays of the present flit (R350, R352);
  reset none and 0. -/
  replay : List (Nat × Nat × Bytes) := []
  replays : Nat := 0
  /-- Transmit credits in flits, and receive-buffer flits freed since the last flit sent (R351); reset 0. -/
  credits : Nat := 0
  freed : Nat := 0
  /-- SPN_PORT_CNT by KIND, 64 bits each (R352, R527); reset 0. -/
  cnt : Tab Nat := []
  /-- Session keys established; message counters and key generations of each direction (R355); reset 0. -/
  secure : Bool := false
  txCount : Nat := 0
  rxCount : Nat := 0
  txGen : Nat := 0
  rxGen : Nat := 0
  /-- Sessions of the port so far: each has keys of its own (R355); reset 0. -/
  sess : Nat := 0
  /-- Peer of the port's trained coefficients, as the seal records them (R349); reset none. -/
  coeff : Option Nat := none
  /-- Peer and width of the last link test that found fewer than four good lanes, for section 10 (R435); reset none. -/
  narrowed : Option (Nat × Nat) := none
  /-- This training began from the Ledger's coefficients, 1 bit (R349); reset 0. -/
  fromSaved : Bool := false
  /-- Logical lanes in use (R348); reset none. -/
  active : List Nat := []
  deriving DecidableEq, Repr

/-- A rank's group table (R357). -/
structure Group where
  id : Nat
  rank : Nat
  scratch : Nat
  scratchLen : Nat
  /-- Span address and first-hop ports of each rank. -/
  ranks : List (Nat × List Nat)
  deriving DecidableEq, Repr

/-- An active Span operation (R358 to R365). -/
structure SpanOp where
  op : Nat
  part : Nat
  ctx : Nat
  /-- 0 to 3 the collective kinds, 4 SPAN_SEND, 5 SPAN_RECV. -/
  kind : Nat
  elem : Nat
  red : Nat
  seq : Nat
  grp : Group
  src : Nat
  dst : Nat
  count : Nat
  running : Bool
  /-- Ranks whose READY, DONE and GO are held; ranks to which DATA was sent (256 + rank: result chunks) and DONE was sent. -/
  ready : List Nat := []
  done : List Nat := []
  go : List Nat := []
  sent : List Nat := []
  doneTo : List Nat := []
  /-- Bytes of DATA received from each rank (256 + rank: of result chunks), and lengths of R362 by source × P + destination. -/
  got : Tab Nat := []
  lens : Tab Nat := []
  /-- The reduction of the owned chunk has been made (R360). -/
  combined : Bool := false
  /-- Point to point: peer rank, TAG matched, bytes agreed. -/
  peer : Nat := 0
  agreed : Option Nat := none
  /-- Ports that have carried its messages; one of them was at x2 or x1 (R365, R369). -/
  used : List Nat := []
  narrow : Bool := false
  /-- Ranks that answered NACK, BUSY (R359). -/
  retry : List Nat := []
  deriving DecidableEq, Repr

/-- Span ports and collectives (14_span_links.md). -/
structure Span where
  /-- The 18 ports (R344, R346); reset OFF. -/
  ports : Tab Port := []
  /-- Active and waiting operations in admission order (R359); reset none. -/
  ops : List SpanOp := []
  /-- Control messages held for operations not yet running, at most 1,024 per partition: partition
  and message (R359); reset none. -/
  held : List (Nat × SpanMsg) := []
  /-- REQs received and not yet matched, in order of arrival: partition and message (R364); reset none. -/
  reqs : List (Nat × SpanMsg) := []
  /-- Messages sent: port and message, oldest first (R353); reset none. -/
  out : List (Nat × SpanMsg) := []
  /-- Flits sent: port and the 256 bytes, oldest first (R351); reset none. -/
  wire : List (Nat × Bytes) := []
  /-- Messages that wait for a port with transmit credit: the listed ports, the operation, none for a forwarded
  message, and the message (R356, R357); reset none. -/
  wait : List (List Nat × Option Nat × SpanMsg) := []
  deriving DecidableEq, Repr

/-- A submission ring and its completion ring (R308 to R335). -/
structure Ring where
  /-- RING_STAT.STATE: 0 DISABLED, 1 ENABLED, 2 DISABLING, 3 FAULTED (R333); reset 0. -/
  st : Nat := 0
  /-- RING_STAT.ENABLE_PENDING, CFG_ERR, DB_ERR, 1 bit each (R521); reset 0. -/
  pend : Bool := false
  cfgErr : Bool := false
  dbErr : Bool := false
  /-- Owning function: 0 the PF (R308); reset 0. -/
  owner : Nat := 0
  /-- SQ_TAIL.INDEX, RING_SQ_HEAD.INDEX, CQ_HEAD.INDEX, RING_CQ_TAIL.INDEX, 16 bits (R521, R531); reset 0. -/
  sqTail : Nat := 0
  sqHead : Nat := 0
  cqHead : Nat := 0
  cqTail : Nat := 0
  /-- PHASE of the present pass, 1 bit (R323); reset 1. -/
  phase : Bool := true
  /-- Descriptors fetched and not yet admitted: slot and 64 bytes (R313, R320); reset none. -/
  fetched : List (Nat × Bytes) := []
  deriving DecidableEq, Repr

/-- An admitted operation (R316, R320). -/
structure Op where
  id : Nat
  ring : Nat
  slot : Nat
  desc : Bytes
  /-- TSCLK at admission, for DURATION (R322). -/
  tick : Nat
  /-- 0 admitted, 1 running, 2 waiting (SEM_WAIT, full unit), 3 result ready. -/
  stage : Nat := 0
  /-- Status, INFO and RESULT formed so far. -/
  status : Nat := 0
  info : Nat := 0
  result : Nat := 0
  /-- Host reads outstanding for it (COPY); rows remapped in its channels when it began (SCRUB). -/
  reads : Nat := 0
  /-- Bytes it writes, or a digest it logs, when it completes (R460, R462, R393). -/
  data : Bytes := []
  deriving DecidableEq, Repr

/-- Rings, operations and the descriptor engines. -/
structure Rings where
  /-- The 256 rings (R308); reset DISABLED. -/
  ring : Tab Ring := []
  /-- Admitted operations not yet complete, oldest first (R320); reset none. -/
  ops : List Op := []
  /-- Identifier of the next operation (the model's own name for it); reset 0. -/
  nextOp : Nat := 0
  /-- Rotating pointer of the descriptor engines (R273, R313), 8 bits; reset 0. -/
  ptr : Nat := 0
  deriving DecidableEq, Repr

/-- An entry point of a bundle (R80). -/
structure Entry where
  code : Nat
  regs : Nat
  groups : Nat
  barriers : Nat
  sharedLs : Nat
  groupLs : Nat
  formats : Nat
  accBanks : Nat
  uses : Nat
  deriving DecidableEq, Repr

/-- A loaded bundle (R78 to R83). -/
structure Bundle where
  handle : Nat
  part : Nat
  base : Nat
  len : Nat
  codeOff : Nat
  codeLen : Nat
  roOff : Nat
  roLen : Nat
  entries : List Entry
  /-- Unloaded, its space not yet freed: the UNLOAD_BUNDLE that waits. -/
  unload : Option Nat := none
  deriving DecidableEq, Repr

/-- The guard policy of a partition (R147, R148). -/
structure Policy where
  mode : Nat := 1
  clipShift : Nat := 7
  shadowShift : Nat := 4
  sampleShift : Nat := 10
  minShift : Nat := 16
  reports : Nat := 0
  va : Nat := 0
  ctx : Nat := 0
  deriving DecidableEq, Repr

/-- The counts one tile or operation sends to its launch's tally (R146, R151). -/
structure Counts where
  actElems : Nat := 0
  actClip : Nat := 0
  actFlush : Nat := 0
  othClip : Nat := 0
  othFlush : Nat := 0
  nonfinite : Nat := 0
  weight : Nat := 0
  shadow : Nat := 0
  shadowOver : Nat := 0
  /-- Over threshold with DEST 0b00, so it fires the shadow trigger. -/
  fires : Bool := false
  /-- Shadow error of the tile, LAYER_TAG and TILE_TAG. -/
  err : Option Word := none
  layer : Nat := 0
  tile : Nat := 0
  deriving DecidableEq, Repr

/-- The guard's tally and state of a launch (R146, R153, R162). -/
structure Guard where
  /-- 0 IDLE, 1 WATCHING, 2 NOTED, 3 PROMOTED. -/
  st : Nat := 0
  c : Counts := {}
  clipTrig : Bool := false
  shadTrig : Bool := false
  saturated : Bool := false
  /-- At least one operation ran promoted. -/
  ran : Bool := false
  ticks : Option Nat := none
  worst : Option (Word × Nat × Nat) := none
  worstW : Option (Nat × Nat × Nat) := none
  weightPosted : Bool := false
  /-- Counts sent by cores and not yet taken (R146). -/
  queue : List Counts := []
  /-- Cores that have received the promotion (R154). -/
  got : List Nat := []
  deriving DecidableEq, Repr

/-- An admitted launch (R84 to R89). -/
structure Launch where
  /-- Its operation. -/
  op : Nat
  part : Nat
  ctx : Nat
  /-- RING_CFG.CLASS of its ring as served (R274). -/
  cls : Nat
  bundle : Nat
  entry : Entry
  grid : Nat × Nat × Nat
  split : Nat
  haltEntry : Bool
  arg : Nat
  seed : Nat
  dynLs : Nat
  spin : Nat
  maxCores : Nat
  timeout : Nat
  /-- Next set to place, sets resident (R86). -/
  next : Nat := 0
  /-- The trap that ends it: TSCLK, code, core, slot (R89); status so far. -/
  trap : Option (Nat × Nat × Nat × Nat) := none
  ended : Bool := false
  status : Nat := 0
  policy : Policy := {}
  guard : Guard := {}
  /-- Cores that have posted EV_TRAP for it (R89). -/
  trapped : List Nat := []
  /-- TSCLK at which the control plane admitted it (R85, R87, R162). -/
  start : Nat := 0
  /-- The partition's count of launches at its admission: SEQ of its report (R160, R162). -/
  seq : Nat := 0
  /-- Cores that have held a set of it (R239). -/
  cores : List Nat := []
  /-- TSCLK ticks in which a group of it was halted, which TIMEOUT_MS leaves out; the limit has been reached (R87). -/
  halted : Nat := 0
  expired : Bool := false
  deriving DecidableEq, Repr

/-- An entry of the reconvergence stack (R59, R60): a path to run, or a join with the threads that
have reached its address. -/
inductive Frame where
  | pend (target : Nat) (mask : Word) (reconv : Nat)
  | join (reconv : Nat) (acc : Word)
  deriving DecidableEq, Repr

/-- Why a thread is parked. -/
inductive Why where
  | barrier (b : Nat)
  | lock (addr : Nat)
  deriving DecidableEq, Repr

/-- A parked thread, with the order in which it began to wait and its resume address (R65, R69). -/
structure Park where
  lane : Nat
  why : Why
  since : Nat
  pc : Nat
  deriving DecidableEq, Repr

/-- A token: its number, done or failed with a trap code (R72, R103, R117). -/
structure Tok where
  t : Nat
  done : Bool := false
  failed : Nat := 0
  deriving DecidableEq, Repr

/-- A resident thread group (R59 to R74). -/
structure Grp where
  /-- The launch's operation, linear set index, index in the set. -/
  launch : Nat
  set : Nat
  idx : Nat
  pc : Nat
  live : Word := BitVec.allOnes 32
  active : Word := BitVec.allOnes 32
  stack : List Frame := []
  parked : List Park := []
  /-- Registers, 256 × lane + register, 32 bits; poison marks by the same index (R485). -/
  regs : Tab Word := []
  pois : List Nat := []
  /-- 0: an unwritten register reads 0; else the generation of its free contents. -/
  gen : Nat := 0
  /-- Registers awaiting a load, as 256 × lane + register. -/
  busy : List Nat := []
  /-- Next token and the tokens named since (R103); outstanding ones are not done. -/
  nextTok : Nat := 1
  toks : List Tok := []
  /-- Locks held: lane and local-store address (R68, R70). -/
  locks : List (Nat × Nat) := []
  /-- Spin count running (R71). -/
  spin : Bool := false
  /-- Halted, with the cause in DBG_STAT.CAUSE; halt requested; a step in progress, a step blocked (R92). -/
  halt : Option Nat := none
  /-- TSCLK, imm16 and the format flag of the trap that halted it (R88 to R90, R93). -/
  trapAt : Nat := 0
  trapImm : Nat := 0
  trapFmt : Bool := false
  haltReq : Bool := false
  stepping : Bool := false
  stepBlocked : Bool := false
  /-- A FENCE waits for the group's memory operations (R73). -/
  fencing : Bool := false
  deriving DecidableEq, Repr

/-- A barrier's present use (R65). -/
structure Bar where
  n : Nat
  arrived : Nat
  exited : Nat
  deriving DecidableEq, Repr

/-- A resident group set (R65, R76, R111). -/
structure GSet where
  launch : Nat
  idx : Nat
  slots : List Nat
  lsBase : Nat
  lsLen : Nat
  shared : Nat
  banks : List Nat
  bars : Tab Bar := []
  /-- Its groups have ended; it stays only for its operations' local store (R135). -/
  gone : Bool := false
  deriving DecidableEq, Repr

/-- A line of a core's L1: bytes held and bytes dirty (R56, R75). -/
structure L1Line where
  addr : Nat
  bytes : List (Nat × Byte)
  dirty : List Nat
  /-- Poison marks per 64-byte half (R485). -/
  pois : Nat := 0
  deriving DecidableEq, Repr

/-- An accumulator (R46, R47, R118). -/
structure Acc where
  v : Word
  pois : Bool := false
  deriving DecidableEq, Repr

/-- An accumulator bank of both arrays: 32 rows by 256 columns, key 256 × row + column (R111, R112). -/
structure Bank where
  int : Bool := false
  acc : Tab Acc := []
  /-- Every accumulator marked poisoned by a failed operation (R117). -/
  allPois : Bool := false
  deriving DecidableEq, Repr

/-- An entry of a core's matrix queue (R102). -/
structure MatOp where
  launch : Nat
  slot : Nat
  tok : Nat
  set : Nat
  /-- Copies of the descriptor (64 bytes, 128 or 192 for attention) and of the epilogue descriptor. -/
  desc : Bytes
  epi : Bytes
  /-- Poison was found in neither copy: a poisoned word raises a trap at issue (R487). -/
  att : Bool
  /-- 0 queued, 1 running, 2 draining, 3 arriving (record written), 4 combine requested, 5 combining. -/
  stage : Nat := 0
  promoted : Bool := false
  sampled : Bool := false
  /-- Query tile of a backward operation (R183). -/
  tile : Nat := 0
  /-- It stood at the head of the queue when its core received the promotion, so it runs as issued (R154). -/
  asIssued : Bool := false
  /-- What it has waited for at the head: bit 0 a bank in the drain (R113, R115), bit 1 its rail's arbiter (R407). -/
  met : Nat := 0
  deriving DecidableEq, Repr

/-- A core's request that has left its load/store port and not yet been answered. -/
structure Outst where
  id : Nat
  slot : Nat
  launch : Nat
  /-- Lanes it serves: (lane, physical address), width, destination register. -/
  lanes : List (Nat × Nat)
  width : Nat
  dst : Nat
  /-- 0 load, 1 store or write-back, 2 atomic returning a value, 3 reduction. -/
  kind : Nat
  deriving DecidableEq, Repr

/-- A core (03_cores_and_groups.md). -/
structure Core where
  /-- The 32 group slots (R56); reset empty. -/
  grps : Tab Grp := []
  /-- Resident sets (R76); reset none. -/
  sets : List GSet := []
  /-- LS_SPLIT in force, 3 bits (R75); reset DESIGN CHOICE 0. -/
  split : Nat := 0
  /-- Local store, canonical cells; 0: an unwritten byte reads 0, else the loss generation (R411, R454); reset 0. -/
  ls : List Host.Cell := []
  lsGen : Nat := 0
  /-- Poisoned local-store words and promotion-marked 16-byte granules (R158, R485); reset none. -/
  lsPois : List Nat := []
  marks : List Nat := []
  /-- Register files hold zeros since the last clear (R454), 1 bit; reset 1. -/
  regClean : Bool := true
  /-- L1 lines (R56, R75); reset none. -/
  l1 : List L1Line := []
  /-- The matrix queue, at most 16 entries, head first (R102); reset empty. -/
  mq : List MatOp := []
  /-- The four physical banks of both arrays (R111); reset +0, tagged FP32. -/
  banks : Tab Bank := []
  /-- The six freeze counters, 64 bits (R116); reset 0. -/
  frz : Tab Nat := []
  /-- Requests outstanding at its ports (R272); reset none. -/
  outst : List Outst := []
  /-- BRKs that did nothing, counted (R74); reset 0. -/
  brks : Nat := 0
  /-- Resets by firmware on a hardware fault this start (R495); reset 0. -/
  faults : Nat := 0
  /-- Further traps of a launch, counted only (R89); reset 0. -/
  extraTraps : Nat := 0
  /-- The last launch on the core was ended, or the core was shut down: the next set increments the epoch (R281); reset 0. -/
  handover : Bool := false
  deriving DecidableEq, Repr

/-- A combine request in a reduction unit's queue (R130, R132). -/
structure Combine where
  core : Nat
  slot : Nat
  tok : Nat
  launch : Nat
  set : Nat
  part : Nat
  ctx : Nat
  desc : Bytes
  epi : Bytes
  /-- The operation is typed INT32. -/
  int : Bool
  promoted : Bool
  deriving DecidableEq, Repr

/-- The control plane's launches and the cores. -/
structure Krn where
  /-- Loaded bundles (R82); reset none. -/
  bundles : List Bundle := []
  /-- Next bundle handle, 32 bits (R82); reset DESIGN CHOICE 1. -/
  nextHandle : Nat := 1
  /-- Launches admitted and not complete (R85); reset none. -/
  launches : List Launch := []
  /-- The 512 logical cores; reset empty, cleared. -/
  cores : Tab Core := []
  /-- Combine queue of each cluster, at most 32 (R132), and its rotating pointer (R273); reset empty, 0. -/
  combq : Tab (List Combine) := []
  combPtr : Tab Nat := []
  /-- Guard policy and report SEQ of each partition (R147, R148, R162); reset R148's, 0. -/
  policy : Tab Policy := []
  gseq : Tab Nat := []
  /-- Order in which threads began to wait (the model's own clock for R69); reset 0. -/
  order : Nat := 0
  deriving DecidableEq, Repr

/-- Who sent a memory request (R214, R490). -/
inductive Src' where
  | core (i : Nat)
  | prefetch (op : Nat)
  deriving DecidableEq, Repr

/-- What a memory request does to one 128-byte line. -/
inductive MemDo where
  /-- Read the whole line for the bytes a core asked for. -/
  | read
  /-- Write the listed bytes (offset in the line). -/
  | write (bytes : List (Nat × Byte)) (pois : Nat)
  /-- An atomic that returns a value: operation, 64-bit, offset, operand, comparand, operand poisoned. -/
  | atom (op : AtomOp) (w64 : Bool) (off : Nat) (x c : Nat) (pois : Bool)
  /-- A reduction (R217): operation, type, its elements as offset and operand word (64 bits wide for INT64 and CADD)
  within the line's 128 bytes, and the halves that hold a poisoned operand. -/
  | red (op : RedOp) (ty : RedTy) (xs : List (Nat × Nat)) (pois : Nat)
  deriving DecidableEq, Repr

/-- A request at a slice (R190, R201). -/
structure MemReq where
  id : Nat
  src : Src'
  cls : Nat
  line : Nat
  act : MemDo
  /-- Partition of the requester, checked again at a Plot's Tent (R267). -/
  part : Nat := 8
  /-- Stamps of the moment it left its port: the role epoch of another Tent's Plot ways, 8 bits (R282), and the deadline,
  12 bits (R275). -/
  epoch : Option Nat := none
  deadline : Nat := 0
  deriving DecidableEq, Repr

/-- A cache line of a slice (R189, R207, R208). -/
structure CLine where
  slice : Nat
  set : Nat
  way : Nat
  line : Nat
  data : Bytes
  dirty : Bool
  /-- Poison marks: bit 0 bytes 0 to 63, bit 1 bytes 64 to 127 (R224). -/
  pois : Nat
  ref : Bool
  deriving DecidableEq, Repr

/-- A miss register (R202). -/
structure Miss where
  slice : Nat
  line : Nat
  /-- Bytes already written, with their poison halves. -/
  merged : List (Nat × Byte)
  mpois : Nat
  waiters : List MemReq
  multicast : Bool
  /-- Reference bit given at installation (R211). -/
  ref : Bool
  deriving DecidableEq, Repr

/-- A live dead-range run: first and last line address, slices that hold it (R213, R214). -/
structure Dead where
  first : Nat
  last : Nat
  /-- Slices that have posted EV_DEADREAD for it. -/
  posted : List Nat
  /-- Slices that have lost their entry of it (R225). -/
  lost : List Nat := []
  deriving DecidableEq, Repr

/-- Groundsheet and HBM3E contents (08_groundsheet.md, 10_hbm.md). -/
structure Mem where
  /-- HBM3E bytes written under the present key, canonical: addresses strictly rising, none equal to what an
  unlisted address reads as (R26, R252); reset none listed: an unlisted byte is noise. -/
  hbm : List Host.Cell := []
  /-- Poisoned 64-byte sectors of HBM3E, as sector number, rising (R250, R489); reset none. -/
  hbmPois : List Nat := []
  /-- Number of key changes of each Tent's region (the model's own count, R252); reset 0. -/
  key : Tab Nat := []
  /-- The XTS key pair in the controllers of each Tent, two 256-bit keys (R252); reset DESIGN CHOICE 0, before a commit loads
  one. -/
  xts : Tab (Nat × Nat) := []
  /-- Number of key pairs drawn, so that each is fresh (the model's own count); reset 0. -/
  pairs : Nat := 0
  /-- Damage standing in the stored symbols of sectors, by sector number: symbol and the bits XORed into it (R247); reset
  none. -/
  flaw : Tab (List (Nat × Nat)) := []
  /-- Upset bytes not yet read, by line: bit 0 in bytes 0 to 63, bit 1 in bytes 64 to 127 (R223); reset none. -/
  upset : Tab Nat := []
  /-- Bytes of the Plot windows, canonical, keyed by physical address; an unlisted byte is 0 (R195, R196); reset none. -/
  plot : List Host.Cell := []
  /-- Poisoned halves of Plot lines, as address / 64, rising (R224); reset none. -/
  plotPois : List Nat := []
  /-- Resident cache lines (R189); reset none. -/
  lines : List CLine := []
  /-- Allocated miss registers, oldest first (R202); reset none. -/
  miss : List Miss := []
  /-- Requests at the slices' inputs, oldest first (R190, R206); reset none. -/
  reqs : List MemReq := []
  /-- Queued reductions, at most 64 per slice, oldest first (R221); reset none. -/
  redq : List MemReq := []
  /-- Reductions forwarded to the controllers, oldest first (R222); reset none. -/
  msa : List MemReq := []
  /-- Live dead-range runs, at most 64 per slice (R213); reset none. -/
  dead : List Dead := []
  /-- Fill mode of each partition: 1 multicast (R205); reset 0 native. -/
  fill : Tab Nat := []
  /-- Parity errors of each physical row this start, 2^16 × slice + row (R226); reset 0. -/
  rowErr : Tab Nat := []
  /-- Rows whose lines have left use, 2^16 × slice + row (R226); reset none. -/
  rowOut : List Nat := []
  /-- Rows recorded for retirement this start, 2^16 × slice + row: they join the Ledger at the next seal (R226); reset none. -/
  rowRec : List Nat := []
  /-- Ways mapped by PLOT_MAP: context, first virtual address and 16 × Tent + way (R197, R199); reset none. -/
  maps : List (Nat × Nat × Nat) := []
  /-- Retired ways, 16 × slice + way (R194); reset none (each start adds the Ledger's). -/
  wayOut : List Nat := []
  /-- Request identifiers (the model's own); reset 0. -/
  nextReq : Nat := 0
  /-- Rotating pointer of each slice's input arbiter over its sources (R273); reset 0. -/
  ptr : Tab Nat := []
  deriving DecidableEq, Repr

/-- A stack's thermal policy (R257, R258). -/
structure Stack where
  /-- Reported temperature in °C (R257); reset DESIGN CHOICE 0. -/
  rep : Int := 0
  /-- Row of R257, 0 to 3 from the coolest. -/
  row : Nat := 0
  hidden : Bool := false
  /-- T_mid in mK and the last one-second counts, newest first, at most 10 (R258, R259). -/
  tmid : Int := 0
  counts : List Nat := []
  /-- Corrected bits of the present one-second window (R246, R258). -/
  win : Nat := 0
  /-- TSCLK from which both conditions of R259 have held without interruption. -/
  clearAt : Option Nat := none
  /-- Sum and number of the windows of the baseline, at most 3,600 (R258). -/
  base : List Nat := []
  base0 : Nat := 16
  deriving DecidableEq, Repr

/-- A channel's controller state (R254 to R256). -/
structure Chan where
  /-- Remapped rows: key of the row (R254) to spare row. -/
  remap : Tab Nat := []
  /-- Corrected sectors of each row this start. -/
  corr : Tab Nat := []
  /-- EV_HBM_SPARES_OUT posted. -/
  sparesOut : Bool := false
  /-- Unrepaired rows recorded this start. -/
  unrep : List Nat := []
  /-- Pins decoded as erasures, 64 × pseudo-channel + pin (R248). -/
  pins : List Nat := []
  /-- Rolling accumulated activation count, 64 × pseudo-channel + bank, and the activations held at the maximum (R256). -/
  raa : Tab Nat := []
  held : Tab Nat := []
  /-- Refresh-management commands issued (R256). -/
  rfm : Nat := 0
  /-- Bursts of each inner-code severity, 0 no error, 1 one bit, 2 several bits, 3 uncorrected (R246), and sectors corrected
  and uncorrectable (R249, R261), counted. -/
  inner : Tab Nat := []
  nCorr : Nat := 0
  nUnc : Nat := 0
  deriving DecidableEq, Repr

/-- HBM3E controllers. -/
structure Hbm where
  /-- The 24 stacks (R257, R258); reset coolest row. -/
  stk : Tab Stack := []
  /-- The 384 channels (R254); reset empty tables. -/
  chans : Tab Chan := []
  /-- Sectors queued for rewrite, as sector number (R260); reset none. -/
  rewrite : List Nat := []
  deriving DecidableEq, Repr

/-- A Pole (R228 to R236). -/
structure Pole where
  /-- 0 FULL, 1 REPAIRED, 2 HALF, 3 FENCED, 4 CUT (R235); reset FULL. -/
  st : Nat := 0
  /-- Failing functional wires (R228, R435). -/
  wires : List Nat := []
  /-- CRC failures, 32 bits (R232). -/
  fails : Nat := 0
  /-- TSCLK of the last failures, newest first, at most 3 (R233). -/
  recent : List Nat := []
  /-- SEQ of the beat that fails and how often it has failed (R231). -/
  beat : Nat × Nat := (0, 0)
  /-- The sender's replay buffer, its last 8 beats, oldest first, and the beats it has yet to resend (R231). -/
  buf : List PoleBeat := []
  again : List PoleBeat := []
  /-- The receiver's next SEQ, and whether it discards until a beat with REPLAY (R229, R231). -/
  rx : Nat := 0
  discard : Bool := false
  deriving DecidableEq, Repr

/-- A role epoch with its counter (R281 to R283). -/
structure Epoch where
  cur : Nat := 0
  last : Option Nat := none
  stale : Nat := 0
  /-- An increment waits for the interval of R283. -/
  wait : Nat := 0
  deriving DecidableEq, Repr

/-- A master port's latency counters for one class (R277). -/
structure Lat where
  n : Nat := 0
  sum : Nat := 0
  max : Nat := 0
  late : Nat := 0
  deriving DecidableEq, Repr

/-- What a bucket holds at its port: a request to a slice, or the host's access through BAR4. -/
inductive Held where
  | mem (r : MemReq)
  | host (c : Instr)
  deriving DecidableEq, Repr

/-- A token bucket with the requests it holds (R279). -/
structure Bucket where
  /-- Tokens in 1/64 byte and the tick of the last refill. -/
  tok : Nat
  at_ : Nat
  held : List Held := []
  deriving DecidableEq, Repr

/-- Poles and fabric (09_poles.md, 11_fabric_and_regulation.md). -/
structure Fab where
  /-- The 8,192 Poles (R228, R235); reset FULL. -/
  poles : Tab Pole := []
  /-- Poles waiting for a test (R233); reset none. -/
  testq : List Nat := []
  /-- Rotating pointer of each Tent's Pole tests (R233, R273); reset 0. -/
  testPtr : Tab Nat := []
  /-- Retired columns, as linear clusters, and those whose Plot migration is due (R237, R238); reset none. -/
  cut : List Nat := []
  migrate : List Nat := []
  /-- Poles that stepped into HALF or FENCED, and columns retired, since the start (R239); reset none. -/
  stepped : List Nat := []
  cutNow : List Nat := []
  /-- (Pole, SEQ) pairs sent on the replay return buses, oldest first (R231); reset none. -/
  replays : List (Nat × Nat) := []
  /-- Columns whose Plot lines have moved to relief lines, the relief map in force (R238); reset none. -/
  relief : List Nat := []
  /-- Rate and width of each lateral module that is not at 32 GT/s and x64, 16 × edge + module; rate 0
  disabled (R268, R269); reset none. -/
  mods : Tab (Nat × Nat) := []
  /-- Edges down since the start, and edges that went down in service (R270); reset none. -/
  downStart : List Nat := []
  downSvc : List Nat := []
  /-- Partitions whose launches complete DEGRADED for a lateral edge (R271); reset none. -/
  degraded : List Nat := []
  /-- Role epochs: 0 to 511 cores, 512 + cluster, 576 + Tent, 584 + Span port, 8 bits each (R281); reset 0. -/
  epoch : Tab Epoch := []
  /-- Latency counters, 2^12 × kind + 2^2 × port + class (R277); reset 0. -/
  lat : Tab Lat := []
  /-- Each request in flight: port key, departure in units of R275, and its LATE bit (R276, R277); reset none. -/
  inflight : Tab (Nat × Nat × Bool) := []
  /-- Token buckets, keyed as `lat` (R278, R279); reset full when a partition enters OPEN. -/
  bkt : Tab Bucket := []
  deriving DecidableEq, Repr

/-- The debugger (R91 to R93; registers of R530). -/
structure Dbg where
  /-- DBG_ATTACH.PART, 8 bits; reset 0. -/
  attach : Nat := 0
  /-- DBG_STAT.REJECT and DENIED, 1 bit each; reset 0. -/
  reject : Bool := false
  denied : Bool := false
  deriving DecidableEq, Repr

/-- A partition's runtime: teardown and reset under way (R394, R455). -/
structure Down where
  part : Nat
  /-- 1 reset done, erase due; 2 erased, fill done, step 5 due. -/
  step : Nat
  /-- STOP_INTERFACE_REQUEST caused it. -/
  stop : Bool
  /-- The partition comes back into service at step 5. -/
  back : Bool
  deriving DecidableEq, Repr

/-- The machine. -/
structure State where
  /-- Commands waiting, first in, first out (the row's queue); reset empty. -/
  pending : List Instr := []
  /-- CLK_TSC, 64 bits, in 10 ns ticks (R24, R526); reset 0. -/
  tick : Nat := 0
  /-- The model's own counter of free values drawn; DESIGN CHOICE 0. -/
  free : Nat := 0
  dev : Dev := {}
  boot : Boot := {}
  trust : Trust := {}
  regs : Regs := {}
  link : Link := {}
  pwr : Pwr := {}
  thm : Thm := {}
  evt : Evt := {}
  mgt : Mgt := {}
  gly : Gly := {}
  span : Span := {}
  rng : Rings := {}
  krn : Krn := {}
  mem : Mem := {}
  hbm : Hbm := {}
  fab : Fab := {}
  dbg : Dbg := {}
  /-- Partitions being reset or torn down (R394, R455); reset none. -/
  down : List Down := []
  deriving DecidableEq, Repr

/-- The block right after a conventional reset with power good and PERST_N asserted (R432, R454). -/
def State.reset : State := {}

end Sys2Proof.Machine
end

