-- ==== Sys2Proof/Machine/Ops.lean ====
section
/-! DEFINITION. Operations every family uses: tables, bytes, byte memory in canonical form, CRC-32C,
Philox, the event path, host writes and interrupts, and the measurement log. -/
namespace Sys2Proof.Machine

/-! Tables and sets. -/

/-- The entry of a sparse table, or its default. -/
def tget {α : Type} (t : Tab α) (d : α) (k : Nat) : α :=
  match t with
  | [] => d
  | (i, v) :: r => if i = k then v else tget r d k

/-- The table with one entry set; the keys stay rising. -/
def tset {α : Type} (t : Tab α) (k : Nat) (v : α) : Tab α :=
  match t with
  | [] => [(k, v)]
  | (i, w) :: r => if k < i then (k, v) :: (i, w) :: r else if k = i then (k, v) :: r
                   else (i, w) :: tset r k v

/-- The table without an entry. -/
def tdel {α : Type} (t : Tab α) (k : Nat) : Tab α := t.filter (fun e => e.1 != k)

/-- The entry, if there is one. -/
def tfind {α : Type} (t : Tab α) (k : Nat) : Option α :=
  match t with
  | [] => none
  | (i, v) :: r => if i = k then some v else tfind r k

/-- The table with one entry changed. -/
def tupd {α : Type} (t : Tab α) (d : α) (k : Nat) (f : α → α) : Tab α := tset t k (f (tget t d k))

/-- Rising sets of numbers. -/
def sadd (l : List Nat) (k : Nat) : List Nat :=
  match l with
  | [] => [k]
  | i :: r => if k < i then k :: i :: r else if k = i then i :: r else i :: sadd r k
def sdel (l : List Nat) (k : Nat) : List Nat := l.filter (fun i => i != k)
def sput (l : List Nat) (k : Nat) (b : Bool) : List Nat := if b then sadd l k else sdel l k

/-- A member added at the end unless present. -/
def addEnd (l : List Nat) (k : Nat) : List Nat := if l.contains k then l else l ++ [k]

/-- The largest of a list, 0 for none. -/
def maxl (l : List Nat) : Nat := l.foldl Nat.max 0
def suml (l : List Nat) : Nat := l.foldl (· + ·) 0

/-! Numbers and bits. -/
def bit (n i : Nat) : Bool := n / 2 ^ i % 2 == 1
/-- Bits [lo + len − 1 : lo] of a number. -/
def bits (n lo len : Nat) : Nat := n / 2 ^ lo % 2 ^ len
def setBit (n i : Nat) (b : Bool) : Nat := if bit n i == b then n else if b then n + 2 ^ i else n - 2 ^ i
def cdiv (a b : Nat) : Nat := (a + b - 1) / b
def b2n (b : Bool) : Nat := if b then 1 else 0
/-- Saturation of a counter of `w` bits (R516). -/
def sat (w n : Nat) : Nat := Nat.min n (2 ^ w - 1)
/-- Two's complement value of the low `w` bits. -/
def toS (w n : Nat) : Int := let m := n % 2 ^ w; if m < 2 ^ (w - 1) then (m : Int) else (m : Int) - (2 ^ w : Nat)
def ofS (w : Nat) (i : Int) : Nat := (i % ((2 ^ w : Nat) : Int)).toNat
/-- floor(log2 n) for n > 0. -/
def log2 (n : Nat) : Nat := Nat.log2 n

/-! Bytes, little-endian (R8). -/
def le (len n : Nat) : Bytes := (List.range len).map (fun i => BitVec.ofNat 8 (n / 256 ^ i))
def unle (b : Bytes) : Nat := b.foldr (fun x a => x.toNat + 256 * a) 0
/-- `len` bytes at an offset; bytes beyond the end read 0. -/
def slice (b : Bytes) (off len : Nat) : Bytes :=
  let t := (b.drop off).take len
  t ++ List.replicate (len - t.length) 0
/-- A little-endian field of a descriptor or record. -/
def fld (b : Bytes) (off len : Nat) : Nat := unle (slice b off len)
def zeros (n : Nat) : Bytes := List.replicate n 0
def allZero (b : Bytes) : Bool := b.all (fun x => x == 0)
def pad (b : Bytes) (n : Nat) : Bytes := b.take n ++ zeros (n - b.length)

/-! Byte memory in canonical form: addresses strictly rising, no entry equal to the default. -/
def cget (l : List Host.Cell) (a : Nat) : Option Byte :=
  match l with
  | [] => none
  | (i, v) :: r => if i = a then some v else cget r a
def cput (d : Nat → Byte) (l : List Host.Cell) (a : Nat) (v : Byte) : List Host.Cell :=
  match l with
  | [] => if v = d a then [] else [(a, v)]
  | (i, w) :: r =>
    if a < i then (if v = d a then (i, w) :: r else (a, v) :: (i, w) :: r)
    else if a = i then (if v = d a then r else (a, v) :: r)
    else (i, w) :: cput d r a v
def cputs (d : Nat → Byte) (l : List Host.Cell) (a : Nat) (b : Bytes) : List Host.Cell :=
  (b.zipIdx).foldl (fun m x => cput d m (a + x.2) x.1) l
/-- The canonical form. -/
def cellsWf (d : Nat → Byte) : List Host.Cell → Bool
  | [] => true
  | [(a, v)] => v != d a
  | (a, v) :: (b, w) :: r => v != d a && a < b && cellsWf d ((b, w) :: r)
/-- The cells below, and at or above, an address. -/
def cdrop (l : List Host.Cell) (p : Nat → Bool) : List Host.Cell := l.filter (fun c => !p c.1)

/-! CRC-32C (R447): polynomial 0x1EDC6F41 reflected, all ones in, all ones XORed out. -/
def crc32cStep (c : Word) : Nat → Word
  | 0 => c
  | n + 1 => crc32cStep (if c.getLsbD 0 then (c >>> 1) ^^^ 0x82F63B78#32 else c >>> 1) n
def crc32c (b : Bytes) : Word :=
  (b.foldl (fun c x => crc32cStep (c ^^^ x.setWidth 32) 8) 0xFFFFFFFF#32) ^^^ 0xFFFFFFFF#32

/-! Philox4x32-10, first output word (R51). PRESUMED constants of the published generator. -/
def philoxRound (k0 k1 : Word) (c : Word × Word × Word × Word) : Word × Word × Word × Word :=
  let p0 := (c.1.toNat * 0xD2511F53)
  let p1 := (c.2.2.1.toNat * 0xCD9E8D57)
  (BitVec.ofNat 32 (p1 / 2 ^ 32) ^^^ c.2.1 ^^^ k0, BitVec.ofNat 32 p1,
   BitVec.ofNat 32 (p0 / 2 ^ 32) ^^^ c.2.2.2 ^^^ k1, BitVec.ofNat 32 p0)
def philoxGo : Nat → Word → Word → Word × Word × Word × Word → Word × Word × Word × Word
  | 0, _, _, c => c
  | n + 1, k0, k1, c => philoxGo n (k0 + 0x9E3779B9#32) (k1 + 0xBB67AE85#32) (philoxRound k0 k1 c)
def philox (seed c0 c1 c2 c3 : Nat) : Nat :=
  (philoxGo 10 (BitVec.ofNat 32 seed) (BitVec.ofNat 32 (seed / 2 ^ 32))
    (BitVec.ofNat 32 c0, BitVec.ofNat 32 c1, BitVec.ofNat 32 c2, BitVec.ofNat 32 c3)).1.toNat

/-- The next value of the free-value counter, and the state after drawing it. -/
def draw (s : State) : Word × State := (Config.freeValue s.free, { s with free := s.free + 1 })

/-! Committed configuration fields (R447): every field at its reset value until a commit. -/

/-- Key of a register instance. -/
def rkey (off inst : Nat) : Nat := off + 2 ^ 25 * inst
def cfgW (s : State) (off inst : Nat) (reset : Nat) : Nat :=
  (tget s.dev.ptab (BitVec.ofNat 32 reset) (rkey off inst)).toNat
def partCfg (s : State) (p : Nat) : Nat := cfgW s (0x40000 + 0x1000 * p) 0 0x40000
/-- PART_CFG.TENTS of a partition in the partition table. -/
def partMask (s : State) (p : Nat) : Nat := bits (partCfg s p) 0 8
def partTents (s : State) (p : Nat) : List Nat := (List.range 8).filter (fun t => bit (partMask s p) t)
/-- The partition exists in the committed configuration (R295). -/
def partExists (s : State) (p : Nat) : Bool := p < 8 && s.dev.inService && partMask s p != 0
def partConf (s : State) (p : Nat) : Bool := bit (partCfg s p) 8
/-- ERROR_MODE 1 is BUS_ERROR (R483). -/
def busMode (s : State) (p : Nat) : Bool := p < 8 && bit (partCfg s p) 9
def parts (s : State) : List Nat := (List.range 8).filter (partExists s)
/-- Single-partition mode (R295, R450). -/
def single (s : State) : Bool := (parts s).length == 1
/-- The partition that names a Tent, 8 for none. -/
def partOfTent (s : State) (t : Nat) : Nat :=
  ((parts s).find? (fun p => bit (partMask s p) t)).getD 8
/-- The function that exposes a partition (R295). -/
def fnOf (s : State) (p : Nat) : Nat := if p ≥ 8 || single s then 0 else p + 1
/-- The partition of a function's own BARs. -/
def partOfFn (s : State) (fn : Nat) : Nat :=
  if fn = 0 then (if single s then (parts s).headD 8 else 8) else if single s then 8 else fn - 1
def codeReserve (s : State) (p : Nat) : Nat := bits (partCfg s p) 16 8 * 0x4000000
def tentBase (t : Nat) : Nat := t * 0x2400000000
/-- The code reserve of a partition: first address and bytes (R82, R522). -/
def reserveBase (s : State) (p : Nat) : Nat := tentBase ((partTents s p).headD 0)
def semBase (s : State) (p : Nat) : Nat := cfgW s (0x40000 + 0x1000 * p + 0xC) 0 0 * 0x1000
def bar4Base (s : State) (p : Nat) : Nat := cfgW s (0x40000 + 0x1000 * p + 8) 0 0 * 0x40000000
def plotWays (s : State) (t : Nat) : Nat := cfgW s (0x48000 + 4 * t) 0 0 % 16
def pwrLimit (s : State) : Nat := cfgW s 0x80000 0 3600
def droopMv (s : State) : Nat := cfgW s 0x80008 0 30
def idleUs (s : State) : Nat := cfgW s 0x8000C 0 100
def thmTarget (s : State) : Nat := cfgW s 0x90000 0 95
def spanAddr (s : State) : Nat := cfgW s 0xC0000 0 0
def portCfg (s : State) (n : Nat) : Nat := cfgW s (0xC0100 + 0x20 * n) 0 0xFFFF001F
def portPart (s : State) (n : Nat) : Nat := portCfg s n % 16
def spanFwd (s : State) (a : Nat) : Nat := cfgW s (0xC1000 + 4 * a) 0 0x1F
def glnPrio (s : State) : Nat := cfgW s 0xD0000 0 8
def glnRack (s : State) : Nat := cfgW s 0xD0004 0 0
/-- RATE and DEPTH of a bucket (R278). -/
def bktCfg (s : State) (p kind cls : Nat) : Nat :=
  cfgW s (0x40000 + 0x1000 * p + 0x1C) (kind + 16 * cls) 0x200000

/-- TDISP LOCKED: CONFIG_LOCKED or RUN (R303). -/
def lockedTdi (s : State) (p : Nat) : Bool := let t := tget s.trust.tdi 0 p; t == 1 || t == 2
/-- A partition that is confidential and LOCKED. -/
def sealed (s : State) (p : Nat) : Bool := p < 8 && partConf s p && lockedTdi s p

/-! The host link as the block's way out. -/
def d3 (s : State) (fn : Nat) : Bool := s.link.d3.contains fn
/-- A write to host memory or an interrupt waits while its function is in D3hot (R298). -/
def hostOut (s : State) (fn : Nat) (m : HostMsg) : State :=
  if d3 s fn then { s with link := { s.link with held := s.link.held ++ [m] } }
  else { s with link := { s.link with out := s.link.out ++ [m] } }
/-- A request to host memory uses the function's translation cache once ATS is enabled; a full cache gives up its oldest
entry (R301). -/
def useAtc (s : State) (fn addr : Nat) : State :=
  let k := (fn, addr / 4096)
  if !s.link.ats.contains fn || s.link.atc.contains k then s
  else
    let mine := s.link.atc.filter (fun e => e.1 == fn)
    let keep := if mine.length < 1024 then s.link.atc else match mine with
      | old :: _ => s.link.atc.erase old
      | [] => s.link.atc
    { s with link := { s.link with atc := keep ++ [k] } }
/-- A range cut at the multiples of `n`: address and length of each part. -/
def cutAt (n a len : Nat) : List (Nat × Nat) :=
  if len = 0 then [] else (List.range ((a + len - 1) / n - a / n + 1)).map (fun i =>
    let lo := Nat.max a ((a / n + i) * n)
    (lo, Nat.min (a + len) ((a / n + i + 1) * n) - lo))
def maxPayload (s : State) : Nat := 128 * 2 ^ Nat.min s.link.mps 2
/-- A write to host memory, at most Max_Payload_Size at a time (R300); `ro` is the Relaxed Ordering attribute. -/
def hostWrite (s : State) (fn addr : Nat) (data : Bytes) (ep : Bool) (ro : Bool := false) : State :=
  (cutAt (maxPayload s) addr data.length).foldl (fun s x =>
    hostOut (useAtc s fn x.1) fn (.write fn x.1 ((data.drop (x.1 - addr)).take x.2) ep ro)) s
/-- An answer to a request of the host. -/
def hostReply (s : State) (m : HostMsg) : State := { s with link := { s.link with out := s.link.out ++ [m] } }
/-- An MSI-X vector is signalled, or its pending bit set while it is masked (R299). -/
def interrupt (s : State) (fn v : Nat) : State :=
  let k := 64 * fn + v
  if s.link.unmasked.contains k then hostOut s fn (.interrupt fn v)
  else { s with link := { s.link with pba := sadd s.link.pba k } }
/-- The TLP header log of an event (R490). -/
def tlpLog (kind fn addr len : Nat) : Bytes := (List.range 16).map (Config.tlpHeader kind fn addr len)
/-- An error is logged in AER (R306). -/
def aer (s : State) (fn kind : Nat) : State := { s with link := { s.link with aer := s.link.aer ++ [(fn, kind)] } }

/-! The event path (R490 to R493). -/

/-- Codes whose owning chapter limits the rate per (code, UNIT) (R227, R263, R284, R307, R356, R370). -/
def limited (c : Nat) : Bool :=
  (0x110 ≤ c && c ≤ 0x117 && c != 0x113) || c == 0x130 || c == 0x134 || c == 0x503 || c == 0x504 ||
  c == 0x511 || c == 0x513 || c == 0x534 || c == 0x535
/-- The device writes event records: from PITCHED until step 5 of the seal (R332, R517). -/
def posting (s : State) : Bool :=
  match s.dev.st with
  | .pitched | .open_ => true
  | .striking => !s.boot.dark
  | _ => false
def cntKey (fn code : Nat) : Nat := 0x10000 * fn + code
/-- Counts one occurrence for the PF and for the function that exposes the partition (R493). -/
def countEv (s : State) (code part : Nat) : State :=
  let c := tupd s.evt.cnt 0 (cntKey 0 code) (fun n => sat 32 (n + 1))
  let f := fnOf s part
  { s with evt := { s.evt with cnt := if f = 0 then c else tupd c 0 (cntKey f code) (fun n => sat 32 (n + 1)) } }
/-- A detection: counted; before PITCHED nothing more; within a source's 1 ms window suppressed; otherwise
queued for its ring (R332, R492, R493). -/
def detect (s : State) (code sev part unit addr : Nat) (detail : Bytes) (ring : Nat := 0xFFFF) : State :=
  let s := countEv s code part
  let s := { s with evt := { s.evt with nUnc := s.evt.nUnc + b2n (sev == 2), nFatal := s.evt.nFatal + b2n (sev == 3) } }
  if !posting s then s else
  let k := code * 2 ^ 32 + unit
  let push (s : State) (sup : Nat) : State :=
    { s with evt := { s.evt with
        q := s.evt.q ++ [{ code, sev, ts := s.tick, part := if part < 8 then part else 0xFF, ring, unit, addr,
                           detail := pad detail 28, sup }] } }
  if !limited code then push s 0
  else match tfind s.evt.win k with
    | some (t, n) =>
      if s.tick < t + 100000 then { s with evt := { s.evt with win := tset s.evt.win k (t, n + 1) } }
      else push { s with evt := { s.evt with win := tset s.evt.win k (s.tick, 0) } } n
    | none => push { s with evt := { s.evt with win := tset s.evt.win k (s.tick, 0) } } 0

def evRing (s : State) (fn : Nat) : EvRing := tget s.evt.ring {} fn
def setEvRing (s : State) (fn : Nat) (r : EvRing) : State :=
  { s with evt := { s.evt with ring := tset s.evt.ring fn r } }
/-- Raw contents of a register instance. -/
def rawReg (s : State) (off inst reset : Nat) : Nat := (tget s.regs.w (BitVec.ofNat 32 reset) (rkey off inst)).toNat
def evCfg (s : State) (fn : Nat) : Nat := rawReg s 0xE0008 fn 0
def evSize (s : State) (fn : Nat) : Nat := 2 ^ (evCfg s fn % 32)
/-- The 64-byte record of R330. -/
def evRecord (e : Ev) (vf : Bool) (bare : Bool) (phase : Bool) : Bytes :=
  le 2 e.code ++ le 1 e.sev ++ le 1 0 ++ le 4 e.sup ++ le 8 e.ts ++ le 1 e.part ++ le 1 0 ++
  le 2 (if vf && e.ring < 0xFFFF then e.ring % 32 else e.ring) ++ le 4 e.unit ++
  le 8 (if bare then 0 else e.addr) ++ (if bare then zeros 28 else pad e.detail 28) ++ zeros 3 ++ le 1 (b2n phase)
/-- One record to one function's ring: lost when the ring is off or holds one free slot (R332), lost with
WRITE_FAIL when its write fails (R329), else written with its vector signalled after it. -/
def evWrite (s : State) (fn : Nat) (e : Ev) (bare ok : Bool) : State :=
  let r := evRing s fn
  let size := evSize s fn
  if !r.on || (r.wr + size - r.head) % size ≥ size - 1 then
    setEvRing s fn { r with overflow := true, lost := sat 16 (r.lost + 1) }
  else if !ok then setEvRing s fn { r with writeFail := true, lost := sat 16 (r.lost + 1) }
  else
    let base := rawReg s 0xE0000 fn 0 + 2 ^ 32 * rawReg s 0xE0004 fn 0
    let s := hostWrite s fn (base + 64 * r.wr) (evRecord e (fn != 0) bare r.phase) false
    let w := (r.wr + 1) % size
    let s := setEvRing s fn { r with wr := w, phase := if w = 0 then !r.phase else r.phase }
    interrupt s fn (bits (evCfg s fn) 8 6)
/-- A Guyline frame (R474). The places of the body's fields are a DESIGN CHOICE (log entry 84). -/
def frameWidths (type : Nat) : List Nat :=
  if type = 1 then List.replicate 17 1 else if type = 2 || type = 6 then [2] else if type = 3 then [8, 4, 8]
  else if type = 4 then [1, 1, 2, 2, 2, 2, 1, 1] else if type = 5 then [2, 2] else []
def frameHead (type hops src seq : Nat) (body : List Nat) : Bytes :=
  le 1 type ++ le 1 hops ++ le 2 src ++ le 4 seq ++ pad ((body.zip (frameWidths type)).flatMap (fun x => le x.2 x.1)) 20
def frame (type hops src seq : Nat) (body : List Nat) : GlnOut :=
  { type, hops, src, seq, body, crc := (crc32c (frameHead type hops src seq body)).toNat }
/-- Sets an alert bit (R470). -/
def alert (s : State) (b : Nat) : State :=
  if posting s then { s with evt := { s.evt with alert := setBit s.evt.alert b true } } else s
/-- A queued event is routed and written (R331), sets its alert bits (R470), and when FATAL marks its
partitions failed with their reset due; during a partition's teardown it changes nothing further (R481, R482). -/
def postEv (s : State) (e : Ev) (ok : Bool) : State :=
  let f := fnOf s e.part
  let s := evWrite s f e false ok
  let s := if f != 0 && (e.sev == 3 || sealed s e.part) then evWrite s 0 e true ok else s
  let s := if e.sev ≥ 2 then alert s 0 else s
  let s := if e.code == 0x540 || e.code == 0x541 then alert s 3 else s
  let s := if e.code == 0x550 then alert s 4 else s
  if e.sev == 3 then
    let ps := if e.part < 8 then [e.part] else parts s
    let fresh := ps.filter (fun p => !s.evt.failed.contains p && !s.down.any (fun d => d.part == p))
    let s := { s with evt := { s.evt with failed := fresh.foldl sadd s.evt.failed,
                                          due := fresh.foldl addEnd s.evt.due } }
    if e.part < 8 then s else { s with dev := { s.dev with fatal := true } }
  else s
/-- Every queued event is written, oldest first. -/
def flushEv (s : State) : State :=
  s.evt.q.foldl (fun t e => postEv t e true) { s with evt := { s.evt with q := [] } }

/-! Device state. -/
/-- DEV_STATE.STATE changes, which sets alert bit 2 where the management plane answers (R432, R470). -/
def setDev (s : State) (d : DevSt) : State :=
  let changed := s.dev.st != d
  let s := { s with dev := { s.dev with st := d } }
  if changed then alert s 2 else s
/-- Host commands reach firmware and data plane: OPEN. -/
def isOpen (s : State) : Bool := s.dev.st == .open_
def DevSt.code : DevSt → Nat
  | .stowed => 0 | .pitching => 1 | .pitched => 2 | .open_ => 3 | .striking => 4 | .tripped => 5

/-! The measurement log (R23, R385, R386). -/
def logBytes (e : LogEntry) : Bytes :=
  le 4 e.seq ++ le 1 e.kind ++ le 1 e.part ++ le 2 0 ++ le 8 e.ts ++ pad e.subject 16 ++ pad e.digest 64
/-- Appends an entry, updates the device chain and the partition's chain, and posts EV_LOG_FULL once. -/
def logAppend (s : State) (kind part : Nat) (subject digest : Bytes) : State :=
  let e : LogEntry := { seq := s.trust.seq, kind, part := if part < 8 then part else 0xFF, ts := s.tick, subject, digest }
  let b := logBytes e
  let full := s.trust.log.length ≥ 16384
  let pc := if part < 8 then
      let c := tget s.trust.pchain (zeros 64, 0) part
      tset s.trust.pchain part (Config.shake256 (c.1 ++ b), c.2 + 1)
    else s.trust.pchain
  let s' := { s with trust := { s.trust with
      log := if full then s.trust.log else s.trust.log ++ [e], seq := (s.trust.seq + 1) % 2 ^ 32,
      chain := Config.shake256 (s.trust.chain ++ b), pchain := pc, logFull := s.trust.logFull || full } }
  if full && !s.trust.logFull then detect s' 0x604 0 0xFF 0xFF 0 [] else s'

/-! The Identity Store (R382 to R384). -/
/-- The current copy of the anti-rollback record: the one whose expected value equals the RPMC, or one past it. -/
def idRec (s : State) : Option IdRec :=
  let t := s.trust
  let expects (r : IdRec) (n : Nat) : Bool := r.tag && r.expect == n
  if expects t.copyA t.rpmc then some t.copyA else if expects t.copyB t.rpmc then some t.copyB
  else if expects t.copyA (t.rpmc + 1) then some t.copyA
  else if expects t.copyB (t.rpmc + 1) then some t.copyB else none
def idCur (s : State) : IdRec := (idRec s).getD {}
/-- The update of R383: written with expected value c + 1 into the copy that does not hold the current
record, read back, the counter incremented. A failed write posts EV_IDSTORE_FAIL as FATAL to the device (R384). -/
def idWrite (s : State) (r : IdRec) (ok : Bool) : State :=
  if !ok then detect s 0x605 3 0xFF 0xFF 0 []
  else
    let c := s.trust.rpmc
    let r := { r with expect := c + 1, tag := true }
    let t := if s.trust.copyA.tag && s.trust.copyA.expect == c then { s.trust with copyB := r, rpmc := c + 1 }
             else { s.trust with copyA := r, rpmc := c + 1 }
    { s with trust := t }

/-! Role epochs and STALE_ROLE (R281 to R284). -/
def epochOf (s : State) (u : Nat) : Nat := (tget s.fab.epoch {} u).cur
/-- An increment within 100 µs of TSCLK of the last one (R283). -/
def bumpSoon (s : State) (u : Nat) : Bool :=
  match (tget s.fab.epoch {} u).last with
  | some t => decide (s.tick < t + 10000)
  | none => false
/-- One increment, at most once per 100 µs; a sooner one waits. -/
def bumpEpoch (s : State) (u : Nat) : State :=
  let e := tget s.fab.epoch {} u
  let e' := if bumpSoon s u then { e with wait := e.wait + 1 } else { e with cur := (e.cur + 1) % 256, last := some s.tick }
  { s with fab := { s.fab with epoch := tset s.fab.epoch u e' } }
/-- A message returned as STALE_ROLE: counted at its destination, EV_STALE_ROLE posted (R282). -/
def staleReturn (s : State) (u part : Nat) : State :=
  let s := { s with fab := { s.fab with epoch := tupd s.fab.epoch {} u (fun e => { e with stale := sat 32 (e.stale + 1) }) } }
  detect s 0x504 0 part u 0 []

end Sys2Proof.Machine
end

