-- ==== Sys2Proof/Machine/Codes.lean ====
section
/-! DEFINITION. The codes of the HBM3E controllers: the outer Reed–Solomon code over GF(2^16) (R247 to R250) and the
AES-256-XTS encryption of a sector (R251). -/
namespace Sys2Proof.Machine

/-! The field GF(2^16) under x^16 + x^12 + x^3 + x + 1; α is x. -/
def gfDouble (a : Nat) : Nat := if a < 32768 then 2 * a else (2 * a) ^^^ 0x1100B
def gfMulGo : Nat → Nat → Nat → Nat → Nat
  | 0, _, _, r => r
  | n + 1, a, b, r => gfMulGo n (gfDouble a) (b / 2) (if b % 2 = 1 then r ^^^ a else r)
def gfMul (a b : Nat) : Nat := gfMulGo 16 a b 0
/-- a^(2^n − 1) times r, by repeated squaring. -/
def gfRun : Nat → Nat → Nat → Nat
  | 0, _, r => r
  | n + 1, a, r => gfRun n (gfMul a a) (gfMul r a)
/-- The inverse a^(2^16 − 2) of a nonzero element. -/
def gfInv (a : Nat) : Nat := gfRun 15 (gfMul a a) 1
/-- α^n for the small powers the code uses. -/
def alphaPow (n : Nat) : Nat := (List.range n).foldl (fun a _ => gfDouble a) 1
def gfSum (l : List Nat) : Nat := l.foldl (· ^^^ ·) 0

/-! The outer code (R247). Symbol j is the coefficient of x^(35 − j), so that the check symbols are the remainder of a
systematic encoding (log entry 71). -/
/-- An error pattern: symbol and the bits XORed into it. -/
abbrev Pattern := List (Nat × Nat)
/-- One symbol's share of a pattern. -/
def patAt (p : Pattern) (j : Nat) : Nat := gfSum ((p.filter (fun e => e.1 == j)).map (·.2 % 65536))
/-- The symbols in error, ascending, each once. -/
def patNorm (p : Pattern) : Pattern := ((List.range 36).map (fun j => (j, patAt p j))).filter (fun e => e.2 != 0)
def locator (j : Nat) : Nat := alphaPow (35 - j)
/-- r(α^i) for i from 0 to 3. A codeword's are 0, so those of a received word are those of its error pattern. -/
def syndromes (p : Pattern) : List Nat :=
  (List.range 4).map (fun i => gfSum (p.map (fun e => gfMul e.2 (alphaPow (i * (35 - e.1))))))
/-- Coefficients of the product of (z − X) over X, lowest first. -/
def polyOf (xs : List Nat) : List Nat :=
  xs.foldl (fun c x => (List.range (c.length + 1)).map (fun k =>
    (if k = 0 then 0 else c.getD (k - 1) 0) ^^^ gfMul x (c.getD k 0))) [1]
/-- The check symbols of 32 data symbols: the four values whose pattern has the syndromes of the data. -/
def solveAt (js : List Nat) (syn : List Nat) : Pattern :=
  js.map (fun j =>
    let x := locator j
    let ys := (js.filter (fun k => k != j)).map locator
    let c := polyOf ys
    let num := gfSum (c.zipIdx.map (fun e => gfMul e.1 (syn.getD e.2 0)))
    (j, gfMul num (gfInv ((ys.map (fun y => x ^^^ y)).foldl gfMul 1))))
def checkSymbols (data : List Nat) : List Nat :=
  (solveAt [32, 33, 34, 35] (syndromes (data.zipIdx.map (fun e => (e.2, e.1))))).map (·.2)
/-- R250: the poison mask over the check symbols. -/
def poisonMask : Pattern := [(32, 0x5A5A), (33, 0xA5A5), (34, 0x0F0F), (35, 0xF0F0)]
/-- Errors at the symbols js alone explain the syndromes. -/
def explains (js : List Nat) (syn : List Nat) : Bool := syndromes (solveAt js syn) == syn
/-- The symbols that correction changes: the erasures, with none, one or two unknown symbols beside them as
e + 2t ≤ 4 allows (R248). -/
def locate (erased : List Nat) (syn : List Nat) : Option (List Nat) :=
  let e := erased.length
  let free := (List.range 36).filter (fun j => !erased.contains j)
  if e ≤ 4 && explains erased syn then some erased
  else match if e ≤ 2 then free.find? (fun j => explains (erased ++ [j]) syn) else none with
    | some j => some (erased ++ [j])
    | none =>
      if e != 0 then none
      else (free.flatMap (fun i => (free.filter (fun j => i < j)).map (fun j => [i, j]))).find? (fun js => explains js syn)

/-- R249. Of a sector decoded clean or corrected: the difference that is left between the data returned and the data
written, not empty where damage beyond the code's power has decoded as correctable; and whether an erasure was corrected. -/
inductive Verdict where
  | clean (left : Pattern)
  | corrected (left : Pattern) (erasure : Bool)
  | poisoned
  | uncorrectable
  deriving DecidableEq, Repr
/-- The decode of a sector with an error pattern, its failed pins and whether it was written with the poison mask. The
mask's syndrome is tested first; a masked sector with other errors never decodes as correctable (R250). -/
def decode (pois : Bool) (pins : List Nat) (errs : Pattern) : Verdict :=
  if errs.isEmpty then (if pois then .poisoned else .clean [])
  else
    let p := patNorm (if pois then errs ++ poisonMask else errs)
    let syn := syndromes p
    if syn == syndromes poisonMask then .poisoned
    else if pois then .uncorrectable
    else if syn.all (· == 0) then .clean p
    else match locate pins syn with
      | none => .uncorrectable
      | some js =>
        let fix := solveAt js syn
        .corrected (patNorm (p ++ fix)) (fix.any (fun e => pins.contains e.1 && e.2 != 0))

/-! Encryption (R251). -/
def xorBytes (a b : Bytes) : Bytes := (a.zip b).map (fun x => x.1 ^^^ x.2)
/-- The tweak of the next block: multiplied by x under x^128 + x^7 + x^2 + x + 1. -/
def nextTweak (t : Bytes) : Bytes :=
  let n := 2 * unle t
  le 16 (if n < 2 ^ 128 then n else n ^^^ 0x87)
/-- The four blocks of a sector under AES-256-XTS, by the block function of the direction. -/
def xtsBlocks (f : Bytes → Bytes) : Nat → Bytes → Bytes → Bytes
  | 0, _, _ => []
  | n + 1, t, d => xorBytes (f (xorBytes (d.take 16) t)) t ++ xtsBlocks f n (nextTweak t) (d.drop 16)
/-- The tweak of a sector is its physical address. -/
def firstTweak (key : Nat × Nat) (sector : Nat) : Bytes := Config.aesEnc key.2 (le 16 sector)
def xtsEncrypt (key : Nat × Nat) (sector : Nat) (d : Bytes) : Bytes :=
  xtsBlocks (Config.aesEnc key.1) 4 (firstTweak key sector) d
def xtsDecrypt (key : Nat × Nat) (sector : Nat) (d : Bytes) : Bytes :=
  xtsBlocks (Config.aesDec key.1) 4 (firstTweak key sector) d
/-- The pair that is drawn for a partition: two different 256-bit keys (R252). -/
def keyPair (n : Nat) : Nat × Nat :=
  let a := (Config.xtsDraw n).1 % 2 ^ 256
  let b := (Config.xtsDraw n).2 % 2 ^ 256
  (a, if a = b then (b + 1) % 2 ^ 256 else b)
/-- Data symbols of 64 bytes, and the bytes that a pattern changes. -/
def symbolsOf (d : Bytes) : List Nat := (List.range 32).map (fun j => fld d (2 * j) 2)
def applyPattern (p : Pattern) (d : Bytes) : Bytes :=
  (List.range 32).flatMap (fun j => le 2 (fld d (2 * j) 2 ^^^ patAt p j))

end Sys2Proof.Machine
end

