-- ==== Sys2Proof/Machine/Defects.lean ====
section
/-! DEFINITION. The working copy of the Ledger as the units add to it (R435, R442), and the records of channels and
stacks. -/
namespace Sys2Proof.Machine

/-! Entries of the defect sections (R435). -/
/-- A row as sections 1 and 2 name it. -/
def rowEntry (ch pc sid bg bk row spare : Nat) : Nat :=
  ch + 2 ^ 9 * pc + 2 ^ 10 * sid + 2 ^ 12 * bg + 2 ^ 14 * bk + 2 ^ 16 * row + 2 ^ 31 * spare
/-- A Pole's entry of section 6 for one repair group: Pole, state, group, and the failing wires of the group as a map of 67
bits from bit 32. The spec gives the contents and their length, not their places (log entry 72). -/
def poleEntry (p st g : Nat) (ws : List Nat) : Nat :=
  p + 2 ^ 16 * st + 2 ^ 24 * g + 2 ^ 32 * ((ws.filter (fun w => w / 67 == g)).foldl (fun a w => a ||| 2 ^ (w % 67)) 0)
/-- The Pole, state and failing wires that an entry of section 6 names. -/
def entryPole (e : Nat) : Nat × Nat × List Nat :=
  (bits e 0 16, bits e 16 8, (List.range 67).filterMap (fun i => if bit e (32 + i) then some (67 * bits e 24 8 + i) else none))
/-- Failing wires that the four spares of their group do not absorb: the lowest of a group with more than four, so that
check and control wires are repaired first (R228, log entry 35). -/
def unrepaired (ws : List Nat) : List Nat :=
  (List.range 8).flatMap (fun g => let l := ws.filter (fun w => w / 67 == g); l.take (l.length - 4))
/-- The state of R235 for a set of failing functional wires. -/
def poleState (ws : List Nat) : Nat :=
  let u := unrepaired ws
  if ws = [] then 0 else if u = [] then 1 else if u.all (· < 512) && u.length ≤ 256 then 2 else 3
def buddy (p : Nat) : Nat := p ^^^ 1
def defSec : Defect → Nat
  | .hbmRemap .. => 1
  | .hbmUnrepaired .. | .hbmChannelOut _ => 2
  | .hbmPin .. => 3
  | .gsRow .. => 4
  | .gsWay .. => 5
  | .pole .. => 6
  | .core .. | .domain _ => 7
  | .phase .. => 8
  | .sensor _ | .sense _ => 9
  | .lateral .. | .spanLane .. => 10
def defEntry : Defect → Nat
  | .hbmRemap c pc sid bg bk row spare => rowEntry c pc sid bg bk row spare
  | .hbmUnrepaired c pc sid bg bk row => rowEntry c pc sid bg bk row 0x7FF
  | .hbmChannelOut c => 2 ^ 63 + c
  | .hbmPin c pc pin => c + 2 ^ 16 * pc + 2 ^ 24 * pin
  | .gsRow sl row spare => sl + 2 ^ 16 * row + 2 ^ 32 * spare
  | .gsWay sl way => sl + 2 ^ 16 * way
  | .pole p st ws => poleEntry p st (ws.headD 0 / 67) ws
  | .core t c ph => 2 ^ 8 * t + 2 ^ 16 * c + 2 ^ 24 * ph
  | .domain i => 1 + 2 ^ 16 * i
  | .phase r ph => r + 2 ^ 8 * ph
  | .sensor i => 2 ^ 16 * i
  | .sense r => 1 + 2 ^ 16 * r
  | .lateral e m rate w => 2 ^ 8 * e + 2 ^ 16 * m + 2 ^ 24 * rate + 2 ^ 32 * w
  | .spanLane p peer w => 1 + 2 ^ 8 * p + 2 ^ 16 * peer + 2 ^ 32 * w
/-- Every entry of a defect: a Pole has one for each repair group with a failing wire, and at least one. -/
def defEntries : Defect → List Nat
  | .pole p st ws =>
    let gs := (List.range 8).filter (fun g => ws.any (fun w => w / 67 == g))
    (if gs = [] then [0] else gs).map (fun g => poleEntry p st g ws)
  | d => [defEntry d]
def secOf (x : Sections) (i : Nat) : List Nat := tget x.fixed [] i
def addEntry (x : Sections) (i e : Nat) : Sections :=
  if (secOf x i).contains e then x else { x with fixed := tset x.fixed i (secOf x i ++ [e]) }
/-- A failure joins the working copy of the Ledger, once (R442). -/
def recordDefect (s : State) (d : Defect) : State :=
  { s with boot := { s.boot with work := (defEntries d).foldl (fun x e => addEntry x (defSec d) e) s.boot.work } }
/-- The working copy with the rows that the slices have recorded for retirement (R226). -/
def workNow (s : State) : Sections :=
  s.mem.rowRec.foldl (fun x k => addEntry x 4 (defEntry (.gsRow (k / 65536) (k % 65536) 0xFF))) s.boot.work

def chanOf (s : State) (c : Nat) : Chan := tget s.hbm.chans {} c
def setChan (s : State) (c : Nat) (x : Chan) : State := { s with hbm := { s.hbm with chans := tset s.hbm.chans c x } }
def stackOf (s : State) (k : Nat) : Stack := tget s.hbm.stk {} k
def setStack (s : State) (k : Nat) (x : Stack) : State := { s with hbm := { s.hbm with stk := tset s.hbm.stk k x } }

end Sys2Proof.Machine
end

