-- ==== Sys2Proof/Machine/RegMap.lean ====
section
/-! DEFINITION. The set-up register map (23_setup_registers.md): which bits of which register are
writable, the configuration image of R447, and what a read returns. -/
namespace Sys2Proof.Machine

/-- Physical core, cluster and region helpers (R29, R420). -/
def coreOf (s : State) (i : Nat) : Core := tget s.krn.cores {} i
def setCore (s : State) (i : Nat) (c : Core) : State := { s with krn := { s.krn with cores := tset s.krn.cores i c } }
def ringOf (s : State) (r : Nat) : Ring := tget s.rng.ring {} r
def setRing (s : State) (r : Nat) (g : Ring) : State := { s with rng := { s.rng with ring := tset s.rng.ring r g } }
def portOf (s : State) (n : Nat) : Port := tget s.span.ports {} n
def setPort (s : State) (n : Nat) (p : Port) : State := { s with span := { s.span with ports := tset s.span.ports n p } }

/-- An instance of an RWL register: offset, selector value, RWL bits, reset value. -/
structure Rwl where
  off : Nat
  inst : Nat
  mask : Nat
  reset : Nat
  deriving DecidableEq, Repr

/-- The RWL instances of one partition's page (R522). -/
def rwlPart (p : Nat) : List Rwl :=
  let b := 0x40000 + 0x1000 * p
  [⟨b, 0, 0x00FF03FF, 0x40000⟩, ⟨b + 8, 0, 0x3FFF, 0⟩, ⟨b + 0xC, 0, 0xFFFFFFFF, 0⟩,
   ⟨b + 0x10, 0, 0x07FF07FF, 0x00400010⟩, ⟨b + 0x14, 0, 0x07FF07FF, 0x07FF0200⟩] ++
  (List.range 4).flatMap (fun c => (List.range 6).map (fun k => ⟨b + 0x1C, k + 16 * c, 0xFFFFFFFF, 0x200000⟩))
/-- Every RWL register instance in ascending offset, then ascending selector value (R447). -/
def rwlList : List Rwl :=
  (List.range 8).flatMap rwlPart ++
  (List.range 8).map (fun t => ⟨0x48000 + 4 * t, 0, 0xF, 0⟩) ++
  [⟨0x80000, 0, 0x1FFF, 3600⟩, ⟨0x80008, 0, 0x3F, 30⟩, ⟨0x8000C, 0, 0xFFFF, 100⟩, ⟨0x90000, 0, 0x7F, 95⟩,
   ⟨0xC0000, 0, 0x3FF, 0⟩] ++
  (List.range 18).map (fun n => ⟨0xC0100 + 0x20 * n, 0, 0xFFFF001F, 0xFFFF001F⟩) ++
  (List.range 1024).map (fun a => ⟨0xC1000 + 4 * a, 0, 0x1F, 0x1F⟩) ++
  [⟨0xD0000, 0, 0xF, 8⟩, ⟨0xD0004, 0, 0x3FFFF, 0⟩]

/-- The value an RWL instance holds, as written or at reset. -/
def rwlVal (s : State) (r : Rwl) : Nat := rawReg s r.off r.inst r.reset
/-- The configuration image (R447): reserved bits and non-RWL fields are zero in every stored word. -/
def cfgImage (s : State) : Bytes := rwlList.flatMap (fun r => le 4 (rwlVal s r))

/-- Selector registers: offset, mask of their field (R515). -/
def selMask (off : Nat) : Option Nat :=
  if off = 0x204 then some 0x3F else if off = 0x20C then some 7
  else if 0x40000 ≤ off && off < 0x48000 && off % 0x1000 = 0x18 then some 0x37
  else if 0x40000 ≤ off && off < 0x48000 && off % 0x1000 = 0x20 then some 0xFF
  else if off = 0x80020 then some 0x7F else if off = 0x80040 then some 0x3F else if off = 0x80060 then some 0x3FF
  else if off = 0x90020 then some 0x7F
  else if 0xC0100 ≤ off && off < 0xC0340 && off % 0x20 = 0x0C then some 3
  else if off = 0xD0020 then some 0x3F else if off = 0xE0014 then some 0xFFFF
  else if off = 0x100004 then some 0x1F01FF else if off = 0x100018 then some 0xFF1F
  else if off = 0x100028 then some 7 else none
def selVal (s : State) (acc off : Nat) : Nat := (tget s.regs.sel 0 (rkey off acc)).toNat

/-- Plain RW registers and their writable bits with the reset value (R519 to R530), other than selectors and RWL. -/
def rwMask (off : Nat) : Option (Nat × Nat) :=
  if off = 0x10000 then some (0xFFFFFFF0, 0) else if off = 0x10008 then some (0x1FFFFFF, 0)
  else if off = 0x1000C then some (4, 0)
  else if off = 0x10004 || off = 0x10014 || off = 0x10018 || off = 0x10020 || off = 0x10024 || off = 0x10028 ||
          off = 0x1002C || off = 0x10030 then some (0xFFFFFFFF, 0)
  else if off = 0x1001C then some (0xFFFFFF, 0)
  else if 0x20000 ≤ off && off < 0x24000 then
    let o := off % 0x40
    if o = 0 || o = 8 then some (0xFFFFF000, 0) else if o = 4 || o = 0xC then some (0xFFFFFFFF, 0)
    else if o = 0x10 then some (0x3F3FFF7F, 0x00100F00) else none
  else if 0x40000 ≤ off && off < 0x48000 && off % 0x1000 = 0x24 then some (0xFFFFFFFF, 0)
  else if 0x40000 ≤ off && off < 0x48000 && off % 0x1000 = 0x28 then some (0x8007FFFF, 0)
  else if off = 0xB0000 || off = 0xB0004 then some (0xFFFFFFFF, 0) else if off = 0xB0008 then some (0xFFFF, 0)
  else if off = 0xE0000 then some (0xFFFFF000, 0) else if off = 0xE0004 then some (0xFFFFFFFF, 0)
  else if off = 0xE0008 then some (0x3F1F, 0)
  else if off = 0x100008 then some (0x100, 0) else if off = 0x100020 then some (0x1FFFFC, 0) else none

/-- Low words of 64-bit values that the host writes (R514). -/
def lowWord (off : Nat) : Bool :=
  off = 0x10000 || off = 0x10014 || off = 0x10020 || off = 0x10028 || off = 0xB0000 || off = 0xE0000 ||
  (0x20000 ≤ off && off < 0x24000 && (off % 0x40 = 0 || off % 0x40 = 8))
/-- Low words of 64-bit values that the device holds (R403, R406, R352, R116, R526). -/
def roLowWord (off : Nat) : Bool :=
  off = 0x80028 || off = 0x80044 || off = 0x8004C || off = 0xA0000 || off = 0x10002C ||
  (0xC0100 ≤ off && off < 0xC0340 && off % 0x20 = 0x10)

/-- The function whose EVT_ block an accessor sees: cores see the PF's. -/
def evFn (acc : Nat) : Nat := if acc ≤ 8 then acc else 0
/-- The context that PART_CTX_SEL.CTX selects: a virtual function's local index names one of its partition's (R309, R522). -/
def ctxInst (acc c : Nat) : Nat := if 1 ≤ acc && acc ≤ 8 then 32 * (acc - 1) + c else c
/-- The instance that a register has for an accessor: the selected value, or the function for EVT_ (R515). -/
def instOf (s : State) (acc off : Nat) : Nat :=
  if 0x40000 ≤ off && off < 0x48000 && off % 0x1000 = 0x1C then selVal s acc (off - 4)
  else if 0x40000 ≤ off && off < 0x48000 && (off % 0x1000 = 0x24 || off % 0x1000 = 0x28) then
    ctxInst acc (selVal s acc (off / 0x1000 * 0x1000 + 0x20))
  else if 0xE0000 ≤ off && off < 0x100000 then evFn acc else 0
/-- The selected instance lies in its field's range (R515): bucket kinds 0 to 5 and classes 0 to 3, a virtual
function's local contexts 0 to 31. -/
def instOk (s : State) (acc off : Nat) : Bool :=
  if 0x40000 ≤ off && off < 0x48000 && off % 0x1000 = 0x1C then let v := selVal s acc (off - 4); v % 8 ≤ 5
  else if 0x40000 ≤ off && off < 0x48000 && (off % 0x1000 = 0x24 || off % 0x1000 = 0x28) && 1 ≤ acc && acc ≤ 8 then
    selVal s acc (off / 0x1000 * 0x1000 + 0x20) < 32
  else true

/-- The blocks that answer (R517): before PITCHED ID_, DEV_, BOOT_ and the PF's EVT_; from step 5 of the
seal ID_, DEV_ and BOOT_. -/
def answers (s : State) (acc off : Nat) : Bool :=
  match s.dev.st with
  | .stowed | .tripped => false
  | .pitching => s.link.cfgReady && (off < 0x20000 || (acc == 0 && 0xE0000 ≤ off && off < 0x100000))
  | .striking => off < 0x20000 || !s.boot.dark
  | _ => true

/-- The PF offset that an accessor's offset names: a VF sees its rings, its partition's page and its own EVT_
block (R518); none elsewhere. Accessors above 8 are cores and control cores, which see the PF's blocks. -/
def mapOff (s : State) (acc off : Nat) : Option Nat :=
  if acc = 0 || acc > 8 then some off
  else
    let p := acc - 1
    if single s || !(s.link.numVfs > p) || !partExists s p then none
    else if 0x20000 ≤ off && off < 0x20000 + 0x40 * 32 then some (off + 0x40 * 32 * p)
    else if 0x40000 + 0x1000 * p ≤ off && off < 0x40000 + 0x1000 * (p + 1) then some off
    else if 0xE0000 ≤ off && off < 0xE0020 then some off else none

/-- RWL fields are read-only (R11, R448). -/
def rwlReadOnly (s : State) : Bool := s.dev.locked || s.dev.commitOp.isSome

/-- Masked write of a raw instance. -/
def putReg (s : State) (off inst mask reset v : Nat) : State :=
  let old := rawReg s off inst reset
  let new := (old &&& (0xFFFFFFFF - mask)) ||| (v &&& mask)
  { s with regs := { s.regs with w := tset s.regs.w (rkey off inst) (BitVec.ofNat 32 new) } }

/-- A plain write at a PF offset: selectors, RWL and RW fields with the conditions of R11, R304, R310, R448,
R514, R529. PART_CTX_CFG.PRIV is written by the firmware's control cores alone (R28, R336). Offsets with a behaviour of their own are handled by their commands. -/
def plainWrite (s : State) (acc off v : Nat) : State :=
  match selMask off with
  | some m => { s with regs := { s.regs with sel := tset s.regs.sel (rkey off acc) (BitVec.ofNat 32 (v &&& m)) } }
  | none =>
    let page := 0x40000 ≤ off && off < 0x48000
    if page && acc = 0 && lockedTdi s (off / 0x1000 - 0x40) then s
    else if !instOk s acc off then s
    else match rwlList.find? (fun r => r.off = off && r.inst = instOf s acc off) with
    | some r =>
      if 1 ≤ acc && acc ≤ 8 then s
      else if s.dev.commitOp.isSome then { s with dev := { s.dev with cfgWriteLost := true } }
      else if rwlReadOnly s then s
      else putReg s off r.inst r.mask r.reset v
    | none =>
      match rwMask off with
      | none => s
      | some (m, reset) =>
        let ring := 0x20000 ≤ off && off < 0x24000
        let r := (off - 0x20000) / 0x40
        if ring && (ringOf s r).st != 0 then s
        else if 0xE0000 ≤ off && off < 0xE0010 && (evRing s (evFn acc)).on then s
        else
          let m := if ring && off % 0x40 = 0x10 && 1 ≤ acc && acc ≤ 8 then m - 0xF00
            else if page && off % 0x1000 = 0x28 && acc ≥ 1024 then m + 0x40000000 else m
          let inst := instOf s acc off
          if lowWord off then
            { s with regs := { s.regs with stage := tset s.regs.stage (rkey off inst) (BitVec.ofNat 32 (v &&& m)) } }
          else
            let s := match tfind s.regs.stage (rkey (off - 4) inst) with
              | some l => if off ≥ 4 && lowWord (off - 4) then putReg s (off - 4) inst 0xFFFFFFFF 0 l.toNat else s
              | none => s
            putReg s off inst m reset v

/-- Temperature in the 11-bit field of R525. -/
def temp11 (q : Int) : Nat := ofS 11 q
def regionOfSensor (i : Nat) : Nat :=
  if i < 768 then i / 12 else if i < 1152 then 64 + (i - 768) / 48 else 72 + (i - 1152) / 8
def regionSensors (r : Nat) : List Nat :=
  if r < 64 then (List.range 12).map (· + 12 * r)
  else if r < 72 then (List.range 48).map (· + (768 + 48 * (r - 64)))
  else (List.range 8).map (· + (1152 + 8 * (r - 72)))
def maxInt (l : List Int) : Int := l.foldl (fun a b => if a < b then b else a) (-160)
/-- Readings of a region's sensors that are not excluded. -/
def liveReadings (s : State) (r : Nat) : List Int :=
  ((regionSensors r).filter (fun i => !s.thm.excl.contains i)).map (tget s.thm.temp 0)
/-- A region with more than a quarter of its sensors excluded is capped (R423). -/
def capped (s : State) (r : Nat) : Bool :=
  let n := (regionSensors r).length
  (n - (liveReadings s r).length) * 4 > n
/-- The highest reading left, raised by 5 K while the region is capped. -/
def raisedMax (s : State) (r : Nat) : Int := maxInt (liveReadings s r) + if capped s r then 20 else 0
/-- A region's maximum in 0.25 °C: raised by 5 K while capped; from another source that still has two sensors raised by 5 K
when fewer than two remain (R420, R423). -/
def regionMax (s : State) (r : Nat) : Int :=
  if (liveReadings s r).length < 2 then
    let others := if r < 64 then (List.range 8).filterMap (fun k => if 8 * (r / 8) + k = r then none else some (8 * (r / 8) + k))
      else if r < 72 then (List.range 8).map (· + 8 * (r - 64))
      else (List.range 4).filterMap (fun v => if 72 + v = r then none else some (72 + v))
    let near := others.filter (fun x => (liveReadings s x).length ≥ 2)
    maxInt ((if near = [] then others else near).map (raisedMax s)) + 20
  else raisedMax s r

def domOf (s : State) (d : Nat) : Dom := tget s.pwr.doms {} d
/-- A domain is switched off: it shuts down, a pending enable is cancelled and a waiting request withdrawn (R411, R412). -/
def domOff (s : State) (d : Nat) : State :=
  { s with pwr := { s.pwr with doms := if (domOf s d).st = 0 then s.pwr.doms else tset s.pwr.doms d { st := 3 }
                               wait := s.pwr.wait.filter (· != d) } }
/-- CTX: the PF names global contexts, a VF the local ones of its partition (R309). -/
def ctxGlobal (s : State) (acc c : Nat) : Nat := if 1 ≤ acc && acc ≤ 8 && !single s then 32 * (acc - 1) + c % 32 else c

/-- The high word of a device-held 64-bit value and its low word (R514). -/
def wide (s : State) (acc off : Nat) : Nat :=
  if off = 0x80028 then (tget s.pwr.vmin (0, 0) (selVal s acc 0x80020)).2
  else if off = 0x80044 then tget s.pwr.cnt5 0 (selVal s acc 0x80040)
  else if off = 0x8004C then tget s.pwr.cnt6 0 (selVal s acc 0x80040)
  else if off = 0xA0000 then s.tick
  else if off = 0x10002C then
    let core := selVal s acc 0x100004 % 512
    if sealed s (partOfTent s (core / 64)) then 0 else tget (coreOf s core).frz 0 (selVal s acc 0x100028)
  else tget (portOf s ((off - 0xC0100) / 0x20)).cnt 0 (selVal s acc (off - 4))

/-! A core's registers and local store, byte addresses in the core's local store (R75, R485). -/
/-- A lane register: as last written, else 0 in a cleared file and free contents otherwise (R411, R454). -/
def regVal (core : Nat) (g : Grp) (lane r : Nat) : Word :=
  match tfind g.regs (256 * lane + r) with
  | some w => w
  | none => if g.gen = 0 then 0 else Config.regNoise core g.gen (256 * lane + r)
def lsDefault (core : Nat) (c : Core) (a : Nat) : Byte := if c.lsGen = 0 then 0 else Config.lsNoise core c.lsGen a
def lsByte (core : Nat) (c : Core) (a : Nat) : Byte := (cget c.ls a).getD (lsDefault core c a)
def lsRead (core : Nat) (c : Core) (a n : Nat) : Bytes := (List.range n).map (fun i => lsByte core c (a + i))
/-- Bytes of local store under a split (R75). -/
def lsBytes (split : Nat) : Nat := (split + 1) * 0x40000

/-- The debugger's selected core and group. -/
def dbgCore (s : State) : Nat := selVal s 0 0x100004 % 512
def dbgSlot (s : State) : Nat := bits (selVal s 0 0x100004) 16 5
def dbgPart (s : State) : Nat := partOfTent s (dbgCore s / 64)
def dbgGrp (s : State) : Option Grp := tfind (coreOf s (dbgCore s)).grps (dbgSlot s)

/-- What the debugger reads of the selected group while it is halted (R92, R93): DBG_PC, DBG_MASK, a register, a local-store word. -/
def dbgData (s : State) (off : Nat) : Nat :=
  match (dbgGrp s).filter (·.halt.isSome) with
  | none => 0
  | some g =>
    let c := coreOf s (dbgCore s)
    let i := selVal s 0 0x100018
    let a := rawReg s 0x100020 0 0
    if off = 0x100010 then g.pc
    else if off = 0x100014 then g.active.toNat
    else if off = 0x10001C then (regVal (dbgCore s) g (i % 32) (bits i 8 8)).toNat
    else if a + 4 ≤ lsBytes c.split then unle (lsRead (dbgCore s) c a 4) else 0
def isDbgData (off : Nat) : Bool := off = 0x100010 || off = 0x100014 || off = 0x10001C || off = 0x100024
/-- The bits that the tables show of a status register; every other bit reads 0 (R9). -/
def shown (off : Nat) : Nat :=
  if off = 0x100 then 7 else if off = 0x104 || off = 0x80030 || off = 0xB000C then 0 else if off = 0x108 then 7
  else if off = 0x10C then 1 else if off = 0x200 then 0xFF else if off = 0x208 || off = 0x210 then 0xF
  else if off = 0x218 then 0x3FFFF else if off = 0x21C then 0xFFFF else if off = 0x1000C then 4
  else if off = 0x10010 then 0x73FFF7 else if off = 0x10034 then 0xFFFFFF
  else if 0x20000 ≤ off && off < 0x24000 then
    let o := off % 0x40
    if o = 0x14 then 1 else if o = 0x18 then 0x1F else if o = 0x1C || o = 0x20 then 0xFFFF else 0xFFFFFFFF
  else if off = 0x80004 then 0x1FFF else if off = 0x80010 then 3 else if off = 0x80024 then 0x7FF else if off = 0x80064 then 7
  else if off = 0x90004 then 0x7F else if off = 0x90008 then 0x7FF else if off = 0x9000C then 3 else if off = 0x90010 then 0xFF1F
  else if off = 0x90024 then 0x13F07FF else if off = 0xA0008 then 0xFFFF0001 else if off = 0xB0010 then 0xF
  else if 0xC0100 ≤ off && off < 0xC0340 && off % 0x20 = 4 then 1
  else if 0xC0100 ≤ off && off < 0xC0340 && off % 0x20 = 8 then 0x1F7F
  else if off = 0xD0008 then 0x7F3F07 else if off = 0xD0010 then 0xFFFF else if off = 0xD0014 then 0x1FFF
  else if off = 0xD0024 then 0xFFFF7F07 else if off = 0xE0008 then 0x80003F1F else if off = 0xE000C then 0xFFFF
  else if off = 0xE0010 then 0xFFFF0007 else if off = 0x100000 then 0xFF else if off = 0x100008 then 0x100
  else if off = 0x10000C then 0xFF0F else 0xFFFFFFFF
/-- The value of a status register or read-only field (R519 to R530); none where the register is plain. -/
def statusReg (s : State) (acc off : Nat) : Option Nat :=
  let dark : Bool := s.dev.st == .pitching
  if off = 0 then some (Config.vendorId.toNat + 0x10000 * 0x0309)
  else if off = 4 then some (0x01 + 0x100 * 9 + 0x10000 * 8)
  else if off = 0x100 then some s.dev.st.code
  else if off = 0x104 then some 0
  else if off = 0x108 then some (b2n s.dev.cfgWriteLost + 2 * b2n s.dev.fatal + 4 * b2n s.dev.strikeRefused)
  else if off = 0x10C then some (b2n s.link.vfPend.isSome)
  else if off = 0x200 then some s.dev.usable
  else if off = 0x208 then some (tget s.dev.declCores 0 (selVal s acc 0x204))
  else if off = 0x210 then some (tget s.dev.declWays 0 (selVal s acc 0x20C))
  else if off = 0x214 then some (Nat.min s.dev.linesOut.length 0x7FFFFF + 0x800000 * Nat.min s.dev.chansOut.length 511)
  else if off = 0x218 then some s.dev.spanOut
  else if off = 0x21C then some (sat 16 s.dev.newDefects)
  else if off = 0x1000C then some (rawReg s off 0 0 &&& 4)
  else if off = 0x10010 then some (s.boot.phase + 16 * s.boot.result + 0x100 * b2n s.boot.busy + 0x200 * b2n s.boot.sealed
      + 0x400 * s.boot.kind + 0x1000 * s.boot.coldReason + 0x100000 * s.boot.token)
  else if off = 0x10034 then some s.boot.outLen
  else if 0x20000 ≤ off && off < 0x24000 then
    let g := ringOf s ((off - 0x20000) / 0x40)
    let o := off % 0x40
    if o = 0x14 then some (b2n (g.st == 1 || g.pend))
    else if o = 0x18 then some (g.st + 4 * b2n g.pend + 8 * b2n g.cfgErr + 16 * b2n g.dbErr)
    else if o = 0x1C then some g.sqHead else if o = 0x20 then some g.cqTail
    else if o = 0x10 && 1 ≤ acc && acc ≤ 8 then some ((rawReg s off 0 0x00100F00 &&& 0xFFFFF0FF) ||| (0x100 * (acc - 1)))
    else none
  else if 0x40000 ≤ off && off < 0x48000 && off % 0x1000 = 4 then
    some (b2n (s.evt.failed.contains (off / 0x1000 - 0x40)))
  else if off = 0x80004 then some s.pwr.eff
  else if off = 0x80010 then some s.pwr.latched.1
  else if off = 0x80024 then some (tget s.pwr.vmin (0, 0) (selVal s acc 0x80020)).1
  else if off = 0x80030 then some 0
  else if off = 0x80064 then let d := domOf s (selVal s acc 0x80060); some (d.st + 4 * b2n d.pend)
  else if off = 0x90004 then some s.thm.level
  else if off = 0x90008 then some (if dark then 0 else temp11 s.thm.lid)
  else if off = 0x9000C then some s.thm.leak
  else if off = 0x90010 then some (s.pwr.latched.2.1 + 0x100 * s.pwr.latched.2.2)
  else if off = 0x90024 then
    let r := selVal s acc 0x90020
    if r ≥ 76 then some 0
    else some (temp11 (regionMax s r) + 0x10000 * ((regionSensors r).length - (liveReadings s r).length)
      + 0x1000000 * b2n (capped s r))
  else if off = 0xA0008 then some (b2n s.pwr.clkLocked + 0x10000 * s.pwr.alignCnt)
  else if off = 0xB000C then some 0
  else if off = 0xB0010 then some (s.trust.mboxResult + 8 * b2n s.trust.mboxBusy)
  else if 0xC0100 ≤ off && off < 0xC0340 && off % 0x20 = 4 then some (b2n (portOf s ((off - 0xC0100) / 0x20)).enable)
  else if 0xC0100 ≤ off && off < 0xC0340 && off % 0x20 = 8 then
    let p := portOf s ((off - 0xC0100) / 0x20)
    some (p.st + 16 * p.reason + 0x100 * p.width + 0x800 * b2n p.pend + 0x1000 * b2n p.crossed)
  else if off = 0xD0008 then some (s.gly.st + 0x100 * (s.gly.pos % 64) + 0x10000 * (s.gly.n % 128))
  else if off = 0xD000C then some (ofS 32 s.gly.ofs)
  else if off = 0xD0010 then some (sat 16 s.gly.crc)
  else if off = 0xD0014 then some (s.gly.grant.getD 0)
  else if off = 0xD0024 || off = 0xD0028 || off = 0xD002C then
    match tfind s.gly.peers (selVal s acc 0xD0020) with
    | none => some 0
    | some b =>
      if off = 0xD0024 then some (b.state % 8 + 0x100 * (b.throttle % 128) + 0x10000 * (b.power10 % 65536))
      else if off = 0xD0028 then some (b.demand25 % 65536 + 0x10000 * ofS 16 b.regionMax)
      else some (ofS 16 b.lid + 0x10000 * (b.uncorrected % 256) + 0x1000000 * (b.fatal % 256))
  else if off = 0xE0008 then some (rawReg s off (evFn acc) 0 + 0x80000000 * b2n (evRing s (evFn acc)).on)
  else if off = 0xE000C then some (evRing s (evFn acc)).head
  else if off = 0xE0010 then
    let r := evRing s (evFn acc)
    some (b2n r.overflow + 2 * b2n r.cfgErr + 4 * b2n r.writeFail + 0x10000 * r.lost)
  else if off = 0xE0018 then some (tget s.evt.cnt 0 (cntKey (evFn acc) (selVal s acc 0xE0014)))
  else if off = 0x100000 then some s.dbg.attach
  else if off = 0x100008 then some (rawReg s off 0 0 &&& 0x100)
  else if off = 0x10000C then
    match dbgGrp s with
    | some g => some (b2n g.halt.isSome + 2 * b2n g.stepBlocked + 4 * b2n s.dbg.reject + 8 * b2n s.dbg.denied
        + 0x100 * g.halt.getD 0)
    | none => some (4 * b2n s.dbg.reject + 8 * b2n s.dbg.denied)
  else if isDbgData off then some (dbgData s off)
  else none

/-- The instance of a register at its reset value: what blocks that do not yet answer read as before PITCHED (R517). The
trip registers are latched at the start (R524). -/
def resetRead (s : State) (acc off : Nat) : Nat :=
  if off = 0x80010 || off = 0x90010 then (statusReg s acc off).getD 0 &&& shown off
  else if off = 0x80004 then 3600 else if off = 0x9000C then 3 else if off = 0xA0008 then 1
  else match rwlList.find? (fun r => r.off = off) with
    | some r => r.reset
    | none => match rwMask off with
      | some (_, reset) => reset
      | none => 0
/-- What a 4-byte read returns (R9, R291, R513 to R518). A read of the debugger's registers for a core of a
partition that is confidential and LOCKED returns zero (R91). -/
def readReg (s : State) (acc off : Nat) : Word :=
  if off % 4 != 0 then 0 else
  match mapOff s acc off with
  | none => 0
  | some o =>
    if (0x100000 ≤ o && acc != 0) || (o = 0x10C && 1 ≤ acc && acc ≤ 8) then 0
    else if !answers s acc o then
      (if s.dev.st == .pitching && s.link.cfgReady then BitVec.ofNat 32 (resetRead s acc o) else 0)
    else if 0x100008 ≤ o && sealed s (dbgPart s) then 0
    else BitVec.ofNat 32 <|
      match selMask o with
      | some _ => selVal s acc o
      | none =>
        match tfind s.regs.latch (rkey o acc) with
        | some h => h.toNat
        | none =>
        if roLowWord o then wide s acc o % 2 ^ 32
        else if o ≥ 4 && roLowWord (o - 4) then wide s acc (o - 4) / 2 ^ 32
        else match statusReg s acc o with
        | some v => v &&& shown o
        | none =>
          if !instOk s acc o then 0
          else match rwlList.find? (fun r => r.off = o && r.inst = instOf s acc o) with
          | some r => rwlVal s r
          | none => match rwMask o with
            | some (_, reset) => rawReg s o (instOf s acc o) reset
            | none => 0

/-! Ring set-up fields (R310, R521). -/
def ringCfg (s : State) (r : Nat) : Nat := rawReg s (0x20010 + 0x40 * r) 0 0x00100F00
def ringSize (s : State) (r : Nat) : Nat := 2 ^ (ringCfg s r % 32)
/-- The partition a ring is bound to, 15 for an administrative ring (R308). -/
def ringPart (s : State) (r : Nat) : Nat :=
  let g := ringOf s r
  if g.owner = 0 then bits (ringCfg s r) 8 4 else g.owner - 1
/-- The context of a partition ring, by its global index (R309). -/
def ringCtx (s : State) (r : Nat) : Nat := ctxGlobal s (ringOf s r).owner (bits (ringCfg s r) 12 8)
/-- The class of a ring's kernel traffic; REALTIME on a VF's ring is served as LATENCY (R274). -/
def ringClass (s : State) (r : Nat) : Nat :=
  let c := bits (ringCfg s r) 20 2
  if (ringOf s r).owner != 0 && c = 0 then 1 else c
def sqBase (s : State) (r : Nat) : Nat := rawReg s (0x20000 + 0x40 * r) 0 0 + 2 ^ 32 * rawReg s (0x20004 + 0x40 * r) 0 0
def cqBase (s : State) (r : Nat) : Nat := rawReg s (0x20008 + 0x40 * r) 0 0 + 2 ^ 32 * rawReg s (0x2000C + 0x40 * r) 0 0
/-- PART_CTX_ROOT and PART_CTX_CFG of a global context: held in the page of the partition that owns it, under
the global index on the PF and the same entry through a VF's local index (R309, R522). -/
def ctxKeyPart (s : State) (c : Nat) : Nat := if single s then (parts s).headD 0 else c / 32
def ctxRoot (s : State) (c : Nat) : Nat := rawReg s (0x40024 + 0x1000 * ctxKeyPart s c) c 0 * 0x1000
def ctxCfg (s : State) (c : Nat) : Nat := rawReg s (0x40028 + 0x1000 * ctxKeyPart s c) c 0

end Sys2Proof.Machine
end

