-- ==== Sys2Proof/Machine/Numeric.lean ====
section
/-! DEFINITION. Number formats and conversion (02_number_formats.md): exact values, the one rounding, the
thirteen formats with their packing and block scales, clipping and flushing. -/
namespace Sys2Proof.Machine

/-- An exact value: a NaN, a signed infinity, or ± m × 2^e; m = 0 is a signed zero (R36 to R38). -/
inductive Num where
  | nan
  | inf (neg : Bool)
  | fin (neg : Bool) (m : Nat) (e : Int)
  deriving DecidableEq, Repr

/-- A floating-point layout (R35): exponent and mantissa bits, bias, largest finite code, infinity and NaN codes. -/
structure FF where
  eb : Nat
  mb : Nat
  bias : Nat
  maxCode : Nat
  inf : Option Nat
  nan : Option Nat
  deriving DecidableEq, Repr

def FF.w (f : FF) : Nat := 1 + f.eb + f.mb
def ffp32 : FF := ⟨8, 23, 127, 0x7F7FFFFF, some 0x7F800000, some 0x7FC00000⟩
def fbf16 : FF := ⟨8, 7, 127, 0x7F7F, some 0x7F80, some 0x7FC0⟩
def ffp16 : FF := ⟨5, 10, 15, 0x7BFF, some 0x7C00, some 0x7E00⟩
def fe4m3 : FF := ⟨4, 3, 7, 0x7E, none, some 0x7F⟩
def fe5m2 : FF := ⟨5, 2, 15, 0x7B, some 0x7C, some 0x7E⟩
def fe3m2 : FF := ⟨3, 2, 3, 0x1F, none, none⟩
def fe2m3 : FF := ⟨2, 3, 1, 0x1F, none, none⟩
def fe2m1 : FF := ⟨2, 1, 1, 0x7, none, none⟩

/-- 2^e of an integer exponent as a fraction: numerator and denominator factors. -/
def up (e : Int) : Nat := 2 ^ e.toNat
def down (e : Int) : Nat := 2 ^ (-e).toNat

/-- The value of a code (R35): subnormals honoured, any NaN encoding accepted (R36, R37). -/
def decodeF (f : FF) (c : Nat) : Num :=
  let c := c % 2 ^ f.w
  let neg := bit c (f.eb + f.mb)
  let mag := c % 2 ^ (f.eb + f.mb)
  if mag > f.maxCode then (if f.inf = some mag then .inf neg else .nan)
  else
    let x := mag / 2 ^ f.mb
    if x = 0 then .fin neg mag (1 - f.bias - f.mb : Int)
    else .fin neg (mag % 2 ^ f.mb + 2 ^ f.mb) ((x : Int) - f.bias - f.mb)

/-- floor(log2 (p/d)) for p, d > 0. -/
def flog (p d : Nat) : Int :=
  let l : Int := (log2 p : Int) - log2 d
  if p * down l < d * up l then l - 1 else l

/-- A magnitude p/d > 0 on a format's grid with unbounded exponent: the code below it, the remainder and
its denominator. Codes rise with the magnitude, so the next code up is the next magnitude up. -/
def gridF (f : FF) (p d : Nat) : Nat × Nat × Nat :=
  let qmin : Int := 1 - f.bias - f.mb
  let q0 := flog p d - f.mb
  let q := if q0 < qmin then qmin else q0
  let den := d * up q
  let num := p * down q
  ((q - qmin).toNat * 2 ^ f.mb + num / den, num % den, den)

/-- R50: the nearer code, a tie to the even one. -/
def rne (g : Nat × Nat × Nat) : Nat :=
  if 2 * g.2.1 > g.2.2 || (2 * g.2.1 == g.2.2 && g.1 % 2 == 1) then g.1 + 1 else g.1

/-- Conversion control (R48): stochastic, IEEE overflow, and the random word of R51. -/
structure Ctl where
  rnd : Bool := false
  ovf : Bool := false
  r : Nat := 0
  deriving DecidableEq, Repr

/-- R50 to R52 on a grid whose largest code is `mx`: the code, or none beyond Max. -/
def pick (c : Ctl) (mx : Nat) (g : Nat × Nat × Nat) : Option Nat :=
  let n := rne g
  if n > mx then none
  else if g.1 ≥ mx then some mx
  else if c.rnd then (if c.r * g.2.2 < g.2.1 * 2 ^ 32 then some (g.1 + 1) else some g.1)
  else some n

/-- A converted element: its code, and whether it is clipped or flushed (R55). -/
structure Conv where
  code : Nat
  clip : Bool := false
  flush : Bool := false
  deriving DecidableEq, Repr

/-- A fraction p/d of a value that is finite. -/
def Num.frac : Num → Nat × Nat
  | .fin _ m e => (m * up e, down e)
  | _ => (0, 1)
def Num.neg : Num → Bool
  | .nan => false
  | .inf n => n
  | .fin n _ _ => n
def Num.isZero : Num → Bool
  | .fin _ 0 _ => true
  | _ => false
def Num.isFin : Num → Bool
  | .fin _ _ _ => true
  | _ => false

/-- The element conversion of R52 for a floating-point target: sign and exact magnitude p/d. -/
def convQ (f : FF) (c : Ctl) (neg : Bool) (p d : Nat) : Conv :=
  let sgn := if neg then 2 ^ (f.eb + f.mb) else 0
  if p = 0 then ⟨sgn, false, false⟩
  else match pick c f.maxCode (gridF f p d) with
    | some k => ⟨sgn + k, false, k == 0⟩
    | none =>
      if !c.ovf then ⟨sgn + f.maxCode, true, false⟩
      else match f.inf, f.nan with
        | some i, _ => ⟨sgn + i, true, false⟩
        | none, some n => ⟨n, true, false⟩
        | none, none => ⟨sgn + f.maxCode, true, false⟩
/-- R52 for any input. -/
def convF (f : FF) (c : Ctl) (x : Num) : Conv :=
  match x with
  | .nan => ⟨f.nan.getD 0, false, false⟩
  | .inf neg =>
    let sgn := if neg then 2 ^ (f.eb + f.mb) else 0
    match f.inf, f.nan with
    | some i, _ => ⟨sgn + i, true, false⟩
    | none, some n => ⟨n, true, false⟩
    | none, none => ⟨sgn + f.maxCode, true, false⟩
  | .fin neg _ _ => convQ f c neg x.frac.1 x.frac.2
/-- R52 for an integer element of `w` bits, in units of the element's step: NaN gives 0. -/
def convIQ (w : Nat) (c : Ctl) (neg : Bool) (p d : Nat) : Conv :=
  let mx := 2 ^ (w - 1) - 1
  let s (k : Nat) : Nat := if neg then (2 ^ w - k) % 2 ^ w else k
  match pick c mx (p / d, p % d, d) with
  | some k => ⟨s k, false, k == 0 && p != 0⟩
  | none => ⟨s mx, true, false⟩
def convI (w : Nat) (c : Ctl) (x : Num) : Conv :=
  match x with
  | .nan => ⟨0, false, false⟩
  | .inf neg => ⟨if neg then 2 ^ (w - 1) + 1 else 2 ^ (w - 1) - 1, true, false⟩
  | .fin neg _ _ => convIQ w c neg x.frac.1 x.frac.2

/-- Rounding to nearest even with IEEE overflow: every FP32, FP16 or BF16 result (R46, R49). -/
def roundF (f : FF) (x : Num) : Nat := (convF f { ovf := true } x).code
def ofFp32 (w : Word) : Num := decodeF ffp32 w.toNat
def toFp32 (x : Num) : Word := BitVec.ofNat 32 (roundF ffp32 x)
def nanW : Word := 0x7FC00000#32

/-! Exact arithmetic. -/
def negN : Num → Num
  | .nan => .nan
  | .inf n => .inf (!n)
  | .fin n m e => .fin (!n) m e
def mulN (a b : Num) : Num :=
  match a, b with
  | .nan, _ | _, .nan => .nan
  | .inf n, .inf k => .inf (n != k)
  | .inf n, .fin k m _ | .fin k m _, .inf n => if m = 0 then .nan else .inf (n != k)
  | .fin n m e, .fin k l g => .fin (n != k) (m * l) (e + g)
/-- The exact sum of values, with IEEE rules for special values and for the sign of a zero sum. -/
def sumN (l : List Num) : Num :=
  if l.any (fun x => x == .nan) then .nan
  else match l.any (fun x => x == .inf false), l.any (fun x => x == .inf true) with
    | true, true => .nan
    | true, false => .inf false
    | false, true => .inf true
    | false, false =>
      let e := l.foldl (fun a x => match x with
        | .fin _ m g => if m != 0 && g < a then g else a
        | _ => a) (0 : Int)
      let t : Int := l.foldl (fun a x => match x with
        | .fin n m g => if m = 0 then a else if n then a - (m * up (g - e) : Nat) else a + (m * up (g - e) : Nat)
        | _ => a) 0
      if t = 0 then .fin (!l.isEmpty && l.all (fun x => x.neg && x.isZero)) 0 0
      else .fin (t < 0) t.natAbs e
def addN (a b : Num) : Num := sumN [a, b]
/-- Order of two values that are not NaN; a zero orders by its sign (R38). -/
def ltN (a b : Num) : Bool :=
  match a, b with
  | .inf true, .inf true | .inf false, _ | _, .inf true => false
  | .inf true, _ | _, .inf false => true
  | .fin n m _, .fin k l _ =>
    if m = 0 && l = 0 then n && !k
    else
      let x : Int := (a.frac.1 * b.frac.2 : Nat)
      let y : Int := (b.frac.1 * a.frac.2 : Nat)
      (if n then -x else x) < (if k then -y else y)
  | .nan, _ | _, .nan => false
/-- IEEE comparison: NaN is unordered, zeros are equal. -/
def ltI (a b : Num) : Bool := !(a.isZero && b.isZero) && ltN a b
def eqI (a b : Num) : Bool := a != .nan && b != .nan && !ltI a b && !ltI b a
/-- minimumNumber and maximumNumber (R38). -/
def minN (a b : Num) : Num := if a = .nan then b else if b = .nan then a else if ltN b a then b else a
def maxN (a b : Num) : Num := if a = .nan then b else if b = .nan then a else if ltN a b then b else a
/-- FP32 operations on words, each rounded once. -/
def fadd (a b : Word) : Word := toFp32 (addN (ofFp32 a) (ofFp32 b))
def fsub (a b : Word) : Word := toFp32 (addN (ofFp32 a) (negN (ofFp32 b)))
def fmul (a b : Word) : Word := toFp32 (mulN (ofFp32 a) (ofFp32 b))
def ffma (a b c : Word) : Word := toFp32 (addN (mulN (ofFp32 a) (ofFp32 b)) (ofFp32 c))
/-- A quotient of a finite value by a positive finite one, rounded once to FP32. -/
def fdivN (x : Num) (s : Num) : Word :=
  match x, s with
  | .nan, _ | _, .nan | .inf _, .inf _ => nanW
  | .inf n, .fin k _ _ => if n != k then 0xFF800000#32 else 0x7F800000#32
  | .fin n _ _, .inf k => if n != k then 0x80000000#32 else 0#32
  | .fin n m _, .fin k l _ =>
    if l = 0 then (if m = 0 then nanW else if n != k then 0xFF800000#32 else 0x7F800000#32)
    else BitVec.ofNat 32 (convQ ffp32 { ovf := true } (n != k) (x.frac.1 * s.frac.2) (x.frac.2 * s.frac.1)).code
/-- floor of the square root, bit by bit. -/
def isqrtGo : Nat → Nat → Nat → Nat
  | 0, _, r => r
  | k + 1, n, r => let t := r + 2 ^ k; isqrtGo k n (if t * t ≤ n then t else r)
def isqrt (n : Nat) : Nat := isqrtGo (log2 n / 2 + 1) n 0
def intNum (i : Int) : Num := .fin (i < 0) i.natAbs 0

/-! The formats of R31. -/
inductive Elem where
  | fl (f : FF)
  | int (w frac : Nat)
  | t64
  deriving DecidableEq, Repr
/-- Where the scales lie: none, E8M0 per 32, FP32 per channel, BF16 per 32, FP16 per 64. -/
inductive Scl where
  | none | e8m0 | chan | bf16 | fp16
  deriving DecidableEq, Repr
structure Fm where
  bits : Nat
  el : Elem
  sc : Scl
  deriving DecidableEq, Repr

def fmOf (c : Nat) : Option Fm :=
  match c with
  | 0 => some ⟨32, .fl ffp32, .none⟩
  | 1 => some ⟨16, .fl fbf16, .none⟩
  | 2 => some ⟨16, .fl ffp16, .none⟩
  | 3 => some ⟨8, .fl fe4m3, .none⟩
  | 4 => some ⟨8, .fl fe5m2, .none⟩
  | 5 => some ⟨8, .fl fe4m3, .e8m0⟩
  | 6 => some ⟨8, .fl fe5m2, .e8m0⟩
  | 7 => some ⟨6, .fl fe3m2, .e8m0⟩
  | 8 => some ⟨6, .fl fe2m3, .e8m0⟩
  | 9 => some ⟨4, .fl fe2m1, .e8m0⟩
  | 10 => some ⟨8, .int 8 6, .e8m0⟩
  | 11 => some ⟨8, .int 8 0, .chan⟩
  | 12 => some ⟨4, .int 4 0, .bf16⟩
  | 13 => some ⟨0, .t64, .fp16⟩
  | 14 => some ⟨32, .int 32 0, .none⟩
  | _ => none
def fmD (c : Nat) : Fm := (fmOf c).getD ⟨32, .fl ffp32, .none⟩

/-- Roles of R33. -/
def actOk (c : Nat) : Bool := c ≤ 12
def wgtOk (c : Nat) : Bool := c ≤ 13
def outOk (c : Nat) : Bool := c ≤ 14
def isIntFmt (c : Nat) : Bool := c == 10 || c == 11 || c == 12
/-- R33: the operands belong to one family, or a T64 weight meets an activation of at most 8 bits. -/
def pairOk (a w : Nat) : Bool :=
  actOk a && wgtOk w && (if w == 13 then (fmD a).bits ≤ 8 else isIntFmt a == isIntFmt w)

/-- Elements of a scale block, 1 where the format has none (R41). -/
def blkLen (c : Nat) : Nat :=
  match (fmD c).sc with
  | .e8m0 | .bf16 => 32
  | .fp16 => 64
  | _ => 1
/-- Bytes of element data of one block (R42). -/
def blkBytes (c : Nat) : Nat := if c = 13 then 13 else (fmD c).bits * blkLen c / 8
/-- Bytes of one scale entry along the block dimension, 0 where there is none. -/
def sclBytes (c : Nat) : Nat :=
  match (fmD c).sc with
  | .e8m0 => 1
  | .bf16 | .fp16 => 2
  | _ => 0
/-- Bytes of `n` elements in whole blocks, and of their scales. -/
def elemBytes (c n : Nat) : Nat := cdiv n (blkLen c) * blkBytes c
def scaleBytes (c n : Nat) : Nat := cdiv n (blkLen c) * sclBytes c

/-- Value of a code of an element that is not T64 (R35, R39). -/
def elemNum (el : Elem) (code : Nat) : Num :=
  match el with
  | .fl f => decodeF f code
  | .int w fr => let i := toS w code; .fin (i < 0) i.natAbs (-(fr : Int))
  | .t64 => .fin false 0 0
/-- A T64 byte's digit as an element (R43, R44). -/
def t64Digit (b d : Nat) : Num :=
  if b ≥ 243 then .fin false 0 0
  else let x : Int := ((b / 3 ^ d % 3 : Nat) : Int) - 1; .fin (x < 0) x.natAbs 0
/-- Encoding faults of a T64 block's 13 bytes (R44). -/
def t64Faults (b : Bytes) : Nat :=
  (b.zipIdx.filter (fun x => x.1.toNat ≥ 243 || (x.2 == 12 && x.1.toNat / 81 % 3 != 1))).length
/-- The raw code of element `i` of packed data (R42). -/
def elemCode (c : Nat) (b : Bytes) (i : Nat) : Nat :=
  let w := (fmD c).bits
  if w = 6 then bits (fld b (i / 32 * 24) 24) (6 * (i % 32)) 6
  else if w = 4 then bits (fld b (i / 2) 1) (4 * (i % 2)) 4
  else fld b (i * (w / 8)) (w / 8)
/-- The value of element `i` before its scale. -/
def elemAt (c : Nat) (b : Bytes) (i : Nat) : Num :=
  if c = 13 then t64Digit (fld b (i / 64 * 13 + i % 64 / 5) 1) (i % 64 % 5)
  else elemNum (fmD c).el (elemCode c b i)
/-- E8M0 (R40). -/
def e8m0 (c : Nat) : Num := if c = 255 then .nan else .fin false 1 ((c : Int) - 127)
/-- The block scale of element `i`, 1 where the format has none along the block dimension. -/
def scaleAt (c : Nat) (sc : Bytes) (i : Nat) : Num :=
  match (fmD c).sc with
  | .e8m0 => e8m0 (fld sc (i / 32) 1)
  | .bf16 => decodeF fbf16 (fld sc (i / 32 * 2) 2)
  | .fp16 => decodeF ffp16 (fld sc (i / 64 * 2) 2)
  | _ => .fin false 1 0
/-- The decoded value of element `i`, exact. -/
def valAt (c : Nat) (b sc : Bytes) (i : Nat) : Num := mulN (elemAt c b i) (scaleAt c sc i)

/-! Writing (R45, R52 to R55). -/
/-- The outcome of writing one block or one run of elements: element codes or T64 elements, the scale bytes,
and the counts of R55. -/
structure Quant where
  codes : List Nat
  scale : Bytes := []
  clip : Nat := 0
  flush : Nat := 0
  nonfinite : Nat := 0
  deriving DecidableEq, Repr
def quantOf (l : List Conv) (scale : Bytes) : Quant :=
  { codes := l.map (·.code), scale, clip := (l.filter (·.clip)).length, flush := (l.filter (·.flush)).length }
/-- A in R53 and R54: the largest finite magnitude, as a fraction. -/
def amax (xs : List Num) : Num :=
  xs.foldl (fun a x => match x with
    | .fin _ m e => if ltN a (.fin false m e) then .fin false m e else a
    | _ => a) (.fin false 0 0)
/-- E of R53. -/
def mxE (c : Nat) : Int := if c = 5 then 8 else if c = 6 then 15 else if c = 7 then 4 else if c = 8 || c = 9 then 2 else 0
/-- One MX block (R53); `ctl i` is the control with the random word of element `i`. -/
def quantMx (c : Nat) (ctl : Nat → Ctl) (xs : List Num) : Quant :=
  if xs.any (fun x => !x.isFin) then { codes := xs.map (fun _ => 0), scale := [255], nonfinite := 1 }
  else
    let a := amax xs
    let xexp : Int := if a.isZero then -127 else
      let y := flog a.frac.1 a.frac.2 - mxE c
      if y < -127 then -127 else if y > 127 then 127 else y
    let conv (x : Num × Nat) : Conv :=
      let y := match x.1 with
        | .fin n m e => .fin n m (e - xexp)
        | z => z
      match (fmD c).el with
      | .fl f => convF f (ctl x.2) y
      | .int w fr => convI w (ctl x.2) (match y with
        | .fin n m e => .fin n m (e + fr)
        | z => z)
      | .t64 => ⟨0, false, false⟩
    quantOf (xs.zipIdx.map conv) (le 1 (xexp + 127).toNat)
/-- One INT4 group (R54): the scale A / 7 rounded upward to BF16. -/
def quantI4 (ctl : Nat → Ctl) (xs : List Num) : Quant :=
  if xs.any (fun x => !x.isFin) then { codes := xs.map (fun _ => 0), scale := le 2 0x7FC0, nonfinite := 1 }
  else
    let a := amax xs
    if a.isZero then { codes := xs.map (fun _ => 0), scale := [0, 0] }
    else
      let g := gridF fbf16 a.frac.1 (a.frac.2 * 7)
      let sc := if g.2.1 = 0 then g.1 else g.1 + 1
      let s := (decodeF fbf16 sc).frac
      quantOf (xs.zipIdx.map (fun x => convIQ 4 (ctl x.2) x.1.neg (x.1.frac.1 * s.2) (x.1.frac.2 * s.1))) (le 2 sc)
/-- Elements of INT8 with a supplied channel scale (R54). A zero, infinite or NaN scale has no stated quotient:
the IEEE quotient is taken, so a zero over zero counts as a NaN (log entry 20). -/
def quantI8 (ctl : Ctl) (s : Num) (x : Num) : Conv :=
  match x, s with
  | .nan, _ | _, .nan | .inf _, .inf _ => ⟨0, false, false⟩
  | .inf n, .fin k _ _ => convI 8 ctl (.inf (n != k))
  | .fin _ m _, .inf _ => ⟨0, false, m != 0⟩
  | .fin n m _, .fin k l _ =>
    if l = 0 then (if m = 0 then ⟨0, false, false⟩ else convI 8 ctl (.inf (n != k)))
    else convIQ 8 ctl (n != k) (x.frac.1 * s.frac.2) (x.frac.2 * s.frac.1)
/-- The T64 element of a quotient: rounded to nearest even and clamped to ±1 (R45 step 2). -/
def t64Elem (q : Word) : Int × Bool :=
  match ofFp32 q with
  | .fin n m e =>
    let x := Num.frac (.fin n m e)
    let k := rne (x.1 / x.2, x.1 % x.2, x.2)
    (if k = 0 then 0 else if n then -1 else 1, k > 1)
  | .inf n => (if n then -1 else 1, true)
  | .nan => (0, false)
/-- One T64 block (R45), its last one shortened to the columns below N (R126): codes are the elements plus 1. -/
def quantT64 (ovf : Bool) (xs : List Num) : Quant :=
  let bad : Quant := { codes := xs.map (fun _ => 1), scale := le 2 0x7E00, nonfinite := 1 }
  if xs.any (fun x => !x.isFin) then bad
  else
    let tot := sumN (xs.map (fun x => match x with
      | .fin _ m e => .fin false m e
      | z => z))
    if tot.isZero then { codes := xs.map (fun _ => 1), scale := [0, 0] }
    else
      let k := rne (gridF ffp16 tot.frac.1 (tot.frac.2 * xs.length))
      if k > 0x7BFF && ovf then bad
      else
        let sc := Nat.min k 0x7BFF
        if sc = 0 then { codes := xs.map (fun _ => 1), scale := [0, 0] }
        else
          let es := xs.map (fun x => t64Elem (fdivN x (decodeF ffp16 sc)))
          { codes := es.map (fun x => (x.1 + 1).toNat), scale := le 2 sc, clip := (es.filter (·.2)).length }
/-- The 13 bytes of a T64 block's digits (R43). -/
def t64Pack (d : List Nat) : Bytes :=
  (List.range 13).map (fun j => BitVec.ofNat 8 <|
    (List.range 5).foldl (fun a i => a + (if j = 12 && i = 4 then 1 else d.getD (5 * j + i) 1) * 3 ^ i) 0)
/-- Packs element codes of one format (R42). -/
def packCodes (c : Nat) (codes : List Nat) : Bytes :=
  let w := (fmD c).bits
  if c = 13 then t64Pack codes
  else le (w * codes.length / 8) (codes.zipIdx.foldl (fun a x => a + x.1 * 2 ^ (w * x.2)) 0)
/-- One unscaled element of a format without block scales. -/
def convElem (c : Nat) (ctl : Ctl) (x : Num) : Conv :=
  match (fmD c).el with
  | .fl f => convF f ctl x
  | .int w _ => convI w ctl x
  | .t64 => ⟨0, false, false⟩

/-! Accumulators. -/
/-- INT32 addition that saturates; a saturated accumulator stays saturated (R47). -/
def iadd (a : Word) (x : Int) : Word :=
  let v := toS 32 a.toNat
  if v = 2147483647 || v = -2147483648 then a
  else
    let t := v + x
    BitVec.ofInt 32 (if t > 2147483647 then 2147483647 else if t < -2147483648 then -2147483648 else t)
/-- The FP32 value of a signed word, rounded to nearest even. -/
def i2f (a : Word) : Word := toFp32 (intNum (toS 32 a.toNat))

end Sys2Proof.Machine
end

