-- ==== Sys2Proof/Machine/Special.lean ====
section
/-! DEFINITION. The functions that the spec bounds and does not fix (R58, R125): their exact values, computed far finer than
FP32, and the bound in units in the last place that every result keeps. -/
namespace Sys2Proof.Machine

/-! Fixed point with `fxP` fractional bits, and real functions to within a few units of its last place. -/
def fxP : Nat := 448
def fx1 : Int := (2 ^ fxP : Nat)
def fxMul (a b : Int) : Int := a * b / fx1
/-- Sum of the first `n` terms of a series, each made from the term before it. -/
def series (n : Nat) (first : Int) (next : Nat → Int → Int) : Int :=
  ((List.range n).foldl (fun a k => (a.1 + a.2, next (k + 1) a.2)) ((0 : Int), first)).1
def fxLn2 : Int := suml ((List.range fxP).map (fun k => 2 ^ fxP / ((k + 1) * 2 ^ (k + 1))))
/-- exp r of a small r. -/
def expSmall (r : Int) : Int := series 100 fx1 (fun k t => t * r / (k * fx1))
/-- exp t; beyond ±400 every result that uses it is decided. -/
def fxExp (t : Int) : Int :=
  let t := if t > 400 * fx1 then 400 * fx1 else if t < -400 * fx1 then -400 * fx1 else t
  let n := t / fxLn2
  let v := expSmall (t - n * fxLn2)
  if n < 0 then v / (2 ^ (-n).toNat : Nat) else v * (2 ^ n.toNat : Nat)
/-- 1 / (1 + exp (-t)). -/
def fxLogistic (t : Int) : Int := fx1 * fx1 / (fx1 + fxExp (-t))
/-- atan (1/k) with `p` fractional bits. -/
def atanInv (p k : Nat) : Int :=
  suml ((List.range (p / 4)).map (fun i => 2 ^ p / ((4 * i + 1) * k ^ (4 * i + 1)))) -
  suml ((List.range (p / 4)).map (fun i => 2 ^ p / ((4 * i + 3) * k ^ (4 * i + 3))))
def piBits : Nat := 640
/-- π with `piBits` fractional bits, by Machin's formula. -/
def fxPi : Int := 16 * atanInv piBits 5 - 4 * atanInv piBits 239
/-- A finite value in fixed point with `p` fractional bits. -/
def fixOf (p : Nat) : Num → Int
  | .fin n m e => let v : Int := ((m * up (e + p) / down (e + p) : Nat)); if n then -v else v
  | _ => 0
/-- The value of a fixed-point number scaled by 2^e. -/
def ofFix (v e : Int) : Num := .fin (v < 0) v.natAbs (e - fxP)
/-- sin (x + q π/2), by reduction to within π/4. -/
def fxSin (x : Num) (quarter : Nat) : Int :=
  let v := fixOf piBits x
  let q := (4 * v + fxPi) / (2 * fxPi)
  let r := (2 * v - q * fxPi) / (2 ^ (piBits - fxP + 1) : Nat)
  let sq := fxMul r r
  let alt (first : Int) (j : Nat) : Int := series 60 first (fun k t => -(fxMul t sq) / ((2 * k - 1 + j) * (2 * k + j) : Nat))
  match ((q + quarter) % 4).toNat with
  | 0 => alt r 1
  | 1 => alt fx1 0
  | 2 => -(alt r 1)
  | _ => -(alt fx1 0)
/-- log2 of m × 2^e. -/
def fxLog2 (m : Nat) (e : Int) : Int :=
  let k := log2 m
  let a : Int := (m * 2 ^ fxP / 2 ^ k : Nat)
  let z := (a - fx1) * fx1 / (a + fx1)
  let sq := fxMul z z
  let add (acc : Int × Int) (i : Nat) : Int × Int := (acc.1 + acc.2 / ((2 * i + 1 : Nat) : Int), fxMul acc.2 sq)
  let ln := 2 * ((List.range 150).foldl add (0, z)).1
  ln * fx1 / fxLn2 + (e + k) * fx1
/-- 1 + erf x, for x within ±17. -/
def fxErf1 (x : Int) : Int :=
  let sq := fxMul x x
  let s := series 1400 x (fun k t => 2 * fxMul t sq / (2 * k + 1 : Nat))
  let rootPi : Int := isqrt (fxPi.toNat * 2 ^ (2 * fxP - piBits))
  fx1 + 2 * fxMul s (fxExp (-sq)) * fx1 / rootPi

/-! The bound in units in the last place of FP32. -/
/-- A word's place in the order of the FP32 values, none for a NaN. -/
def placeOf (w : Word) : Option Int :=
  let m : Nat := w.toNat % 2 ^ 31
  if m > 0x7F800000 then none else some (if w.msb then -(m : Int) else m)
def atPlace (neg : Bool) (k : Nat) : Word := BitVec.ofNat 32 ((if neg then 2 ^ 31 else 0) + Nat.min k 0x7F800000)
/-- The candidate if it lies within `n` units in the last place of the exact value, else the nearest word: a value that the
spec bounds and leaves open within the bound. -/
def within (n : Nat) (x : Num) (c : Word) : Word :=
  match x with
  | .fin neg m _ =>
    let g := if m = 0 then (0, 0, 1) else gridF ffp32 x.frac.1 x.frac.2
    let low := g.2.1 * 2 ^ 40 < g.2.2
    let high := (g.2.2 - g.2.1) * 2 ^ 40 < g.2.2
    let k : Int := if high then g.1 + 1 else g.1
    let lo := if low || high then k - n else k + 1 - n
    let near := atPlace neg (rne g)
    if g.1 ≥ 0x7F800000 then near
    else match placeOf c with
      | none => near
      | some z => let z := if neg then -z else z; if lo ≤ z && z ≤ k + n then c else near
  | .inf neg => atPlace neg 0x7F800000
  | .nan => nanW

/-! The special functions (R58, R36 to R38). -/
/-- The exact value at a finite input that is not a zero. -/
def specialExact (f : SpecialFn) (x : Num) : Num :=
  match x with
  | .fin n m e =>
    match f with
    | .exp2 =>
      if flog m 1 + e > 9 then (if n then .fin false 0 0 else .inf false)
      else
        let v := fixOf fxP x
        let k := v / fx1
        ofFix (expSmall (fxMul (v - k * fx1) fxLn2)) k
    | .log2 => if n then .nan else ofFix (fxLog2 m e) 0
    | .recip => .fin n (2 ^ 600 / m) (-e - 600)
    | .rsqrt =>
      if n then .nan
      else if e % 2 = 0 then .fin false (isqrt (2 ^ 1200 / m)) (-(e / 2) - 600)
      else .fin false (isqrt (2 ^ 1201 / m)) (-((e + 1) / 2) - 600)
    | .sqrt => x
    | .sin => ofFix (fxSin x 0) 0
    | .cos => ofFix (fxSin x 1) 0
    | .tanh => if flog m 1 + e > 6 then .fin n 1 0 else ofFix (fx1 - 2 * fxLogistic (-2 * fixOf fxP x)) 0
  | z => z
/-- Results at the zeros, the infinities and a NaN, by IEEE rules: a zero's sign is kept. -/
def specialEdge (f : SpecialFn) (w : Word) : Num → Option Word
  | .nan => some nanW
  | .inf n => some (match f with
    | .exp2 => if n then 0 else w
    | .log2 => if n then nanW else w
    | .recip => atPlace n 0
    | .rsqrt => if n then nanW else 0
    | .sqrt => if n then nanW else w
    | .sin | .cos => nanW
    | .tanh => atPlace n 0x3F800000)
  | .fin n m _ =>
    if m != 0 then none
    else match f with
      | .exp2 | .cos => none
      | .log2 => some (atPlace true 0x7F800000)
      | .recip | .rsqrt => some (atPlace n 0x7F800000)
      | .sqrt | .sin | .tanh => some w
/-- The correctly rounded square root. -/
def fsqrt (x : Word) : Word :=
  match ofFp32 x with
  | .nan => nanW
  | .inf n => if n then nanW else x
  | .fin n m e =>
    if m = 0 then x
    else if n then nanW
    else
      let sh : Nat := if (e - 64) % 2 = 0 then 64 else 65
      let k := m * 2 ^ sh
      let q := isqrt k
      toFp32 (.fin false (2 * q + b2n (q * q != k)) ((e - sh) / 2 - 1))
def SpecialFn.num : SpecialFn → Nat
  | .exp2 => 0 | .log2 => 1 | .recip => 2 | .rsqrt => 3 | .sqrt => 4 | .sin => 5 | .cos => 6 | .tanh => 7
/-- The error bound in units in the last place. -/
def SpecialFn.ulp : SpecialFn → Nat
  | .exp2 | .log2 | .recip | .rsqrt => 2
  | .sqrt => 0
  | .sin | .cos | .tanh => 4
/-- A special function of R58: the square root is correctly rounded; another result lies within its bound. -/
def specialVal (f : SpecialFn) (x : Word) : Word :=
  match specialEdge f x (ofFp32 x) with
  | some w => w
  | none =>
    match f with
    | .sqrt => fsqrt x
    | f => within (SpecialFn.ulp f) (specialExact f (ofFp32 x)) (Config.special (SpecialFn.num f) x)

/-! The activation functions 3 to 7 (R125). -/
/-- The product of a value with a fixed-point factor; a factor below its last place leaves a zero with the value's sign. -/
def timesFix (n : Bool) (m : Nat) (e v : Int) : Num := .fin n (m * v.toNat) (e - fxP)
/-- The exact value at a finite input that is not a zero. From 2^4 (GELU), 2^5 (its tanh form) and 2^9 on the factor of v is 0 or 1 to all bits. -/
def actExact (k : Nat) (x : Num) : Num :=
  match x with
  | .fin n m e =>
    let big (b : Int) : Bool := flog m 1 + e ≥ b
    let sat : Num := if n then .fin true 0 0 else x
    let v := fixOf fxP x
    if k = 3 then
      if big 4 then sat
      else timesFix n m e (fxErf1 (v * fx1 / ((isqrt (2 * 4 ^ fxP) : Nat) : Int)) / 2)
    else if k = 4 then
      if big 5 then sat
      else timesFix n m e (fxLogistic (2 * 79788456 * (v + 44715 * fxMul v (fxMul v v) / 1000000) / 100000000))
    else if k = 5 then (if big 9 then sat else timesFix n m e (fxLogistic v))
    else if k = 6 then (if big 9 then (if n then .fin false 0 0 else .fin false 1 0) else ofFix (fxLogistic v) 0)
    else if big 7 then .fin n 1 0
    else ofFix (fx1 - 2 * fxLogistic (-2 * v)) 0
  | z => z
/-- A candidate for functions 3 to 7 at a finite input brought within 4 ulp; a zero keeps its sign, and Sigmoid has 1/2 there. -/
def actVal (k : Nat) (v c : Word) : Word :=
  match ofFp32 v with
  | .fin _ 0 _ => if k = 6 then within 4 (.fin false 1 (-1)) c else v
  | x => within 4 (actExact k x) c

end Sys2Proof.Machine
end

