-- ==== Sys2Proof/Machine/Operands.lean ====
section
/-! DEFINITION. Operand forms of a kernel instruction: the group it issues in, its lanes' registers with
their poison marks, immediates, register pairs and local-store words. -/
namespace Sys2Proof.Machine

/-- A resident group. -/
def grpOf (s : State) (core slot : Nat) : Option Grp := tfind (coreOf s core).grps slot
def setGrp (s : State) (core slot : Nat) (g : Grp) : State :=
  let c := coreOf s core
  setCore s core { c with grps := tset c.grps slot g }
def updGrp (s : State) (core slot : Nat) (f : Grp → Grp) : State :=
  match grpOf s core slot with
  | some g => setGrp s core slot (f g)
  | none => s

/-- Lanes 0 to 31 of a mask, ascending. -/
def lanesOf (m : Word) : List Nat := (List.range 32).filter (fun i => m.getLsbD i)
def maskOf (l : List Nat) : Word := BitVec.ofNat 32 (l.foldl (fun a i => a ||| 2 ^ i) 0)
def actives (g : Grp) : List Nat := lanesOf g.active

def regPois (g : Grp) (lane r : Nat) : Bool := g.pois.contains (256 * lane + r)
/-- A register with its poison mark written in one lane (R485, R486). -/
def putLane (g : Grp) (lane r : Nat) (v : Word) (p : Bool) : Grp :=
  if r < 256 then { g with regs := tset g.regs (256 * lane + r) v, pois := sput g.pois (256 * lane + r) p } else g
def reg64 (core : Nat) (g : Grp) (lane r : Nat) : Nat :=
  (regVal core g lane r).toNat + 2 ^ 32 * (regVal core g lane (r + 1)).toNat
def pois64 (g : Grp) (lane r : Nat) : Bool := regPois g lane r || regPois g lane (r + 1)
def put64 (g : Grp) (lane r v : Nat) (p : Bool) : Grp :=
  putLane (putLane g lane r (BitVec.ofNat 32 v) p) lane (r + 1) (BitVec.ofNat 32 (v / 2 ^ 32)) p

/-- A source operand in one lane with its mark. -/
def srcVal (core : Nat) (g : Grp) (lane : Nat) : Src → Word × Bool
  | .reg r => (regVal core g lane r, regPois g lane r)
  | .imm w => (w, false)
/-- A 64-bit source: a register pair, or an immediate sign-extended. -/
def src64 (core : Nat) (g : Grp) (lane : Nat) : Src → Nat × Bool
  | .reg r => (reg64 core g lane r, pois64 g lane r)
  | .imm w => (ofS 64 (toS 32 w.toNat), false)
def srcRegs : Src → List Nat
  | .reg r => [r, r + 1]
  | .imm _ => []
/-- A register of the list awaits a load in an active lane: the instruction is not ready (R57). -/
def busyAny (g : Grp) (rs : List Nat) : Bool :=
  !g.busy.isEmpty && (actives g).any (fun l => rs.any (fun r => g.busy.contains (256 * l + r)))

/-! Local store of a core: byte addresses in the core's local store (R75, R485). -/
/-- A word touched by the bytes carries a mark. -/
def lsMarked (c : Core) (a n : Nat) : Bool := c.lsPois.any (fun w => 4 * w < a + n && a < 4 * w + 4)
/-- A store to local store: poisoned data marks every word it touches, a clean store clears the marks of the
words it covers whole (R486); every granule it touches loses its promotion mark (R158). -/
def lsWrite (core : Nat) (c : Core) (a : Nat) (b : Bytes) (p : Bool) : Core :=
  let words := (List.range (cdiv (a % 4 + b.length) 4)).map (· + a / 4)
  let pois := words.foldl (fun l w =>
    if p then sadd l w else if a ≤ 4 * w && 4 * w + 4 ≤ a + b.length then sdel l w else l) c.lsPois
  { c with ls := cputs (lsDefault core c) c.ls a b, lsPois := pois,
           marks := c.marks.filter (fun m => !(16 * m < a + b.length && a < 16 * m + 16)) }
/-- The set a group belongs to. -/
def setOf (c : Core) (slot : Nat) : Option GSet := c.sets.find? (fun t => !t.gone && t.slots.contains slot)
def l1Bytes (split : Nat) : Nat := (5 - split) * 0x40000

end Sys2Proof.Machine
end

