-- ==== Sys2Proof/Machine/Flags.lean ====
section
/-! DEFINITION. Flag results: compares, the exchange flag XF and the tallies' truth values (R62 to R64). The
device has no status flags; a flag is written as 1 or 0 into the register the instruction names. -/
namespace Sys2Proof.Machine

def flagW (b : Bool) : Word := if b then 1 else 0
/-- An operand read as a predicate: any non-zero value is true. -/
def truth (w : Word) : Bool := w != 0
/-- A condition over an order; `un` says the operands are unordered, where only `ne` holds. -/
def condOf (c : Cmp) (lt eq un : Bool) : Bool :=
  if un then c == .ne
  else match c with
    | .eq => eq
    | .ne => !eq
    | .lt => lt
    | .le => lt || eq
    | .gt => !(lt || eq)
    | .ge => !lt
def cmpNum (c : Cmp) (a b : Num) : Bool := condOf c (ltI a b) (eqI a b) (a == .nan || b == .nan)
def cmpInt (c : Cmp) (a b : Int) : Bool := condOf c (decide (a < b)) (a == b) false

/-- Source lane of a lane exchange (R63), none where it lies outside the segment. -/
def xlnLane (k : XlnKind) (i sel span : Nat) : Option Nat :=
  let sg := i / span * span
  match k with
  | .at_ => some (sg + sel % span)
  | .below => if sel ≤ i && sg ≤ i - sel then some (i - sel) else none
  | .above => if i + sel < sg + span then some (i + sel) else none
  | .flip => some (i ^^^ (sel % span))
/-- The result of a tally over the active lanes' values, and XF (R64). -/
def tallyOf (k : TallyKind) (act : List Nat) (v : Nat → Word) (i : Nat) : Word × Bool :=
  let t := act.filter (fun l => truth (v l))
  match k with
  | .every => (flagW (t.length == act.length), t.length == act.length)
  | .some_ => (flagW (!t.isEmpty), !t.isEmpty)
  | .map => (maskOf t, false)
  | .count => (BitVec.ofNat 32 t.length, false)
  | .kin => (maskOf (act.filter (fun l => v l == v i)), false)
  | .same => if act.all (fun l => v l == v (act.headD 0)) then (maskOf act, true) else (0, false)

end Sys2Proof.Machine
end

