-- ==== Sys2Proof/Machine/Traps.lean ====
section
/-! DEFINITION. Launch records, traps (R88 to R90) and a group's paths (R59 to R61, R66, R69). -/
namespace Sys2Proof.Machine

def launchOf (s : State) (op : Nat) : Option Launch := s.krn.launches.find? (fun l => l.op == op)
def updLaunch (s : State) (op : Nat) (f : Launch → Launch) : State :=
  { s with krn := { s.krn with launches := s.krn.launches.map (fun l => if l.op == op then f l else l) } }
/-- A debugger is attached to the partition (R92). -/
def attached (s : State) (p : Nat) : Bool := p < 8 && bit s.dbg.attach p

/-- The ring whose LAUNCH it is: RING of the events it causes (R330, R491). -/
def launchRing (s : State) (op : Nat) : Nat := ((s.rng.ops.find? (fun o => o.id == op)).map (·.ring)).getD 0xFFFF

/-- The launch status of a trap code (R88), for traps 0x01 to 0x0F; `fmt` marks a format fault. -/
def trapStatus (code : Nat) (fmt : Bool) : Nat :=
  match code with
  | 2 | 3 | 6 => 6
  | 4 => 4
  | 5 => 5
  | 0x0B | 0x0D => 8
  | 0x0F => if fmt then 2 else 3
  | _ => 3
/-- DETAIL of EV_TRAP (R490). -/
def trapDetail (code slot : Nat) (g : Grp) (imm : Nat) : Bytes :=
  le 1 code ++ le 1 slot ++ le 2 0 ++ le 4 g.active.toNat ++ le 8 g.pc ++ le 2 imm
/-- A trap of time `now` with no debugger attached ends the launch (R89); the first trap is the one with the earliest
timestamp, then the lower core, then the lower slot. EV_TRAP is posted once per core and launch. -/
def endLaunch (s : State) (now core slot code imm : Nat) (fmt : Bool) (g : Grp) : State :=
  match launchOf s g.launch with
  | none => s
  | some l =>
    let earlier : Bool := match l.trap with
      | some (t, _, c, sl) => now < t || (now == t && (core < c || (core == c && slot < sl)))
      | none => true
    let fresh := !l.trapped.contains core
    let aborted := l.ended && l.trap.isNone
    let s := updLaunch s g.launch (fun l => { l with
      ended := true
      trap := if earlier && !aborted then some (now, code, core, slot) else l.trap
      status := if earlier && !aborted then trapStatus code fmt else l.status
      trapped := sadd l.trapped core })
    if fresh then detect s 0x201 2 l.part core 0 (trapDetail code slot g imm) (launchRing s g.launch)
    else
      let c := coreOf s core
      countEv (setCore s core { c with extraTraps := c.extraTraps + 1 }) 0x201 l.part
/-- A trap 0x01 to 0x0F of a group: with a debugger attached it halts that group alone (R90). -/
def raise (s : State) (core slot code : Nat) (imm : Nat := 0) (fmt : Bool := false) : State :=
  match grpOf s core slot with
  | none => s
  | some g =>
    let p := ((launchOf s g.launch).map (·.part)).getD 8
    if attached s p then
      setGrp s core slot { g with halt := some code, haltReq := false, stepping := false, trapAt := s.tick, trapImm := imm, trapFmt := fmt }
    else endLaunch s s.tick core slot code imm fmt g

/-- A group of the launch is halted (R87). -/
def anyHalted (s : State) (op : Nat) : Bool :=
  s.krn.cores.any (fun c => c.2.grps.any (fun g => g.2.launch == op && g.2.halt.isSome))
/-- A tick of TSCLK: the launches with a halted group count it. -/
def countHalted (s : State) : State :=
  { s with krn := { s.krn with launches := s.krn.launches.map (fun l =>
      if anyHalted s l.op then { l with halted := l.halted + 1 } else l) } }

/-! Paths of a group. -/
/-- No address: a path that meets no other. -/
def noAddr : Nat := 2 ^ 64
def topReconv (st : List Frame) : Nat :=
  match st with
  | .pend _ _ r :: _ | .join r _ :: _ => r
  | [] => noAddr
/-- R59: active threads that reach the reconvergence address run the pending path, or join the threads that
have reached it. Each turn turns a pending entry into a join or pops a join. -/
def reconverge : Nat → Grp → Grp
  | 0, g => g
  | n + 1, g =>
    match g.stack with
    | .pend t m r :: rest =>
      if g.pc = r then reconverge n { g with stack := .join r g.active :: rest, active := m &&& g.live, pc := t } else g
    | .join r acc :: rest =>
      if g.pc = r then reconverge n { g with stack := rest, active := (g.active ||| acc) &&& g.live } else g
    | [] => g
/-- The active threads have parked or exited: the group continues with the next pending path (R66). -/
def nextPath : Nat → Grp → Grp
  | 0, g => g
  | n + 1, g =>
    if g.active != 0 then g
    else match g.stack with
      | .pend t m r :: rest => nextPath n { g with stack := .join r 0 :: rest, active := m &&& g.live, pc := t }
      | .join r acc :: rest => nextPath n { g with stack := rest, active := acc &&& g.live, pc := r }
      | [] => g
/-- Both, after any change of pc or mask. -/
def settlePaths (g : Grp) : Grp :=
  let n := 2 * g.stack.length + 2
  reconverge n (nextPath n g)
/-- Distinct values of a list, ascending. -/
def distinct (l : List Nat) : List Nat := l.foldl sadd []
/-- Parked threads resume (R65, R69): by resume address in ascending order, as the running path where the
group has none, else as pending paths that meet it at the present reconvergence address. -/
def releaseGo (g : Grp) (ps : List Park) : Grp :=
  let lanes := ps.map (·.lane)
  let g := { g with parked := g.parked.filter (fun q => !lanes.contains q.lane) }
  let ps := ps.filter (fun q => g.live.getLsbD q.lane)
  let paths := (distinct (ps.map (·.pc))).map (fun a => (a, maskOf ((ps.filter (fun q => q.pc == a)).map (·.lane))))
  let run (g : Grp) (rest : List (Nat × Word)) : Grp :=
    let r := topReconv g.stack
    { g with stack := rest.map (fun p => Frame.pend p.1 p.2 r) ++ g.stack }
  match paths with
  | [] => g
  | (a, m) :: rest =>
    if g.active != 0 then run g ((a, m) :: rest)
    else reconverge (2 * (g.stack.length + rest.length) + 2) { run g rest with active := m, pc := a }
/-- A group whose step parked it halts when it is released (R92 step 5). -/
def release (g : Grp) (ps : List Park) : Grp :=
  let g := releaseGo g ps
  if g.stepping && g.stepBlocked && g.active != 0 then
    { g with halt := some 0x11, stepping := false, stepBlocked := false, haltReq := false } else g
/-- R65: live threads of a set. -/
def setGroups (s : State) (core : Nat) (t : GSet) : List (Nat × Grp) :=
  t.slots.filterMap (fun sl => (grpOf s core sl).map (fun g => (sl, g)))
def liveThreads (s : State) (core : Nat) (t : GSet) : Nat :=
  suml ((setGroups s core t).map (fun x => (lanesOf x.2.live).length))

end Sys2Proof.Machine
end

