-- ==== Sys2Proof/Machine/Routes.lean ====
section
/-! DEFINITION. The lateral fabric: edges, routes and the requests that an edge down in service cuts off (R16, R266, R269 to
R271). -/
namespace Sys2Proof.Machine

/-! Lateral fabric: Tents 0 to 7, Vestibule v as 8 + v (R16, R266, R532). -/
def edgeEnds (e : Nat) : Nat × Nat :=
  ([(0, 1), (1, 2), (2, 3), (4, 5), (5, 6), (6, 7), (0, 4), (1, 5), (2, 6), (3, 7), (0, 8), (4, 9), (3, 10), (7, 11)] :
    List (Nat × Nat)).getD e (0, 0)
def edgeModules (e : Nat) : Nat := if e < 10 then 16 else 8
/-- The settings that R268 accepts; a module that trains at no such setting has failed. -/
def accepted (rate width : Nat) : Nat × Nat :=
  if ([32, 24, 16, 12, 8, 4] : List Nat).contains rate && (width = 64 || width = 32) then (rate, width) else (0, 0)
/-- Trained rate and width of a module. -/
def moduleOf (s : State) (e m : Nat) : Nat × Nat := tget s.fab.mods (32, 64) (16 * e + m)
def trained (s : State) (e : Nat) : Nat := ((List.range (edgeModules e)).filter (fun m => (moduleOf s e m).2 != 0)).length
def edgeUp (s : State) (e : Nat) : Bool := !s.fab.downStart.contains e
/-- An edge below the figures of R16. -/
def edgeLow (s : State) (e : Nat) : Bool := (List.range (edgeModules e)).any (fun m => moduleOf s e m != (32, 64))
/-- Neighbours of a node over the edges that came up: across rows first, then along the row (R266, R270). -/
def nextHops (s : State) (a : Nat) : List (Nat × Nat) :=
  ([6, 7, 8, 9, 0, 1, 2, 3, 4, 5, 10, 11, 12, 13] : List Nat).filterMap (fun e =>
    let x := edgeEnds e
    if !edgeUp s e then none else if x.1 = a then some (e, x.2) else if x.2 = a then some (e, x.1) else none)
/-- Edges to the target for every node, by rounds of relaxation; 99 where no route joins them. -/
def hopsTo (s : State) (b : Nat) : List Nat :=
  (List.range 12).foldl (fun (d : List Nat) _ =>
    (List.range 12).map (fun a => if a = b then 0 else
      ((nextHops s a).map (fun h => d.getD h.2 99 + 1)).foldl Nat.min (d.getD a 99)))
    ((List.range 12).map (fun a => if a = b then 0 else 99))
/-- The edges of a route: at each node the first neighbour, in the order of `nextHops`, that is nearer. -/
def routeGo (s : State) (d : List Nat) : Nat → Nat → List Nat
  | 0, _ => []
  | n + 1, a =>
    match (nextHops s a).find? (fun h => d.getD h.2 99 + 1 = d.getD a 99) with
    | some h => h.1 :: routeGo s d n h.2
    | none => []
def route (s : State) (a b : Nat) : List Nat := routeGo s (hopsTo s b) 12 a
def reaches (s : State) (a b : Nat) : Bool := (hopsTo s b).getD a 99 < 99
/-- A partition's traffic crosses an edge: between its Tents, and between them and the Vestibules (R271). -/
def crosses (s : State) (p e : Nat) : Bool :=
  let ts := partTents s p
  let ends := ts ++ [8, 9, 10, 11]
  ts.any (fun a => ends.any (fun b => (route s a b).contains e || (route s b a).contains e))
/-- UNIT of an edge's events: its two ends, lower byte first (log entry 31). -/
def edgeUnit (e : Nat) : Nat := (edgeEnds e).1 + 256 * (edgeEnds e).2
/-- A request from one place to another crosses an edge that went down in service (R270). -/
def routeDown (s : State) (a b : Nat) : Bool := !s.fab.downSvc.isEmpty && (route s a b).any (fun e => s.fab.downSvc.contains e)
/-- Where the master port of an access sits, by port kind and index of R490: cores, feeders and sequencers by core, the host
and the descriptor engines at Vestibule 0, a Span port at its Vestibule, a Chain engine by Tent, a reduction unit by cluster. -/
def portPlace (kind idx : Nat) : Nat :=
  if kind < 3 then idx / 64 else if kind = 4 then 9 + idx / 6 else if kind = 5 then idx else if kind = 6 then idx / 8
  else if kind = 3 || kind = 7 then 8 else 99
/-- A Groundsheet rail of the Tent has been shut down: the Tent is out of service (R401). -/
def tentDown (s : State) (t : Nat) : Bool := s.pwr.railOff.any (fun r => r == 64 + t || r == 72 + t)
/-- A request from a place to a Tent, or its response, crosses an edge that went down in service: BUS_ERROR in both error
modes (R270), and so does one to a Tent out of service (log entry 83). The Tent controller (99) stays on its own die. -/
def cutOff (s : State) (place tent : Nat) : Bool :=
  (tent < 8 && tentDown s tent) || (place < 12 && (routeDown s place tent || routeDown s tent place))

end Sys2Proof.Machine
end

