-- ==== Sys2Proof/Machine/Memory.lean ====
section
/-! DEFINITION. The memory system below the cores: address map (R26, R191, R192, R195), HBM3E contents,
slices with their misses, victims and dead ranges (R201 to R216), in-cache reductions (R217 to R222), translation
(R336 to R339), and the access paths of the engines. -/
namespace Sys2Proof.Machine

/-! Address map. -/
def hbmEnd : Nat := 0x12000000000
def inHbm (pa : Nat) : Bool := pa < hbmEnd
def inPlot (pa : Nat) : Bool := 0x80000000000 ≤ pa && pa < 0x80800000000
def inRegs (pa : Nat) : Bool := 0xF0000000000 ≤ pa && pa < 0xF0002000000
def plotTent (pa : Nat) : Nat := (pa - 0x80000000000) / 0x100000000
def plotOff (pa : Nat) : Nat := (pa - 0x80000000000) % 0x100000000
def wayBytes : Nat := 150994944
/-- The Tent whose memory an address names. -/
def tentAt (pa : Nat) : Nat := if inHbm pa then pa / 0x2400000000 else plotTent pa
/-- R192: offset in the region, channel within the stack, G, stack, line index within the channel. -/
def hO (pa : Nat) : Nat := pa % 0x2400000000
def hCh (pa : Nat) : Nat := let o := hO pa; bits o 7 4 ^^^ bits o 15 4 ^^^ bits o 23 4 ^^^ bits o 31 4
def hG (pa : Nat) : Nat := hO pa / 2048
def hK (pa : Nat) : Nat := hG pa / 3
/-- Linear channel of an HBM3E address (R18, R192). -/
def chanAt (pa : Nat) : Nat := 16 * (3 * (pa / 0x2400000000) + hG pa % 3) + hCh pa
/-- Linear home slice and set of an address (R192, R195). -/
def sliceAt (pa : Nat) : Nat :=
  if inHbm pa then 48 * (pa / 0x2400000000) + 16 * (hG pa % 3) + hCh pa
  else 48 * plotTent pa + plotOff pa % wayBytes / 128 % 48
def setAt (pa : Nat) : Nat := if inHbm pa then hK pa % 24576 else plotOff pa % wayBytes / 128 / 48
def lineOf (pa : Nat) : Nat := pa / 128 * 128
/-- The row of an address within its channel, as (sid, bg, bk, row) in one number (R244). -/
def rowKey (pa : Nat) : Nat := hK pa / 16
/-- The pseudo-channel of a sector (R244). -/
def pcAt (pa : Nat) : Nat := pa / 64 % 2
/-- Slices of a Tent that no retired column holds, and the columns whose Plot lines stand in relief lines (R237, R238). -/
def slicesLeft (s : State) (t : Nat) : List Nat := (List.range 48).filter (fun sl => !s.fab.cut.contains (8 * t + sl / 6))
def reliefCols (s : State) (t : Nat) : List Nat := s.fab.relief.filter (fun k => k / 8 == t)
/-- The ways of a slice that are not retired, highest first. -/
def waysDown (s : State) (slice : Nat) : List Nat := ((List.range 16).reverse).filter (fun w => !s.mem.wayOut.contains (16 * slice + w))
/-- The slice, way and set that hold a Plot line: those of R195, or its relief position (R238). -/
def plotPlace (s : State) (pa : Nat) : Nat × Nat × Nat :=
  let t := plotTent pa
  let w := plotOff pa / wayBytes
  let sl := plotOff pa % wayBytes / 128 % 48
  let x := setAt pa
  match (reliefCols s t).findIdx? (fun k => k % 8 == sl / 6) with
  | none => (48 * t + sl, w, x)
  | some j =>
    let left := slicesLeft s t
    let m := left.length
    let r := (w * 6 + sl % 6) * 24576 + x
    let home := 48 * t + left.getD (r % m) 0
    (home, (waysDown s home).getD (j * cdiv (6 * plotWays s t) m + r / (24576 * m)) 0, r % (24576 * m) / m)
/-- The slice that serves a line: its home, or where a Plot line stands. -/
def servedAt (s : State) (pa : Nat) : Nat := if inPlot pa then (plotPlace s pa).1 else sliceAt pa
/-- An HBM3E line has left service (R248, R255). -/
def outOfService (s : State) (pa : Nat) : Bool :=
  s.dev.chansOut.contains (chanAt pa) || s.dev.linesOut.contains (lineOf pa)
/-- A Plot address lies in a mapped-out way of its Tent's window (R195, R27). -/
def plotBacked (s : State) (pa : Nat) : Bool := plotOff pa < plotWays s (plotTent pa) * wayBytes
/-- The address holds data: an HBM3E line in service or a backed Plot line. -/
def backed (s : State) (pa : Nat) : Bool :=
  if inHbm pa then !outOfService s pa else inPlot pa && plotBacked s pa
/-- The partition that owns the Tent holding the data, and its error mode (R224, R483). -/
def ownerAt (s : State) (pa : Nat) : Nat := partOfTent s (tentAt pa)
def busAt (s : State) (pa : Nat) : Bool := busMode s (ownerAt s pa)
/-- An address lies in a partition's own HBM3E regions, or its Tents' Plot windows. -/
def ownHbm (s : State) (p pa : Nat) : Bool := inHbm pa && bit (partMask s p) (tentAt pa)
def ownPlot (s : State) (p pa : Nat) : Bool := inPlot pa && bit (partMask s p) (tentAt pa)
/-- Bytes [a, a + n) overlap the code reserve of a partition (R82). -/
def inReserve (s : State) (p a n : Nat) : Bool :=
  partExists s p && a < reserveBase s p + codeReserve s p && reserveBase s p < a + n

/-! HBM3E contents (R251, R252) and Plot contents (R196). -/
def hbmDefault (s : State) (a : Nat) : Byte := Config.hbmNoise (tget s.mem.key 0 (a / 0x2400000000)) a
def plotDefault (_ : Nat) : Byte := 0
def hbmByte (s : State) (a : Nat) : Byte := (cget s.mem.hbm a).getD (hbmDefault s a)
def plotByte (s : State) (a : Nat) : Byte := (cget s.mem.plot a).getD 0
/-- The canonical form of the device's memories: addresses strictly rising, and no entry equal to what an unlisted address
reads as. -/
def Memory.wf (s : State) : Bool := cellsWf (hbmDefault s) s.mem.hbm && cellsWf plotDefault s.mem.plot
/-- A line's bytes with its two poison marks. -/
structure LV where
  data : Bytes
  pois : Nat
  deriving DecidableEq, Repr
def halves (p : List Nat) (line : Nat) : Nat := b2n (p.contains (line / 64)) + 2 * b2n (p.contains (line / 64 + 1))
/-- The sector carries the poison syndrome (R250). -/
def sectorPois (s : State) (pa : Nat) : Bool := s.mem.hbmPois.contains (pa / 64)
/-- Symbols of the sector's pseudo-channel that are decoded as erasures (R248). -/
def pinsAt (s : State) (pa : Nat) : List Nat :=
  ((chanOf s (chanAt pa)).pins.filter (fun p => p / 64 == pcAt pa)).map (· % 64)
/-- The decode of a sector: the damage that stands in it and what this read meets; a fourth command or address parity error is
treated as uncorrectable (R245, R249). -/
def sectorVerdict (s : State) (pa : Nat) (found : Sector) : Verdict :=
  if found.parity ≥ 4 then .uncorrectable
  else decode (sectorPois s pa) (pinsAt s pa) (tget s.mem.flaw [] (pa / 64) ++ found.errs)
/-- The sector decodes as uncorrectable. -/
def fresh (s : State) (pa : Nat) (found : Sector) : Bool := sectorVerdict s pa found == .uncorrectable
/-- Stored bytes of a sector, decrypted. -/
def sectorData (s : State) (pa : Nat) : Bytes := (List.range 64).map (fun i => hbmByte s (pa + i))
/-- The ciphertext and check symbols that the stack holds of a sector (R247, R250, R251). -/
def sectorCode (s : State) (pa : Nat) : List Nat :=
  let d := symbolsOf (xtsEncrypt (tget s.mem.xts (0, 0) (tentAt pa)) (pa / 64 * 64) (sectorData s (pa / 64 * 64)))
  let p := tget s.mem.flaw [] (pa / 64) ++ (if sectorPois s pa then poisonMask else [])
  ((d ++ checkSymbols d).zipIdx).map (fun x => x.1 ^^^ patAt p x.2)
/-- What a read returns of a sector: its bytes, decrypted after the decode (R249, R251), and its mark. Wrong symbols that the
decode let through decrypt to wrong data. -/
def sectorOut (s : State) (pa : Nat) (v : Verdict) : Bytes × Bool :=
  let d := sectorData s pa
  let wrong (left : Pattern) : Bytes :=
    if left.all (fun e => e.1 ≥ 32) then d
    else
      let key := tget s.mem.xts (0, 0) (tentAt pa)
      xtsDecrypt key pa (applyPattern left (xtsEncrypt key pa d))
  match v with
  | .clean left => (wrong left, false)
  | .corrected left _ => (wrong left, false)
  | .poisoned | .uncorrectable => (d, true)
/-- A line as its two sectors decode. -/
def hbmRead (s : State) (line : Nat) (lo hi : Sector) : LV :=
  let a := sectorOut s line (sectorVerdict s line lo)
  let b := sectorOut s (line + 64) (sectorVerdict s (line + 64) hi)
  { data := a.1 ++ b.1, pois := b2n a.2 + 2 * b2n b.2 }
def hbmLine (s : State) (line : Nat) : LV := hbmRead s line {} {}
def plotLine (s : State) (line : Nat) : LV :=
  { data := (List.range 128).map (fun i => plotByte s (line + i)), pois := halves s.mem.plotPois line }
def putHalves (p : List Nat) (line pois : Nat) : List Nat := sput (sput p (line / 64) (bit pois 0)) (line / 64 + 1) (bit pois 1)
/-- One sector encrypted, encoded and written: a mark gives it the poison syndrome (R208, R250, R251), its damage goes, and
a queued rewrite of it is superseded (R260). -/
def putSector (s : State) (pa : Nat) (b : Bytes) (pois : Bool) : State :=
  { s with
    mem := { s.mem with hbm := cputs (hbmDefault s) s.mem.hbm pa b, hbmPois := sput s.mem.hbmPois (pa / 64) pois
                        flaw := tdel s.mem.flaw (pa / 64) }
    hbm := { s.hbm with rewrite := sdel s.hbm.rewrite (pa / 64) } }
/-- A line written to HBM3E: both of its sectors. -/
def putHbm (s : State) (line : Nat) (v : LV) : State :=
  putSector (putSector s line (slice v.data 0 64) (bit v.pois 0)) (line + 64) (slice v.data 64 64) (bit v.pois 1)
def putPlot (s : State) (line : Nat) (v : LV) : State :=
  { s with mem := { s.mem with plot := cputs plotDefault s.mem.plot line v.data, plotPois := putHalves s.mem.plotPois line v.pois } }

/-! What a request does to a line. -/
/-- The poison marks after bytes are written: a half rewritten whole takes the new mark, a half written in part
keeps its own mark too (R223, R486). -/
def markWrite (old : Nat) (offs : List Nat) (pois : Nat) : Nat :=
  let half (h : Nat) : Nat :=
    let n := (offs.filter (fun o => o / 64 == h)).length
    if n = 0 then bits old h 1 else if n = 64 then bits pois h 1 else bits old h 1 ||| bits pois h 1
  half 0 + 2 * half 1
def patch (d : Bytes) (bs : List (Nat × Byte)) : Bytes := bs.foldl (fun d x => d.set x.1 x.2) d
def putAt (d : Bytes) (off : Nat) (b : Bytes) : Bytes := patch d (b.zipIdx.map (fun x => (off + x.2, x.1)))
/-- An atomic's new value from the old (R62), `w` bits wide; MIN and MAX are signed, as R217's are (log entry 24). -/
def atomVal (op : AtomOp) (w old x c : Nat) : Nat :=
  match op with
  | .add => (old + x) % 2 ^ w
  | .min => if toS w x < toS w old then x else old
  | .max => if toS w old < toS w x then x else old
  | .and => old &&& x
  | .or => old ||| x
  | .xor => old ^^^ x
  | .exch => x
  | .cas => if old = c then x else old
/-- Compensated add (R218): the pair (s, e) after x. -/
def cadd (sm e x : Word) : Word × Word :=
  let s2 := fadd sm x
  if !(ofFp32 s2).isFin then (s2, 0)
  else
    let bp := fsub s2 sm
    (s2, fadd e (fadd (fsub sm (fsub s2 bp)) (fsub x bp)))
def redBytes (op : RedOp) (ty : RedTy) : Nat := if op = .cadd || ty = .int64 then 8 else 4
/-- One element of a reduction (R217): target and operand as little-endian words. -/
def redVal (op : RedOp) (ty : RedTy) (t x : Nat) : Nat :=
  let num (f : FF) (a b : Nat) : Nat :=
    let p := decodeF f a
    let q := decodeF f b
    roundF f (match op with
      | .min => minN p q
      | .max => maxN p q
      | _ => addN p q)
  let int (w : Nat) : Nat := match op with
    | .min => atomVal .min w t x 0
    | .max => atomVal .max w t x 0
    | _ => (t + x) % 2 ^ w
  match op, ty with
  | .cadd, _ =>
    let r := cadd (BitVec.ofNat 32 t) (BitVec.ofNat 32 (t / 2 ^ 32)) (BitVec.ofNat 32 x)
    r.1.toNat + 2 ^ 32 * r.2.toNat
  | _, .fp32 => num ffp32 t x
  | _, .bf16x2 => num fbf16 (t % 65536) (x % 65536) + 65536 * num fbf16 (t / 65536 % 65536) (x / 65536 % 65536)
  | _, .int32 => int 32
  | _, .int64 => int 64
/-- A request performed on a line: the line after it. -/
def applyDo (a : MemDo) (v : LV) : LV :=
  match a with
  | .read => v
  | .write bs p => { data := patch v.data bs, pois := markWrite v.pois (bs.map (·.1)) p }
  | .atom op w64 off x c p =>
    let n := if w64 then 8 else 4
    { data := putAt v.data off (le n (atomVal op (8 * n) (fld v.data off n) (x % 2 ^ (8 * n)) (c % 2 ^ (8 * n))))
      pois := if p then setBit v.pois (off / 64) true else v.pois }
  | .red op ty xs p =>
    let n := redBytes op ty
    { data := xs.foldl (fun d e => putAt d e.1 (le n (redVal op ty (fld d e.1 n) (e.2 % 2 ^ (8 * n))))) v.data
      pois := v.pois ||| p }
/-- In BUS_ERROR mode the request meets poison: an atomic or reduction is then not performed (R220, R484). -/
def meetsPoison (a : MemDo) (v : LV) : Bool :=
  match a with
  | .read | .write _ _ => false
  | .atom _ _ off _ _ p => p || bit v.pois (off / 64)
  | .red _ _ xs p => p != 0 || xs.any (fun e => bit v.pois (e.1 / 64))

/-! Lines and ways. -/
def resident (s : State) (line : Nat) : Option CLine := s.mem.lines.find? (fun c => c.line == line)
def pendingRed (s : State) (line : Nat) : Bool := s.mem.redq.any (fun r => r.line == line)
/-- The halves of a line with an upset byte not yet read. -/
def upsetAt (s : State) (line : Nat) : Nat := tget s.mem.upset 0 line
/-- The line's value without what waits for it. Upset bytes mark their halves of a dirty or Plot line, and a clean line is
what HBM3E holds (R223). -/
def lineVal (s : State) (line : Nat) : LV :=
  if inPlot line then { plotLine s line with pois := (plotLine s line).pois ||| upsetAt s line }
  else match resident s line with
    | some c => if upsetAt s line != 0 && !c.dirty then hbmLine s line else ⟨c.data, c.pois ||| upsetAt s line⟩
    | none => hbmLine s line
def putLine (s : State) (line : Nat) (v : LV) : State :=
  if inPlot line then putPlot s line v
  else if (resident s line).isSome then
    { s with mem := { s.mem with lines := s.mem.lines.map (fun c =>
        if c.line == line then { c with data := v.data, pois := v.pois, dirty := true } else c) } }
  else putHbm s line v

/-! Events of slices and channels, and the decode of a sector read (R227, R246 to R250, R263). -/
/-- Requester bytes of R490: port kind, error mode, index. -/
def whoDetail (s : State) (kind idx pa : Nat) : Bytes := le 1 kind ++ le 1 (b2n (busAt s pa)) ++ le 2 idx
def gsEvent (s : State) (code sev line kind idx : Nat) : State :=
  detect s code sev (ownerAt s line) (servedAt s line) line (whoDetail s kind idx line)
/-- An event of a channel, with its sector and the requester's bytes (R263, R490). -/
def chEvent (s : State) (code sev pa kind idx : Nat) : State :=
  detect s code sev (ownerAt s pa) (chanAt pa) pa (whoDetail s kind idx pa)
/-- Counts of a row's corrected sectors; an uncorrectable one makes it a candidate at once (R254). -/
def noteRow (s : State) (pa : Nat) (unc : Bool) : State :=
  let c := chanOf s (chanAt pa)
  setChan s (chanAt pa) { c with corr := tupd c.corr 0 (rowKey pa) (fun n => if unc then Nat.max 8 (n + 1) else n + 1) }
def countCorr (s : State) (pa : Nat) : State :=
  let c := chanOf s (chanAt pa)
  setChan s (chanAt pa) { c with nCorr := sat 32 (c.nCorr + 1) }
def countUnc (s : State) (pa : Nat) : State :=
  let c := chanOf s (chanAt pa)
  setChan s (chanAt pa) { c with nUnc := sat 32 (c.nUnc + 1) }
def uncSev (s : State) (pa : Nat) : Nat := if busAt s pa then 2 else 1
/-- The severity of a burst as the controller counts it, and its corrected bits (R246). -/
def burstCode : Burst → Nat
  | .clean => 0 | .one => 1 | .several _ => 2 | .uncorrected => 3
def burstFixed : Burst → Nat
  | .one => 1
  | .several n => n
  | _ => 0
/-- The two bursts of a sector join the channel's counts by severity, and their corrected bits the stack's one-second window
(R246, R258). -/
def countBursts (s : State) (pa : Nat) (f : Sector) : State :=
  let ch := chanAt pa
  let c := chanOf s ch
  let add (t : Tab Nat) (b : Burst) : Tab Nat := tupd t 0 (burstCode b) (fun n => sat 32 (n + 1))
  let s := setChan s ch { c with inner := add (add c.inner f.bursts.1) f.bursts.2 }
  let x := stackOf s (ch / 16)
  setStack s (ch / 16) { x with win := x.win + burstFixed f.bursts.1 + burstFixed f.bursts.2 }
/-- The events and counts of a sector that decodes corrected; the use of an erasure is an event of its own (R248, R249). -/
def correctedEvents (s : State) (pa kind idx : Nat) (erasure : Bool) : State :=
  let s := chEvent (countCorr (noteRow s pa false) pa) 0x130 0 pa kind idx
  if erasure then chEvent s 0x134 0 pa kind idx else s
/-- A sector read for a requester: the counts and events of R249. A corrected sector is queued for rewrite (R260). -/
def readSector (s : State) (pa : Nat) (found : Sector) (kind idx : Nat) : State :=
  let v := sectorVerdict s pa found
  let s := countBursts s pa found
  match v with
  | .clean _ | .poisoned => s
  | .corrected _ e =>
    let s := correctedEvents s pa kind idx e
    { s with hbm := { s.hbm with rewrite := sadd s.hbm.rewrite (pa / 64) } }
  | .uncorrectable => chEvent (countUnc (noteRow s pa true) pa) 0x131 (uncSev s pa) pa kind idx
/-- Both sectors of a line. -/
def readSectors (s : State) (line : Nat) (lo hi : Sector) (kind idx : Nat) : State :=
  readSector (readSector s line lo kind idx) (line + 64) hi kind idx
/-- A sector of the line decodes as uncorrectable. -/
def freshLine (s : State) (line : Nat) (lo hi : Sector) : Bool := fresh s line lo || fresh s (line + 64) hi

/-! Errors in the data bytes of a slice (R223, R226). -/
def dropLine (s : State) (line : Nat) : State :=
  { s with mem := { s.mem with lines := s.mem.lines.filter (fun c => c.line != line), upset := tdel s.mem.upset line } }
def cleanLine (s : State) (line : Nat) : State :=
  { s with mem := { s.mem with lines := s.mem.lines.map (fun d => if d.line == line then { d with dirty := false } else d) } }
/-- Physical row of a line: in its cache way, or where its Plot line stands. -/
def rowAt (s : State) (line : Nat) : Nat :=
  if inPlot line then (plotPlace s line).2.1 * 3072 + (plotPlace s line).2.2 / 8
  else (resident s line).elim 0 (·.way) * 3072 + setAt line / 8
/-- The halves `bad` of a line hold a bad byte that is being read. A clean line is fetched again from HBM3E; a dirty or Plot
line takes marks there, which are counted only where they stand already (R223, R488). -/
def parityMark (s : State) (line bad kind idx : Nat) : State :=
  let s := { s with mem := { s.mem with upset := tdel s.mem.upset line } }
  let dirty := (resident s line).elim true (·.dirty)
  if !inPlot line && !dirty then
    let s := readSectors (gsEvent s 0x110 0 line kind idx) line {} {} kind idx
    if busAt s line && freshLine s line {} {} then dropLine s line
    else
      let v := hbmLine s line
      { s with mem := { s.mem with lines := s.mem.lines.map (fun c => if c.line == line then { c with data := v.data, pois := v.pois } else c) } }
  else
    let old := (lineVal s line).pois
    let s' :=
      if inPlot line then { s with mem := { s.mem with plotPois := putHalves s.mem.plotPois line (old ||| bad) } }
      else { s with mem := { s.mem with lines := s.mem.lines.map (fun c => if c.line == line then { c with pois := c.pois ||| bad } else c) } }
    if old ||| bad = old then countEv s' 0x111 (ownerAt s line)
    else gsEvent s' 0x111 (uncSev s line) line kind idx
/-- The upset bytes of a line are met by a read of it, but for the halves that the access rewrites whole. -/
def meetUpset (s : State) (line whole kind idx : Nat) : State :=
  let bad := (if bit whole 0 then 0 else bits (upsetAt s line) 0 1) + (if bit whole 1 then 0 else 2 * bits (upsetAt s line) 1 1)
  if bad = 0 then { s with mem := { s.mem with upset := tdel s.mem.upset line } } else parityMark s line bad kind idx
/-- The lines of a row leave use, dirty ones written back. -/
def dropRow (s : State) (slice row : Nat) : State :=
  let mine := s.mem.lines.filter (fun c => c.slice == slice && c.way * 3072 + c.set / 8 == row)
  let s := mine.foldl (fun s c =>
    let s := meetUpset s c.line 0 9 (slice / 48)
    dropLine (if c.dirty then putHbm s c.line (lineVal s c.line) else s) c.line) s
  { s with mem := { s.mem with rowOut := sadd s.mem.rowOut (65536 * slice + row) } }
/-- A parity error of a row: the second within one start records it for retirement; a cache row leaves use at once. -/
def rowError (s : State) (slice row line : Nat) : State :=
  let k := 65536 * slice + row
  let n := tget s.mem.rowErr 0 k + 1
  let s := { s with mem := { s.mem with rowErr := tset s.mem.rowErr k n } }
  if n != 2 then s
  else
    let s := gsEvent { s with mem := { s.mem with rowRec := addEnd s.mem.rowRec k } } 0x115 0 line 9 (slice / 48)
    if inPlot line then s else dropRow s slice row
/-- A line is about to be read: its upset bytes are found, and the error counts for their row. -/
def parity (s : State) (line whole kind idx : Nat) : State :=
  if upsetAt s line = 0 then s
  else
    let slice := servedAt s line
    let row := rowAt s line
    let t := meetUpset s line whole kind idx
    if upsetAt s line ||| whole = whole then t else rowError t slice row line

/-- Ways of a slice that its set may use at all: not Plot ways, not retired, their row not out (R193, R194, R226). -/
def goodWays (s : State) (slice set : Nat) : List Nat :=
  (List.range 16).filter (fun w => plotWays s (slice / 48) ≤ w && !s.mem.wayOut.contains (16 * slice + w) &&
    !s.mem.rowOut.contains (65536 * slice + (w * 3072 + set / 8)))
/-- The column of a slice is retired: it caches nothing (R237). -/
def sliceCut (s : State) (slice : Nat) : Bool := s.fab.cut.contains (8 * (slice / 48) + slice % 48 / 6)
/-- Highest cache ways of each remaining slice that hold relief lines: ceil(n / 7) with one column retired (R238). -/
def reliefWays (s : State) (t : Nat) : Nat := (reliefCols s t).length * cdiv (6 * plotWays s t) (slicesLeft s t).length
/-- Cache ways of a slice's set that are in use. -/
def waysOf (s : State) (slice set : Nat) : List Nat :=
  if sliceCut s slice then []
  else let g := goodWays s slice set; g.take (g.length - reliefWays s (slice / 48))
def lineIn (s : State) (slice set way : Nat) : Option CLine :=
  s.mem.lines.find? (fun c => c.slice == slice && c.set == set && c.way == way)
/-- Eligible as a victim: no pending reductions on its line (R207, R221). -/
def eligible (s : State) (slice set way : Nat) : Bool :=
  match lineIn s slice set way with
  | some c => !pendingRed s c.line
  | none => true
/-- R207: the reference bit of a line is set; when every eligible way's would then be set, the others clear. -/
def touch (s : State) (line : Nat) : State :=
  match resident s line with
  | none => s
  | some c =>
    let lines := s.mem.lines.map (fun d => if d.line == line then { d with ref := true } else d)
    let s' := { s with mem := { s.mem with lines := lines } }
    let el := (waysOf s c.slice c.set).filter (eligible s c.slice c.set)
    if el.all (fun w => (lineIn s' c.slice c.set w).elim false (·.ref)) then
      { s with mem := { s.mem with lines := lines.map (fun d =>
          if d.slice == c.slice && d.set == c.set && d.line != line then { d with ref := false } else d) } }
    else s'
/-- A dirty line is read, written back (R208) and made clean. -/
def writeBack (s : State) (line : Nat) : State :=
  match resident s line with
  | some c =>
    if c.dirty then
      let s := parity s line 0 9 (c.slice / 48)
      if (resident s line).isSome then cleanLine (putHbm s line (lineVal s line)) line else s
    else s
  | none => s
/-- The victim way of R207. -/
def victim (s : State) (slice set : Nat) : Option Nat :=
  let ws := waysOf s slice set
  match ws.find? (fun w => (lineIn s slice set w).isNone) with
  | some w => some w
  | none =>
    let el := ws.filter (eligible s slice set)
    match el.find? (fun w => (lineIn s slice set w).elim true (fun c => !c.ref)) with
    | some w => some w
    | none => el.head?
/-- A line installed clean; with no eligible way it is not, and its requests are performed on HBM3E (R207). -/
def install (s : State) (line : Nat) (v : LV) (ref : Bool) : State :=
  let slice := sliceAt line
  let set := setAt line
  match victim s slice set with
  | none => s
  | some w =>
    let s := match lineIn s slice set w with
      | some c => dropLine (writeBack s c.line) c.line
      | none => s
    let s := { s with mem := { s.mem with lines := s.mem.lines ++
      [{ slice, set, way := w, line, data := v.data, dirty := false, pois := v.pois, ref := false }] } }
    if ref then touch s line else s

/-! Answers to a core (R203, R204, R486). -/
def outstOf (c : Core) (id : Nat) : Option Outst := c.outst.find? (fun o => o.id == id)
/-- Units of R275 at the present tick: 16 CCLK are 64/6 ns, one tick 10 ns. -/
def units (t : Nat) : Nat := t * 15 / 16
def tgtOf (s : State) (p cls : Nat) : Nat :=
  if p ≥ 8 then (if cls = 0 then 16 else if cls = 1 then 64 else if cls = 2 then 512 else 2047)
  else
    let w := cfgW s (0x40000 + 0x1000 * p + 0x10 + 4 * (cls / 2)) 0 (if cls < 2 then 0x00400010 else 0x07FF0200)
    bits w (16 * (cls % 2)) 11
def portKey (kind port cls : Nat) : Nat := 4096 * kind + 4 * port + cls
/-- A response returns to its master port: the counters of R277, with the request's LATE bit. -/
def latNote (s : State) (key lat : Nat) (late : Bool) : State :=
  { s with fab := { s.fab with lat := tupd s.fab.lat {} key (fun l =>
      { n := sat 64 (l.n + 1), sum := sat 64 (l.sum + lat), max := Nat.max l.max lat, late := sat 64 (l.late + b2n late) }) } }
/-! Token buckets (R278, R279). -/
/-- The partition of a bucket's port: cores by Tent, the host's by partition, Span ports as assigned, Chain engines by Tent. -/
def keyPart (s : State) (key : Nat) : Nat :=
  let kind := key / 4096
  let port := key % 4096 / 4
  if kind < 3 then partOfTent s (port / 64) else if kind = 3 then port else if kind = 4 then portPart s port else partOfTent s port
/-- Tokens after the refill, in 1/64 byte: RATE a nanosecond up to the depth. -/
def refill (b : Bucket) (cfg now : Nat) : Nat := Nat.min (b.tok + bits cfg 0 16 * 10 * (now - b.at_)) (8192 * bits cfg 16 16)
/-- What a bucket holds, as a request to a slice. -/
def heldReq : Held → Option MemReq
  | .mem r => some r
  | .host _ => none
/-- A full bucket that holds nothing. -/
def fullBucket (s : State) (key : Nat) : Bucket :=
  { tok := 8192 * bits (bktCfg s (keyPart s key) (key / 4096) (key % 4)) 16 16, at_ := s.tick }
/-- A port's bucket, full until it is first used. -/
def bucketAt (s : State) (key : Nat) : Bucket := tget s.fab.bkt (fullBucket s key) key
/-- The bucket limits its class: RATE is not 0. -/
def hasLimit (s : State) (key : Nat) : Bool :=
  keyPart s key < 8 && key / 4096 < 6 && bits (bktCfg s (keyPart s key) (key / 4096) (key % 4)) 0 16 != 0
def up64 (n : Nat) : Nat := cdiv n 64 * 64
/-- Bytes of requests leave a bucket. What it lacked its requests waited for within their command (log entry 68). -/
def charge (s : State) (key n : Nat) : State :=
  if !hasLimit s key then s
  else
    let b := bucketAt s key
    let tok := refill b (bktCfg s (keyPart s key) (key / 4096) (key % 4)) s.tick
    { s with fab := { s.fab with bkt := tset s.fab.bkt key { b with tok := tok - 64 * up64 n, at_ := s.tick } } }
/-- An engine's access of `n` bytes whose way the model does not follow: it takes its tokens, and is counted with a free
latency, of which a free part passed before it arrived (log entry 30). -/
def latFree (s : State) (kind port cls n : Nat) : State :=
  let key := portKey kind port cls
  let d := draw (charge s key n)
  let e := draw d.2
  latNote e.2 key (d.1.toNat + e.1.toNat) (d.1.toNat ≥ tgtOf s (keyPart s key) cls)
def arrive (s : State) (id : Nat) : State :=
  match tfind s.fab.inflight id with
  | none => s
  | some (key, t, late) =>
    latNote { s with fab := { s.fab with inflight := tdel s.fab.inflight id } } key (units s.tick - t) late

/-- A response from host memory returns: how much of its time the request needed to reach the host link is free (log entry 30). -/
def arriveHost (s : State) (id : Nat) : State :=
  match tfind s.fab.inflight id with
  | none => s
  | some (key, t, _) =>
    let d := draw s
    let late := d.1.toNat % (units s.tick - t + 1) ≥ tgtOf s (keyPart s key) (key % 4)
    arrive { d.2 with fab := { d.2.fab with inflight := tset d.2.fab.inflight id (key, t, late) } } id

/-! Arbitration at a slice's input (R273 to R276). -/
/-- Slack: DEADLINE − now, modulo 4,096 as a signed 12-bit value. -/
def slack (s : State) (r : MemReq) : Int := toS 12 (r.deadline + 4096 - units s.tick % 4096)
/-- The LATE bit: set once an arbiter, which looks at every cycle, has found no slack. -/
def isLate (s : State) (r : MemReq) : Bool :=
  match tfind s.fab.inflight r.id with
  | some (_, t, late) => late || t + tgtOf s r.part r.cls ≤ units s.tick
  | none => false
def markLate (s : State) (r : MemReq) : State :=
  if isLate s r then { s with fab := { s.fab with inflight := tupd s.fab.inflight (0, 0, false) r.id (fun e => (e.1, e.2.1, true)) } }
  else s
def urgency (s : State) (r : MemReq) : Nat :=
  let t : Int := tgtOf s r.part r.cls
  let u := if isLate s r then 3 else if 2 * slack s r > t then 0 else if 4 * slack s r > t then 1 else 2
  if r.cls = 3 then Nat.min u 1 else u
/-- Base priority and urgency. -/
def priority (s : State) (r : MemReq) : Nat := ([8, 5, 2, 0] : List Nat).getD r.cls 0 + urgency s r
/-- The place of a source among an arbiter's inputs: cores by index, then the range operations. -/
def srcOrder (r : MemReq) : Nat := match r.src with
  | .core i => i
  | .prefetch _ => 512
/-- Stamps of the moment a request leaves its port: the deadline (R275) and, towards another Tent's Plot ways, their role
epoch (R282). -/
def stamp (s : State) (r : MemReq) : MemReq :=
  let away : Bool := match r.src with
    | .core i => inPlot r.line && plotTent r.line != i / 64
    | .prefetch _ => false
  { r with deadline := (units s.tick + tgtOf s r.part r.cls) % 4096
           epoch := if away then some (epochOf s (576 + plotTent r.line)) else none }
/-- A request leaves its port for its slice. -/
def depart (s : State) (key : Nat) (r : MemReq) : State :=
  { s with mem := { s.mem with reqs := s.mem.reqs ++ [stamp s r] }
           fab := { s.fab with inflight := tset s.fab.inflight r.id (key, units s.tick, false) } }
/-- A core's L1 takes bytes of a line (R56); a full L1 gives up a line of the free choice of `Config.l1Victim`,
written back first. The write-back joins the slice's queue. -/
def l1Find (c : Core) (line : Nat) : Option L1Line := c.l1.find? (fun l => l.addr == line)
def l1Merge (l : L1Line) (bs : List (Nat × Byte)) (dirty : Bool) (pois : Nat) : L1Line :=
  let bs := if dirty then bs else bs.filter (fun b => !l.dirty.contains b.1)
  let offs := bs.map (·.1)
  { l with
    bytes := (bs.foldl (fun t b => tset t b.1 b.2) l.bytes)
    dirty := if dirty then offs.foldl sadd l.dirty else l.dirty
    pois := if dirty then markWrite l.pois offs pois else l.pois ||| pois }
/-- A request at its port: it departs, or waits for its bucket (R279). -/
def send (s : State) (src : Src') (cls line : Nat) (act : MemDo) (part : Nat) : State :=
  let id := s.mem.nextReq
  let r : MemReq := { id, src, cls, line, act, part }
  let s := { s with mem := { s.mem with nextReq := id + 1 } }
  let core := match src with
    | .core i => i
    | .prefetch _ => 0
  let key := portKey 0 core cls
  if hasLimit s key then
    let b := bucketAt s key
    { s with fab := { s.fab with bkt := tset s.fab.bkt key { b with held := b.held ++ [.mem r] } } }
  else depart s key r
def sendOut (s : State) (core : Nat) (o : Outst) (cls line : Nat) (act : MemDo) (part : Nat) : State :=
  let o := { o with id := s.mem.nextReq }
  let c := coreOf s core
  send (setCore s core { c with outst := c.outst ++ [o] }) (.core core) cls line act part
/-- Writes a core's dirty L1 bytes of one line towards its slice. -/
def l1WriteBack (s : State) (core slot : Nat) (l : L1Line) (part cls : Nat) : State :=
  if l.dirty.isEmpty then s
  else
    let bs := l.dirty.filterMap (fun o => (tfind l.bytes o).map (fun b => (o, b)))
    sendOut s core { id := 0, slot, launch := 0, lanes := [], width := 0, dst := 256, kind := 1 } cls l.addr
      (.write bs l.pois) part
def l1Put (s : State) (core slot line : Nat) (bs : List (Nat × Byte)) (dirty : Bool) (pois part cls : Nat) : State :=
  let c := coreOf s core
  match l1Find c line with
  | some l => setCore s core { c with l1 := c.l1.map (fun m => if m.addr == line then l1Merge l bs dirty pois else m) }
  | none =>
    let new := l1Merge { addr := line, bytes := [], dirty := [] } bs dirty pois
    if c.l1.length * 128 < l1Bytes c.split then setCore s core { c with l1 := c.l1 ++ [new] }
    else
      let k := Config.l1Victim s.free % c.l1.length
      let s := { s with free := s.free + 1 }
      match c.l1[k]? with
      | none => s
      | some v =>
        let s := setCore s core { c with l1 := c.l1.eraseIdx k ++ [new] }
        l1WriteBack s core slot v part cls
def partOfCore (s : State) (core : Nat) : Nat := partOfTent s (core / 64)
/-- Bytes of a lane's result into its registers: below 4 bytes zero-extended (log entry 25), above in successive
registers; each takes the mark of the half it was read from (R486). -/
def deliver (g : Grp) (lane dst width : Nat) (b : Bytes) (p : Bool) : Grp :=
  let n := cdiv width 4
  (List.range n).foldl (fun g i =>
    let g := putLane g lane (dst + i) (BitVec.ofNat 32 (fld b (4 * i) (Nat.min 4 width))) p
    { g with busy := sdel g.busy (256 * lane + dst + i) }) g
/-- An atomic or reduction was performed on the old line `v`: the core's clean copy of the line goes, and the spin count
clears where memory changed, else it runs (R71). DESIGN CHOICE: of an atomic's lanes the one answered last decides (log entry 78). -/
def afterAtom (s : State) (core slot : Nat) (r : MemReq) (v : LV) : State :=
  let c := coreOf s core
  let s := setCore s core { c with l1 := c.l1.filterMap (fun l =>
    if l.addr != r.line then some l
    else if l.dirty.isEmpty then none else some { l with bytes := l.bytes.filter (fun b => l.dirty.contains b.1) }) }
  updGrp s core slot (fun g => { g with spin := (applyDo r.act v).data == v.data })
/-- A core's request has been answered with the line as it was read, or with a bus error (trap BUS). -/
def answer (s : State) (r : MemReq) (v : Option LV) (whole : Bool) : State :=
  let s := arrive s r.id
  match r.src with
  | .prefetch _ => s
  | .core core =>
    match outstOf (coreOf s core) r.id with
    | none => s
    | some o =>
      let c := coreOf s core
      let s := setCore s core { c with outst := c.outst.filter (fun x => x.id != r.id) }
      match v with
      | none =>
        let s := updGrp s core o.slot (fun g => { g with busy := o.lanes.foldl (fun b x =>
          (List.range (cdiv o.width 4)).foldl (fun b i => sdel b (256 * x.1 + o.dst + i)) b) g.busy })
        raise s core o.slot 6
      | some v =>
        let s := if o.kind ≥ 2 then afterAtom s core o.slot r v else s
        if o.kind == 1 || o.kind == 3 then s
        else
          let s := updGrp s core o.slot (fun g => o.lanes.foldl (fun g x =>
            let off := x.2 - r.line
            deliver g x.1 o.dst o.width (slice v.data off o.width) (bit v.pois (off / 64))) g)
          if o.kind == 0 then
            let offs := if whole then List.range 128 else
              distinct (o.lanes.flatMap (fun x => (List.range o.width).map (· + (x.2 - r.line))))
            let p := offs.foldl (fun a i => a ||| (v.pois &&& 2 ^ (i / 64))) 0
            l1Put s core o.slot r.line (offs.map (fun i => (i, v.data.getD i 0))) false p (partOfCore s core) r.cls
          else s
/-- A read is refused in BUS_ERROR mode when a half it asks for is marked (R484). -/
def readRefused (s : State) (r : MemReq) (v : LV) : Bool :=
  busAt s r.line && match r.src with
    | .core core => ((outstOf (coreOf s core) r.id).elim [] (·.lanes)).any (fun x => bit v.pois ((x.2 - r.line) / 64))
    | .prefetch _ => false
def srcIdx (r : MemReq) : Nat := match r.src with
  | .core i => i
  | .prefetch _ => 0
/-- The halves that a request rewrites whole. -/
def wholeHalves : MemDo → Nat
  | .write bs _ => (List.range 2).foldl (fun a h => if (bs.filter (fun b => b.1 / 64 == h)).length = 64 then a + 2 ^ h else a) 0
  | _ => 0
/-- A request performed at its slice on the line's present value, and answered. -/
def perform (s : State) (r : MemReq) (whole : Bool := false) : State :=
  let s := parity s r.line (wholeHalves r.act) 0 (srcIdx r)
  let v := lineVal s r.line
  match r.act with
  | .read => answer (touch s r.line) r (if readRefused s r v then none else some v) whole
  | a =>
    if busAt s r.line && meetsPoison a v then answer (touch s r.line) r none false
    else answer (touch (putLine s r.line (applyDo a v)) r.line) r (some v) false

/-! Dead ranges (R213 to R216). -/
def deadAt (s : State) (line : Nat) : Option Dead :=
  s.mem.dead.find? (fun d => d.first ≤ line && line ≤ d.last && !d.lost.contains (sliceAt line))
/-- EV_DEADREAD: posted for the first refused or poisoned access of each slice, later ones counted. -/
def deadEvent (s : State) (d : Dead) (line kind idx : Nat) : State :=
  if d.posted.contains (sliceAt line) then countEv s 0x114 (ownerAt s line)
  else
    let s := { s with mem := { s.mem with dead := s.mem.dead.map (fun e =>
      if e == d then { e with posted := sadd e.posted (sliceAt line) } else e) } }
    gsEvent s 0x114 1 line kind idx
/-- A core's request in a dead range (R214). -/
def deadReq (s : State) (r : MemReq) (d : Dead) : State :=
  let s := deadEvent s d r.line 0 (srcIdx r)
  match r.act with
  | .read => answer s r (if busAt s r.line then none else some ⟨zeros 128, 3⟩) false
  | _ => answer s r none false

/-! Misses and fills. -/
/-- A waiter of a fill that no way takes: the fill's value passes through the list, and what is written to it goes on to
HBM3E (R207). -/
def passBy (r : MemReq) (whole : Bool) (a : State × LV × Bool) : State × LV × Bool :=
  let s := a.1
  let v := a.2.1
  match r.act with
  | .read => (answer s r (if readRefused s r v then none else some v) whole, v, a.2.2)
  | d =>
    if busAt s r.line && meetsPoison d v then (answer s r none false, v, a.2.2)
    else (answer s r (some v) false, applyDo d v, true)
/-- A fill's value comes in: the line is installed and its waiters performed in list order (R202), or they pass it by (R207).
In multicast mode the reads before the first other request take the whole line (R204). -/
def fillDone (s : State) (m : Miss) (v : LV) : State :=
  let s := { s with mem := { s.mem with miss := s.mem.miss.filter (fun x => x.line != m.line) } }
  let s := install s m.line v m.ref
  let lead := (m.waiters.takeWhile (fun r => r.act == .read)).length
  let ws := m.waiters.zipIdx
  if (resident s m.line).isSome then ws.foldl (fun s x => perform s x.1 (m.multicast && x.2 < lead)) s
  else
    let p := ws.foldl (fun a x => passBy x.1 (m.multicast && x.2 < lead) a) (s, v, false)
    if p.2.2 then putHbm p.1 m.line p.2.1 else p.1
/-- A fill arrives with what its two sectors show. In BUS_ERROR mode a sector newly uncorrectable answers every waiter with a
bus error and installs nothing (R249). -/
def fillWith (s : State) (m : Miss) (lo hi : Sector) : State :=
  let v := hbmRead s m.line lo hi
  let bad := busAt s m.line && freshLine s m.line lo hi
  let s := readSectors s m.line lo hi 0 ((m.waiters.head?.map srcIdx).getD 0)
  if bad then
    m.waiters.foldl (fun s r => answer s r none false)
      { s with mem := { s.mem with miss := s.mem.miss.filter (fun x => x.line != m.line) } }
  else fillDone s m v
/-- A line fetched for an access that waits for it: installed but where R249 lets nothing be installed. -/
def fetchLine (s : State) (line kind idx : Nat) : State :=
  let v := hbmLine s line
  let bad := busAt s line && freshLine s line {} {}
  let s := readSectors s line {} {} kind idx
  if bad then s else install s line v true
/-- Reductions queued on a line are performed, oldest first (R221). -/
def drainRed (s : State) (line : Nat) : State :=
  let q := s.mem.redq.filter (fun r => r.line == line)
  let s := { s with mem := { s.mem with redq := s.mem.redq.filter (fun r => r.line != line) } }
  q.foldl (fun s r => perform s r) s
/-- The sectors of a line that a reduction concerns. -/
def redHalves : MemDo → List Nat
  | .red _ _ xs _ => (List.range 2).filter (fun h => xs.any (fun e => e.1 / 64 == h))
  | _ => []
/-- A forwarded reduction at its controller (R222, R253): each sector concerned is read, decoded and decrypted, the operation
applied, and the sector encrypted, encoded and written back. A bad sector is written back poisoned, or in BUS_ERROR mode left
as it was. -/
def sideOne (s : State) (r : MemReq) (lo hi : Sector) : State :=
  let hs := redHalves r.act
  let v := hbmRead s r.line lo hi
  let s := hs.foldl (fun s h => readSector s (r.line + 64 * h) (if h = 0 then lo else hi) 8 (chanAt r.line / 48)) s
  if busAt s r.line && (meetsPoison r.act v || hs.any (fun h => bit v.pois h)) then answer s r none false
  else
    let w := applyDo r.act v
    let s := hs.foldl (fun s h => putSector s (r.line + 64 * h) (slice w.data (64 * h) 64) (bit w.pois h)) s
    answer s r (some v) false
/-- Why a request is turned away at its destination: it names no line in service, an edge of its way or of its response's is
down (R270), or, checked again there, its Plot belongs to another partition (R200, R267), or its role epoch is past (R282). -/
inductive Away where
  | bus | foreign | stale
  deriving DecidableEq, Repr
def away (s : State) (r : MemReq) : Option Away :=
  let home := tentAt r.line
  let place := match r.src with
    | .core c => c / 64
    | .prefetch _ => home
  if !backed s r.line || routeDown s place home || routeDown s home place then some .bus
  else if inPlot r.line && ownerAt s r.line != r.part then some .foreign
  else if r.epoch.elim false (fun e => e != epochOf s (576 + home)) then some .stale
  else none
/-- EV_GS_FOREIGN: an access that translates into another partition's Plot window (R200). -/
def foreignEvent (s : State) (part a kind idx : Nat) : State :=
  detect s 0x117 2 part (servedAt s a) (lineOf a) (whoDetail s kind idx a)
def turnAway (s : State) (r : MemReq) (w : Away) : State :=
  match w with
  | .bus => answer s r none false
  | .foreign => answer (foreignEvent s r.part r.line 0 (srcIdx r)) r none false
  | .stale => answer (staleReturn s (576 + plotTent r.line) r.part) r none false
/-- What waits on a line below the slice's input is performed: the miss, queued and forwarded reductions. -/
def settleLine (s : State) (line : Nat) : State :=
  let s := match s.mem.miss.find? (fun m => m.line == line) with
    | some m => fillWith s m {} {}
    | none => s
  let s := drainRed s line
  let q := s.mem.msa.filter (fun r => r.line == line)
  q.foldl (fun s r => sideOne s r {} {}) { s with mem := { s.mem with msa := s.mem.msa.filter (fun r => r.line != line) } }
/-- Performs one request outright, after what waits on its line. -/
def performNow (s : State) (r : MemReq) : State :=
  let s := markLate s r
  match away s r with
  | some w => turnAway s r w
  | none =>
    let s := settleLine s r.line
    if inPlot r.line || (resident s r.line).isSome then perform s r
    else match deadAt s r.line with
      | some d => deadReq s r d
      | none =>
        let s := fetchLine s r.line 0 (srcIdx r)
        perform s r
/-- The requests at a slice's input that are performed before an access to the line: those to it, and the older ones of their
source and class at the slice (R190, R272). -/
def dueGo (s : State) (line : Nat) : List MemReq → List MemReq
  | [] => []
  | r :: rest =>
    let later := dueGo s line rest
    if r.line == line || (servedAt s r.line == servedAt s line && later.any (fun x => x.src == r.src && x.cls == r.cls)) then
      r :: later
    else later
def dueBefore (s : State) (line : Nat) : List MemReq := dueGo s line s.mem.reqs
/-- Everything that waits on a line is performed, in order: the miss, queued and forwarded reductions, and the requests
at the slice's input with those they follow. An engine's access comes after it (R190). -/
def drainLine (s : State) (line : Nat) : State :=
  let q := dueBefore s line
  let s := settleLine s line
  let ids := q.map (·.id)
  q.foldl performNow { s with mem := { s.mem with reqs := s.mem.reqs.filter (fun r => !ids.contains r.id) } }
/-- The line's value with what has reached its slice, in order: waiters, queued and forwarded reductions, and the requests at
the slice's input (R190, R202, R221, R222). -/
def coh (s : State) (line : Nat) : LV :=
  let w := (s.mem.miss.filter (fun m => m.line == line)).flatMap (·.waiters)
  let mine (l : List MemReq) : List MemReq := l.filter (fun r => r.line == line)
  (w ++ mine s.mem.redq ++ mine s.mem.msa ++ (mine s.mem.reqs).filter (fun r => (away s r).isNone)).foldl
    (fun v r => if busAt s line && meetsPoison r.act v then v else applyDo r.act v) (lineVal s line)
/-- The effect of an engine's read on the line's state: upset bytes are met, a dead range posts its event, a miss installs the
line. -/
def noteRead (s : State) (kind idx line : Nat) : State :=
  if inPlot line then (if plotBacked s line then parity s line 0 kind idx else s)
  else if !inHbm line || outOfService s line then s
  else if (resident s line).isSome then touch (parity s line 0 kind idx) line
  else match deadAt s line with
    | some d => deadEvent s d line kind idx
    | none =>
      if s.mem.miss.any (fun m => m.line == line) || s.mem.msa.any (fun r => r.line == line) then s else fetchLine s line kind idx

/-! Engine reads: pure, on the coherent value. -/
/-- A byte with its mark. -/
abbrev MByte := Byte × Bool
/-- The line as an engine reads it: none is a bus error for the whole line (R27, R214). -/
def peekLine (s : State) (line : Nat) : Option LV :=
  if !backed s line then none
  else if inHbm line && (resident s line).isNone && (deadAt s line).isSome then
    (if busAt s line then none else some ⟨zeros 128, 3⟩)
  else some (coh s line)
def linesIn (a n : Nat) : List Nat :=
  if n = 0 then [] else (List.range ((a + n - 1) / 128 - a / 128 + 1)).map (fun i => (a / 128 + i) * 128)
/-- Bytes at a physical address with their marks; none is a bus error (R27, R484). -/
def peek (s : State) (pa n : Nat) : Option (List MByte) :=
  (linesIn pa n).foldl (fun acc line => acc.bind (fun l =>
    match peekLine s line with
    | none => none
    | some v =>
      let lo := if line < pa then pa - line else 0
      let hi := Nat.min 128 (pa + n - line)
      let bs := (List.range (hi - lo)).map (fun i => (v.data.getD (lo + i) 0, bit v.pois ((lo + i) / 64)))
      if busAt s line && bs.any (·.2) then none else some (l ++ bs))) (some [])
/-- The same for a request from a place (R270). -/
def peekFrom (s : State) (place pa n : Nat) : Option (List MByte) := if cutOff s place (tentAt pa) then none else peek s pa n
def noteReads (s : State) (kind idx pa n : Nat) : State := (linesIn pa n).foldl (fun s l => noteRead s kind idx l) s
def bytesOf (l : List MByte) : Bytes := l.map (·.1)
def anyPois (l : List MByte) : Bool := l.any (·.2)

/-! Engine writes. -/
/-- One entry less the lines [first, last] (R215): shrunk, or split where each slice of the run has room, else retired whole. -/
def deadRoom (s : State) (slice : Nat) : Nat :=
  64 - (s.mem.dead.filter (fun d => !d.lost.contains slice && (linesIn d.first (Nat.min (d.last + 128 - d.first) 12288)).any (fun l => sliceAt l == slice))).length
def deadSlices (first last : Nat) : List Nat := distinct ((linesIn first (Nat.min (last + 128 - first) 12288)).map sliceAt)
/-- R215 and R216: the lines [first, last] leave every live entry; `ev` says an overflow posts EV_GS_DEAD_OVERFLOW. -/
def trimDead (s : State) (first last : Nat) (ev : Bool) : State :=
  (s.mem.dead.filter (fun d => d.first ≤ last && first ≤ d.last)).foldl (fun s d =>
    let others := s.mem.dead.filter (fun e => e != d)
    let left := if d.first < first then [{ d with last := first - 128 }] else []
    let right := if last < d.last then [{ d with first := last + 128 }] else []
    if left.isEmpty || right.isEmpty then { s with mem := { s.mem with dead := others ++ left ++ right } }
    else
      let s0 := { s with mem := { s.mem with dead := others } }
      let both := (deadSlices d.first (first - 128)).filter (fun sl => (deadSlices (last + 128) d.last).contains sl)
      match both.find? (fun sl => deadRoom s0 sl < 2) with
      | none => { s with mem := { s.mem with dead := others ++ left ++ right } }
      | some sl => if ev then detect s0 0x116 0 (ownerAt s first) sl first (whoDetail s 5 (tentAt first) first) else s0) s
/-- An engine's write of marked bytes within one line. `trim` is a Chain engine destination write, which trims a dead
entry; any other write in a dead range is not performed. Answers false where it is not performed: in BUS_ERROR mode, too, a
part of a line whose fetch finds a sector uncorrectable (R249). -/
def writeLine (s : State) (kind idx line : Nat) (bs : List (Nat × MByte)) (trim : Bool) : State × Bool :=
  if !backed s line || cutOff s (portPlace kind idx) (tentAt line) then (s, false)
  else
    let s := drainLine s line
    let act : MemDo := .write (bs.map (fun b => (b.1, b.2.1)))
      (bs.foldl (fun a b => if b.2.2 then a ||| 2 ^ (b.1 / 64) else a) 0)
    let go (s : State) : State :=
      let s := if inPlot line || (resident s line).isSome then parity s line (wholeHalves act) kind idx else fetchLine s line kind idx
      touch (putLine s line (applyDo act (lineVal s line))) line
    if inHbm line && (resident s line).isNone then
      match deadAt s line with
      | some d => if trim then (go (trimDead s line line true), true) else (deadEvent s d line kind idx, false)
      | none =>
        if busAt s line && freshLine s line {} {} && wholeHalves act != 3 then (readSectors s line {} {} kind idx, false)
        else (go s, true)
    else (go s, true)
/-- Bytes written at a physical address; answers false if any line was not performed. -/
def writeMem (s : State) (kind idx pa : Nat) (bs : List MByte) (trim : Bool := false) : State × Bool :=
  (linesIn pa bs.length).foldl (fun acc line =>
    let part := (List.range 128).filterMap (fun o =>
      if pa ≤ line + o && line + o < pa + bs.length then (bs[line + o - pa]?).map (fun b => (o, b)) else none)
    let r := writeLine acc.1 kind idx line part trim
    (r.1, acc.2 && r.2)) (s, true)
def plainBytes (b : Bytes) : List MByte := b.map (fun x => (x, false))
/-- Clean bytes written by a unit of the device. -/
def writeClean (s : State) (kind idx pa : Nat) (b : Bytes) : State × Bool := writeMem s kind idx pa (plainBytes b)

/-! Translation (R336 to R339). -/
inductive Xl where
  | pa (a : Nat)
  | host (a : Nat)
  | regs (off : Nat)
  /-- The Plot window of a Tent outside the partition (R200). -/
  | foreign (a : Nat)
  | fault
  deriving DecidableEq, Repr

/-- One 8-byte entry: none where a table line faults (R339). -/
def readEntry (s : State) (p pa : Nat) : Option Nat :=
  if !ownHbm s p pa || inReserve s p pa 8 || outOfService s pa then none
  else if (resident s (lineOf pa)).isNone && (deadAt s (lineOf pa)).isSome then none
  else
    let v := coh s (lineOf pa)
    if v.pois != 0 then none else some (fld v.data (pa % 128) 8)
/-- Bits that must be zero: [7:4], [63:60], and HOST in a pointer. -/
def entryBad (e : Nat) (leaf : Bool) : Bool := bits e 4 4 != 0 || bits e 60 4 != 0 || (!leaf && bit e 3)
def entryAddr (e : Nat) : Nat := bits e 8 52 * 256
/-- A leaf found: its page size in log2 (30, 21, 16), or the fault; `w` whether every entry above permits writes. -/
inductive Leaf where
  | leaf (e lg : Nat) (w : Bool)
  | fault
  deriving DecidableEq, Repr
/-- A table of `n` bytes lies in the partition's own HBM3E regions outside its code reserve. -/
def tableOk (s : State) (p a n : Nat) : Bool := ownHbm s p a && ownHbm s p (a + n - 1) && !inReserve s p a n
def walk2 (s : State) (p tbl va : Nat) (w : Bool) : Leaf :=
  match readEntry s p (tbl + 8 * bits va 16 5) with
  | none => .fault
  | some e => if !bit e 0 || !bit e 1 || entryBad e true then .fault else .leaf e 16 (w && bit e 2)
def walk1 (s : State) (p tbl va : Nat) (w : Bool) : Leaf :=
  match readEntry s p (tbl + 8 * bits va 21 9) with
  | none => .fault
  | some e =>
    if !bit e 0 then .fault
    else if bit e 1 then (if entryBad e true then .fault else .leaf e 21 (w && bit e 2))
    else if entryBad e false || !tableOk s p (entryAddr e) 256 then .fault
    else walk2 s p (entryAddr e) va (w && bit e 2)
def walk0 (s : State) (p root va : Nat) : Leaf :=
  match readEntry s p (root + 8 * bits va 30 18) with
  | none => .fault
  | some e =>
    if !bit e 0 then .fault
    else if bit e 1 then (if entryBad e true then .fault else .leaf e 30 (bit e 2))
    else if entryBad e false || entryAddr e % 4096 != 0 || !tableOk s p (entryAddr e) 4096 then .fault
    else walk1 s p (entryAddr e) va (bit e 2)
/-- The context is valid, the address below its limit, and its level-0 table of LIMIT entries lies where R337 and R339 let
a table lie. -/
def ctxOk (s : State) (ctx va : Nat) : Bool :=
  bit (ctxCfg s ctx) 31 && va < 2 ^ 48 && va / 2 ^ 30 < bits (ctxCfg s ctx) 0 19 &&
  tableOk s (ctxKeyPart s ctx) (ctxRoot s ctx) (8 * bits (ctxCfg s ctx) 0 19)
/-- Translation of one address. -/
def translate (s : State) (ctx va : Nat) (write : Bool) : Xl :=
  let p := ctxKeyPart s ctx
  if !ctxOk s ctx va then .fault
  else match walk0 s p (ctxRoot s ctx) va with
    | .fault => .fault
    | .leaf e lg w =>
      let base := entryAddr e
      if (write && !w) || base % 2 ^ lg != 0 then .fault
      else if bit e 3 then .host (base + va % 2 ^ lg)
      else if base ≥ 2 ^ 44 then .fault
      else
        let a := base + va % 2 ^ lg
        if inRegs base && inRegs a then (if bit (ctxCfg s ctx) 30 then .regs (a - 0xF0000000000) else .fault)
        else if inPlot base then (if ownPlot s p base then .pa a else .foreign a)
        else if !ownHbm s p base || !ownHbm s p (base + 2 ^ lg - 1) || inReserve s p base (2 ^ lg) then .fault
        else .pa a

/-- An access to virtual memory: bytes, a translation fault, a bus error, or a leaf elsewhere. -/
inductive VRes where
  | ok (b : List MByte)
  | fault
  | bus
  deriving DecidableEq, Repr
/-- Pieces of a virtual range that lie within one line: address and length. -/
def pieces (va n : Nat) : List (Nat × Nat) := cutAt 128 va n
/-- A range cut at 64 KiB boundaries, which every page size keeps: address and length. -/
def rngPages (a n : Nat) : List (Nat × Nat) := cutAt 65536 a n
/-- Bytes at a virtual address as an engine of the core reads them. A host or register leaf is a bus error, since these
units reach neither (log entry 28); `place` is where the unit sits. -/
def vpeek (s : State) (ctx va n place : Nat) : VRes :=
  (pieces va n).foldl (fun acc x =>
    match acc with
    | .ok l =>
      match translate s ctx x.1 false with
      | .pa a => match peekFrom s place a x.2 with
        | some b => .ok (l ++ b)
        | none => .bus
      | .fault => .fault
      | .host _ | .regs _ | .foreign _ => .bus
    | r => r) (.ok [])
/-- The table lines that a walk reads. -/
def walkLines (s : State) (ctx va : Nat) : List Nat :=
  let p := ctxKeyPart s ctx
  if !ctxOk s ctx va then []
  else
    let a0 := ctxRoot s ctx + 8 * bits va 30 18
    let next (e size : Nat) : Bool := bit e 0 && !bit e 1 && !entryBad e false && tableOk s p (entryAddr e) size
    lineOf a0 :: match readEntry s p a0 with
      | none => []
      | some e =>
        if !next e 4096 then []
        else
          let a1 := entryAddr e + 8 * bits va 21 9
          lineOf a1 :: match readEntry s p a1 with
            | none => []
            | some e => if next e 256 then [lineOf (entryAddr e + 8 * bits va 16 5)] else []
/-- A walk's reads noted: a table line in a dead range posts its event (R214, R339). -/
def noteWalk (s : State) (ctx va kind idx : Nat) : State :=
  (walkLines s ctx va).foldl (fun s l =>
    if (resident s l).isSome || outOfService s l then s
    else match deadAt s l with
      | some d => deadEvent s d l kind idx
      | none => s) s
/-- The reads of a virtual range noted at their slices, foreign pages posting their event. -/
def vnote (s : State) (ctx va n kind idx : Nat) : State :=
  (pieces va n).foldl (fun s x =>
    let s := noteWalk s ctx x.1 kind idx
    match translate s ctx x.1 false with
    | .pa a => noteReads s kind idx a x.2
    | .foreign a => foreignEvent s (ctxKeyPart s ctx) a kind idx
    | _ => s) s
/-- Under ATS the host may return a translation without the permission: whether it does is free (R301; log entry 81). -/
def permit (s : State) (fn : Nat) : State × Bool :=
  if s.link.ats.contains fn then let d := draw s; (d.2, d.1.getLsbD 0) else (s, true)
/-- A device write of data to host memory (R306): poisoned data goes with EP and fails its operation with
POISON_CONSUMED, or in BUS_ERROR mode is not sent. -/
def hostData (s : State) (part addr : Nat) (bs : List MByte) : State × Nat :=
  let fn := fnOf s part
  let a := permit s fn
  let s := a.1
  if !a.2 then (s, 4)
  else if !anyPois bs then (hostWrite s fn addr (bytesOf bs) false s.link.relaxed, 0)
  else if busMode s part then (s, 6)
  else (detect (hostWrite s fn addr (bytesOf bs) true s.link.relaxed) 0x512 2 part fn 0
    (tlpLog 0 fn addr bs.length), 5)
/-- The outcome of a write to virtual memory: 0 performed, 4 translation fault, 5 poison sent to the host, 6 bus
error (as status codes). -/
def vwrite (s : State) (ctx va : Nat) (bs : List MByte) (kind idx : Nat) (trim : Bool := false) : State × Nat :=
  (pieces va bs.length).foldl (fun acc x =>
    if acc.2 == 4 || acc.2 == 6 then acc
    else
      let b := (bs.drop (x.1 - va)).take x.2
      let acc := (noteWalk acc.1 ctx x.1 kind idx, acc.2)
      match translate acc.1 ctx x.1 true with
      | .pa a =>
        let r := writeMem acc.1 kind idx a b trim
        (r.1, if r.2 then acc.2 else 6)
      | .host a =>
        if cutOff acc.1 8 (portPlace kind idx) then (acc.1, 6)
        else let r := hostData acc.1 (ctxKeyPart acc.1 ctx) a b; (r.1, if r.2 = 0 then acc.2 else r.2)
      | .foreign a => (foreignEvent acc.1 (ctxKeyPart acc.1 ctx) a kind idx, 6)
      | .regs _ => (acc.1, 6)
      | .fault => (acc.1, 4)) (s, 0)

end Sys2Proof.Machine
end

