-- ==== Sys2Proof/Machine/Control.lean ====
section
/-! DEFINITION. What several families share of the control plane: completions (R321 to R325), the end of a launch
(R87, R162, R163), the reset tree (R454, R455) and teardown (R394). -/
namespace Sys2Proof.Machine

def opOf (s : State) (id : Nat) : Option Op := s.rng.ops.find? (fun o => o.id == id)
def updOp (s : State) (id : Nat) (f : Op → Op) : State :=
  { s with rng := { s.rng with ops := s.rng.ops.map (fun o => if o.id == id then f o else o) } }
def dropOp (s : State) (id : Nat) : State := { s with rng := { s.rng with ops := s.rng.ops.filter (fun o => o.id != id) } }
def Op.code (o : Op) : Nat := fld o.desc 0 1
def Op.flags (o : Op) : Nat := fld o.desc 1 1
/-- A field of the payload. -/
def Op.f (o : Op) (off len : Nat) : Nat := fld o.desc off len
def opPart (s : State) (o : Op) : Nat := ringPart s o.ring
def opCtx (s : State) (o : Op) : Nat := ringCtx s o.ring
def opFn (s : State) (o : Op) : Nat := (ringOf s o.ring).owner
/-- The index its owner uses for a ring (R308, R162). -/
def ownIndex (s : State) (r : Nat) : Nat := if (ringOf s r).owner = 0 then r else r % 32

/-- Events that name a ring are written before the completion of the operation that caused them (R491): the queue
up to its last such event. -/
def flushFor (s : State) (r : Nat) : State :=
  let n := (s.evt.q.zipIdx.filter (fun e => e.1.ring == r)).foldl (fun a e => Nat.max a (e.2 + 1)) 0
  (s.evt.q.take n).foldl (fun t e => postEv t e true) { s with evt := { s.evt with q := s.evt.q.drop n } }
/-- A fetch or completion write that meets a fault stops the ring (R314). -/
def ringFault (s : State) (r addr : Nat) : State :=
  let g := ringOf s r
  let s := setRing s r { g with st := if g.st == 1 then 3 else g.st }
  detect s 0x520 2 (ringPart s r) r addr [] r
/-- The 32-byte record of R322. -/
def record (s : State) (o : Op) (refused : Bool) (phase : Bool) : Bytes :=
  slice o.desc 8 8 ++ le 2 o.slot ++ le 1 o.code ++ le 1 o.status ++ le 4 o.info ++ le 8 o.result ++
  le 4 (if refused then 0 else sat 32 (s.tick - o.tick)) ++ zeros 3 ++ le 1 (b2n phase)
/-- R321, R323: the record is written, the completion index advances with its phase, and the vector is signalled when
INTERRUPT is set or the status is not OK. NO_COMPLETION releases the slot of an OK operation without a record. -/
def writeCompletion (s : State) (o : Op) (refused : Bool) : State :=
  let s := flushFor s o.ring
  let g := ringOf s o.ring
  if g.st == 0 || (bit o.flags 1 && o.status == 0) then s
  else
    let size := ringSize s o.ring
    let a := cqBase s o.ring + 32 * g.cqTail
    let rec_ := record s o refused g.phase
    let t := (g.cqTail + 1) % size
    let g' := { g with cqTail := t, phase := if t = 0 then !g.phase else g.phase }
    let w := if bit (ringCfg s o.ring) 6 then vwrite s (ringCtx s o.ring) a (plainBytes rec_) 7 0
             else let h := permit s g.owner; if h.2 then (hostWrite h.1 g.owner a rec_ false, 0) else (h.1, 4)
    if w.2 != 0 then ringFault s o.ring a
    else
      let s := setRing w.1 o.ring g'
      if bit o.flags 2 || o.status != 0 then interrupt s g.owner (bits (ringCfg s o.ring) 24 6) else s
/-- An operation completes. -/
def finish (s : State) (id status : Nat) (info : Nat := 0) (result : Nat := 0) (refused : Bool := false) : State :=
  match opOf s id with
  | none => s
  | some o => dropOp (writeCompletion s { o with status, info, result } refused) id
/-- A refused operation has no other effect and DURATION 0 (R316, R322). -/
def refuse (s : State) (id status : Nat) : State := finish s id status 0 0 true

/-! The end of a launch. -/
/-- A Pole that has stepped into HALF or FENCED since the start in a core's cluster, or a column retired since then in the
partition (R239); an edge below its figures on the partition's ways (R271). -/
def launchDegraded (s : State) (l : Launch) : Bool :=
  s.fab.degraded.contains l.part || (List.range 14).any (fun e => edgeLow s e && crosses s l.part e) ||
  s.fab.stepped.any (fun p => l.cores.any (fun c => c / 8 == p / 128)) ||
  s.fab.cutNow.any (fun k => bit (partMask s l.part) (k / 8))
/-- The Scruple guard report (R162). -/
def reportBytes (l : Launch) (status ring : Nat) : Bytes :=
  let g := l.guard
  let fl := b2n g.ran + 2 * b2n g.clipTrig + 4 * b2n g.shadTrig + 8 * b2n g.saturated
  let ws := g.worst.getD (0, 0, 0)
  let ww := g.worstW.getD (0, 0, 0)
  le 4 l.seq ++ le 1 l.policy.mode ++ le 1 fl ++ le 1 status ++ le 1 0 ++ le 2 ring ++ le 2 g.c.nonfinite ++
  le 4 (g.ticks.getD 0xFFFFFFFF) ++ le 8 g.c.actElems ++ le 4 g.c.actClip ++ le 4 g.c.actFlush ++ le 4 g.c.othClip ++
  le 4 g.c.othFlush ++ le 2 g.c.shadow ++ le 2 g.c.shadowOver ++ le 4 ws.1.toNat ++ le 2 ws.2.1 ++ le 2 ww.2.1 ++
  le 4 ws.2.2 ++ le 4 ww.2.2 ++ le 4 g.c.weight
/-- EV_GUARD_ events carry SEQ, LAYER_TAG and TILE_TAG (R164, R490). -/
def guardDetail (l : Launch) (layer tile : Nat) : Bytes := le 4 l.seq ++ le 2 layer ++ le 2 0 ++ le 4 tile
/-- A report is written for a launch under COUNT or PROMOTE with slots supplied; a failing write drops it. -/
def writeReport (s : State) (l : Launch) (status ring : Nat) : State × Nat :=
  if l.policy.reports = 0 || l.policy.mode = 0 then (s, 0xFFFFFFFF)
  else
    let a := l.policy.va + 64 * (l.seq % l.policy.reports)
    let w := vwrite s l.policy.ctx a (plainBytes (reportBytes l status ring)) 6 0
    if w.2 = 0 then (w.1, l.seq) else (detect w.1 0x804 0 l.part 0xFFFFFFFF a (guardDetail l 0 0) (launchRing s l.op), 0xFFFFFFFF)
/-- RESULT of a LAUNCH completion (R322). -/
def launchResult (l : Launch) (seq : Nat) : Nat :=
  match l.trap with
  | some (_, code, core, slot) => seq + 2 ^ 32 * code + 2 ^ 40 * core + 2 ^ 49 * slot
  | none => seq
/-- Every dirty L1 line of a core is written back at its slice (R73, R87). -/
def flushL1 (s : State) (core : Nat) : State :=
  let s := (coreOf s core).l1.foldl (fun s l =>
    let bs := l.dirty.filterMap (fun o => (tfind l.bytes o).map (fun b => (o, (b, bit l.pois (o / 64)))))
    if bs.isEmpty then s else (writeLine s 0 core l.addr bs false).1) s
  let c := coreOf s core
  setCore s core { c with l1 := c.l1.map (fun l => { l with dirty := [] }) }
/-- Sets of a launch leave their cores; those of an ended launch hand their cores over (R281). -/
def dropSets (s : State) (op : Nat) (ended : Bool) : State :=
  { s with krn := { s.krn with cores := s.krn.cores.map (fun c =>
      (c.1, { c.2 with sets := c.2.sets.filter (fun t => t.launch != op), grps := c.2.grps.filter (fun g => g.2.launch != op)
                       handover := c.2.handover || (ended && c.2.sets.any (fun t => t.launch == op)) })) } }
/-- An UNLOAD_BUNDLE completes, and its space is freed, when the last launch of the bundle has ended (R83). -/
def bundleFreed (s : State) (h : Nat) : State :=
  match s.krn.bundles.find? (fun b => b.handle == h) with
  | some b =>
    match b.unload with
    | some op =>
      if s.krn.launches.any (fun l => l.bundle == h) then s
      else finish { s with krn := { s.krn with bundles := s.krn.bundles.filter (fun b => b.handle != h) } } op 0
    | none => s
  | none => s
/-- A launch completes: its writes are performed unless a reset drops them, its report written (R162), its completion written, its
bundle released. -/
def completeLaunch (s : State) (op : Nat) (flush : Bool) : State :=
  match launchOf s op with
  | none => s
  | some l =>
    let s := if flush then l.cores.foldl flushL1 s else s
    let st := if l.ended then l.status
      else if l.policy.mode == 2 && l.guard.ran then 0x0B else if launchDegraded s l then 0x0C else 0
    let r := writeReport s l st (((opOf s op).map (fun o => ownIndex s o.ring)).getD 0)
    let s := dropSets r.1 op l.ended
    let s := { s with krn := { s.krn with launches := s.krn.launches.filter (fun x => x.op != op) } }
    bundleFreed (finish s op st 0 (launchResult l r.2)) l.bundle
/-- A launch ends as a trapped launch does, with ABORTED_RESET (R89, R334, R454). -/
def abortLaunch (s : State) (op : Nat) : State :=
  updLaunch s op (fun l => if l.ended then l else { l with ended := true, status := 9 })

/-! Operations of a core's matrix queue (R102 to R104, R117, R135). -/
def isSet (op idx : Nat) (t : GSet) : Bool := t.launch == op && t.idx == idx
/-- The matrix queue or the combine queue holds work of a set (R135). -/
def setBusy (s : State) (core : Nat) (t : GSet) : Bool :=
  (coreOf s core).mq.any (fun m => isSet m.launch m.set t) ||
  s.krn.combq.any (fun q => q.2.any (fun m => m.core == core && isSet m.launch m.set t))
/-- Ended sets whose operations are over give up their local store. -/
def dropOver (s : State) (core : Nat) : State :=
  let c := coreOf s core
  setCore s core { c with sets := c.sets.filter (fun t => !t.gone || setBusy s core t) }
def sameOp (m n : MatOp) : Bool := m.launch == n.launch && m.set == n.set && m.slot == n.slot && m.tok == n.tok
def updMat (s : State) (core : Nat) (m : MatOp) (f : MatOp → MatOp) : State :=
  let c := coreOf s core
  setCore s core { c with mq := c.mq.map (fun x => if sameOp x m then f x else x) }
/-- The group that issued an operation, while it is resident. -/
def issuer (s : State) (core : Nat) (m : MatOp) : Option Grp :=
  (grpOf s core m.slot).filter (fun g => g.launch == m.launch && g.set == m.set)
def setTok (s : State) (core : Nat) (m : MatOp) (f : Tok → Tok) : State :=
  match issuer s core m with
  | some g => setGrp s core m.slot { g with toks := g.toks.map (fun k => if k.t == m.tok then f k else k) }
  | none => s
/-- Tokens of one core complete in queue order: those at the head whose work is over (stage 6). -/
def popDone : Nat → State → Nat → State
  | 0, s, _ => s
  | n + 1, s, core =>
    let c := coreOf s core
    match c.mq with
    | m :: rest =>
      if m.stage = 6 then
        popDone n (setTok (setCore s core { c with mq := rest }) core m (fun k => if k.failed = 0 then { k with done := true } else k)) core
      else s
    | [] => s
def matDone (s : State) (core : Nat) (m : MatOp) : State :=
  let s := updMat s core m (fun m => { m with stage := 6 })
  dropOver (popDone ((coreOf s core).mq.length + 1) s core) core
/-- The trap of a failed operation: its group takes it; where the group has ended, its launch ends (R89, R117). DESIGN CHOICE: with a
debugger attached and the group ended nothing halts (log entry 79). -/
def raiseOp (s : State) (core : Nat) (m : MatOp) (code : Nat) : State :=
  if (issuer s core m).elim false (·.live != 0) then raise s core m.slot code
  else match launchOf s m.launch with
    | some l => if attached s l.part then s
                else endLaunch s s.tick core m.slot code 0 false { launch := m.launch, set := m.set, idx := 0, pc := 0, live := 0, active := 0 }
    | none => s
def matFail (s : State) (core : Nat) (m : MatOp) (code : Nat) : State :=
  let s := setTok s core m (fun k => { k with failed := code })
  matDone (raiseOp s core m code) core m

/-! Sets: their barriers and their end (R61, R65 to R67). -/
def updSet (s : State) (core op idx : Nat) (f : GSet → GSet) : State :=
  let c := coreOf s core
  setCore s core { c with sets := c.sets.map (fun t => if isSet op idx t then f t else t) }
/-- Parked threads of a group at a barrier, or at a lock of its set. -/
def parkedAt (w : Why) (g : Grp) : List Park := g.parked.filter (fun p => p.why == w)
/-- A barrier completes when its arrivals reach the expected count: its threads resume and the count resets. -/
def barDone (core : Nat) (t : GSet) (s : State) (b : Nat) : State :=
  match tfind t.bars b with
  | none => s
  | some x =>
    let exp := if x.n = 0 then liveThreads s core t else x.n - x.exited
    if x.arrived < exp then s
    else t.slots.foldl (fun s sl => updGrp s core sl (fun g =>
        let ps := parkedAt (.barrier b) g
        if ps.isEmpty then g else release { g with spin := false } ps))
      (updSet s core t.launch t.idx (fun t => { t with bars := tdel t.bars b }))
/-- Owner of a lock word: slot and lane (R68). -/
def lockWord (slot lane : Nat) : Nat := 2 ^ 63 + 32 * slot + lane
def lsWord (s : State) (core a : Nat) : Nat := unle (lsRead core (coreOf s core) a 8)
def ownerOf (w : Nat) : Option (Nat × Nat) := if bit w 63 then some (bits w 5 5, bits w 0 5) else none
/-- A thread may still come to a barrier: it runs, is halted, or waits for a lock whose holder is not at the barrier. -/
def ableTo (s : State) (core : Nat) (t : GSet) (b : Nat) (g : Grp) (lane : Nat) : Bool :=
  g.halt.isSome || match g.parked.find? (fun p => p.lane == lane) with
    | none => true
    | some p => match p.why with
      | .barrier _ => false
      | .lock a => match ownerOf (lsWord s core (t.lsBase + a)) with
        | none => true
        | some (sl, ln) => !((grpOf s core sl).elim [] (parkedAt (.barrier b))).any (fun q => q.lane == ln)
/-- The earlier of two waiting threads: (since, slot, lane). -/
def before (x y : Nat × Nat × Nat) : Bool :=
  x.1 < y.1 || (x.1 == y.1 && (x.2.1 < y.2.1 || (x.2.1 == y.2.1 && x.2.2 < y.2.2)))
def earliest (l : List (Nat × Nat × Nat)) : Option (Nat × Nat × Nat) :=
  l.foldl (fun a x => match a with
    | none => some x
    | some y => if before x y then some x else some y) none
/-- Threads of a set parked for one reason. -/
def waiters (s : State) (core : Nat) (t : GSet) (w : Why) : List (Nat × Nat × Nat) :=
  (setGroups s core t).flatMap (fun x => (parkedAt w x.2).map (fun p => (p.since, x.1, p.lane)))
/-- BARRIER_DIVERGED: no thread that has not arrived is able to (R67). A group that a trap has halted keeps that trap. -/
def diverged (core : Nat) (t : GSet) (s : State) (b : Nat) : State :=
  match earliest (waiters s core t (.barrier b)) with
  | none => s
  | some (_, sl, _) =>
    let able := (setGroups s core t).any (fun x => (lanesOf x.2.live).any (fun ln =>
      !(parkedAt (.barrier b) x.2).any (fun p => p.lane == ln) && ableTo s core t b x.2 ln))
    let trapped := (grpOf s core sl).elim true (fun g => g.halt.elim false (fun c => decide (c < 0x10)))
    if able || trapped then s else raise s core sl 9
/-- A set all of whose groups have ended leaves the core; its local store stays while its operations run. What its groups
have outstanding is answered to none. -/
def endSet (s : State) (core : Nat) (t : GSet) : State :=
  if (setGroups s core t).any (fun x => x.2.live != 0) then s
  else
    let c := coreOf s core
    let c := { c with grps := c.grps.filter (fun g => !t.slots.contains g.1)
                      outst := c.outst.map (fun o => if t.slots.contains o.slot then { o with slot := 32 } else o) }
    if setBusy s core t then updSet (setCore s core c) core t.launch t.idx (fun t => { t with gone := true })
    else setCore s core { c with sets := c.sets.filter (fun x => !isSet t.launch t.idx x) }
/-- After any arrival, exit or change of a lock, and when a halted group goes on. -/
def settleSet (s : State) (core op idx : Nat) : State :=
  match (coreOf s core).sets.find? (isSet op idx) with
  | none => s
  | some t =>
    let s := (t.bars.map (·.1)).foldl (barDone core t) s
    let s := (t.bars.map (·.1)).foldl (diverged core t) s
    endSet s core t
/-- The set of a group that goes on settled. -/
def settleOf (s : State) (core slot : Nat) : State :=
  match setOf (coreOf s core) slot with
  | some t => settleSet s core t.launch t.idx
  | none => s

/-! The reset tree (R454). -/
/-- A core's state as a reset leaves it: nothing kept but its counters, which clear at each start. -/
def clearedCore (c : Core) : Core :=
  { split := c.split, frz := c.frz, brks := c.brks, faults := c.faults, extraTraps := c.extraTraps }
/-- Per-core reset: the epoch is incremented first, launches with sets on the core end with ABORTED_RESET, and nothing
in the core is kept. -/
def coreReset (s : State) (core : Nat) : State :=
  let s := bumpEpoch s core
  let s := (distinct ((coreOf s core).sets.map (·.launch))).foldl abortLaunch s
  setCore s core (clearedCore (coreOf s core))
/-- Per-cluster reset: every core, the queued combines with a trap BUS to their senders, and the cluster epoch. -/
def clusterReset (s : State) (k : Nat) : State :=
  let q := tget s.krn.combq [] k
  let s := (List.range 8).foldl (fun s c => coreReset s (8 * k + c)) s
  let s := { s with krn := { s.krn with combq := tdel s.krn.combq k } }
  let s := q.foldl (fun s c => (((coreOf s c.core).mq.filter (fun m => m.launch == c.launch && m.set == c.set && m.slot == c.slot &&
    m.tok == c.tok)).foldl (fun s m => matFail s c.core m 6) s)) s
  bumpEpoch s (512 + k)
/-- Cores of a partition. -/
def coresOf (s : State) (p : Nat) : List Nat := (partTents s p).flatMap (fun t => (List.range 64).map (· + 64 * t))
/-- The rings bound to a partition that have left DISABLED. -/
def ringsOf (s : State) (p : Nat) : List Nat :=
  (List.range 256).filter (fun r => (ringOf s r).st != 0 && ringPart s r == p)
/-- A fetched descriptor that is not admitted completes with ABORTED_RESET (R334 step 2). -/
def abortFetched (s : State) (r : Nat) : State :=
  let g := ringOf s r
  let s' := setRing s r { g with fetched := [] }
  g.fetched.foldl (fun t f =>
    writeCompletion t { id := 0, ring := r, slot := f.1, desc := f.2, tick := t.tick, status := 9 } true) s'
/-- R334 steps 1 to 3: nothing further is fetched, waiting descriptors complete with ABORTED_RESET, launches end. -/
def disableRing (s : State) (r : Nat) : State :=
  let g := ringOf s r
  let s := abortFetched (setRing s r { g with st := 2 }) r
  (s.rng.ops.filter (fun o => o.ring == r)).foldl (fun s o =>
    if o.code == 0x31 then finish s o.id 9
    else if (launchOf s o.id).isSome then abortLaunch s o.id else s) s
/-- Every other operation of the ring ends at once with ABORTED_RESET, as a reset ends it (R454, R465). -/
def abortOps (s : State) (r : Nat) : State :=
  (s.rng.ops.filter (fun o => o.ring == r)).foldl (fun s o =>
    if (launchOf s o.id).isSome then completeLaunch (abortLaunch s o.id) o.id false else finish s o.id 9) s
/-- The registers of a ring at reset (R517, R521). -/
def resetRingRegs (s : State) (r : Nat) : State :=
  { s with regs := { s.regs with w := s.regs.w.filter (fun e =>
      !(0x20000 + 0x40 * r ≤ e.1 && e.1 < 0x20000 + 0x40 * (r + 1))) } }
/-- The EVT_ registers and event ring of a function at reset (R297, R517). -/
def resetEvt (s : State) (fn : Nat) : State :=
  let keys := [rkey 0xE0000 fn, rkey 0xE0004 fn, rkey 0xE0008 fn, rkey 0xE0014 fn]
  let rest (t : Tab Word) : Tab Word := t.filter (fun e => !keys.contains e.1)
  { s with regs := { w := rest s.regs.w, sel := rest s.regs.sel, latch := rest s.regs.latch, stage := rest s.regs.stage }
           evt := { s.evt with ring := tdel s.evt.ring fn } }
/-- Span work of a partition is discarded (R367, R454). -/
def dropSpan (s : State) (p : Nat) : State :=
  let mine := (s.span.ops.filter (fun o => o.part == p)).map (·.op)
  { s with span := { s.span with ops := s.span.ops.filter (fun o => o.part != p), held := s.span.held.filter (fun h => h.1 != p),
                                 reqs := s.span.reqs.filter (fun h => h.1 != p),
                                 wait := s.span.wait.filter (fun w => !w.2.1.elim false mine.contains) } }
/-- Per-partition reset (R454): rings drain with ABORTED_RESET, cores are reset, bundles unloaded, policies back to
their defaults, the partition's RING_ and its VF's EVT_ registers to reset (R335, R517). HBM3E, Plots, dead ranges and
tables stay. -/
def partitionReset (s : State) (p : Nat) : State :=
  let rs := ringsOf s p
  let s := dropSpan s p
  let s := rs.foldl (fun s r => abortOps (disableRing s r) r) s
  let s := (coresOf s p).foldl (fun s c => if (tfind s.krn.cores c).isSome then coreReset s c else bumpEpoch s c) s
  let own := (List.range 256).filter (fun r => rs.contains r ||
    ((ringOf s r).st == 0 && (bits (ringCfg s r) 8 4 == p || (!single s && r / 32 == p))))
  let s := own.foldl (fun s r => resetRingRegs (setRing s r {}) r) s
  let s := { s with krn := { s.krn with bundles := s.krn.bundles.filter (fun b => b.part != p), policy := tdel s.krn.policy p }
                    mem := { s.mem with fill := tdel s.mem.fill p } }
  if single s then s else resetEvt s (p + 1)

/-! Teardown (R394). -/
def downOf (s : State) (p : Nat) : Option Down := s.down.find? (fun d => d.part == p)
def setDown (s : State) (d : Down) : State := { s with down := s.down.filter (fun e => e.part != d.part) ++ [d] }
/-- Step 1: the per-partition reset; a teardown already under way absorbs another (R455). -/
def teardownStart (s : State) (p : Nat) (stop back : Bool) : State :=
  match downOf s p with
  | some d => setDown s { d with stop := d.stop || stop, back := d.back && back }
  | none => setDown (partitionReset s p) { part := p, step := 1, stop, back }
/-- Imported keys of a partition destroyed (R391). -/
def dropKeys (s : State) (p : Nat) : State :=
  { s with trust := { s.trust with keys := s.trust.keys.filter (fun k => k.1 / 16 != p) } }
/-- A Tent's HBM3E under a fresh key: its written bytes become unlisted, poison stays (R252, R489). -/
def rekeyTent (s : State) (t : Nat) (pair : Nat × Nat) : State :=
  { s with mem := { s.mem with hbm := cdrop s.mem.hbm (fun a => a / 0x2400000000 == t), key := tupd s.mem.key 0 t (· + 1)
                               xts := tset s.mem.xts t pair } }
/-- A pair is drawn for a partition and loaded into the controllers of its Tents. -/
def rekeyTents (s : State) (ts : List Nat) : State :=
  ts.foldl (fun s t => rekeyTent s t (keyPair s.mem.pairs)) { s with mem := { s.mem with pairs := s.mem.pairs + 1 } }
/-- Every way of a Tent's slices zeroed, with its dead ranges and what waits on its lines (R196, R216, R394). -/
def clearTent (s : State) (t : Nat) : State :=
  { s with mem := { s.mem with
      upset := s.mem.upset.filter (fun u => tentAt u.1 != t)
      lines := s.mem.lines.filter (fun c => c.slice / 48 != t), miss := s.mem.miss.filter (fun m => m.slice / 48 != t)
      reqs := s.mem.reqs.filter (fun r => tentAt r.line != t), redq := s.mem.redq.filter (fun r => tentAt r.line != t)
      msa := s.mem.msa.filter (fun r => tentAt r.line != t), dead := s.mem.dead.filter (fun d => tentAt d.first != t)
      plot := cdrop s.mem.plot (fun a => plotTent a == t)
      maps := s.mem.maps.filter (fun m => m.2.2 / 16 != t)
      plotPois := s.mem.plotPois.filter (fun h => plotTent (64 * h) != t) } }
def invalidateCtx (s : State) (p : Nat) : State :=
  let cs := if single s then List.range 256 else (List.range 32).map (· + 32 * p)
  { s with regs := { s.regs with w := s.regs.w.map (fun e =>
      if cs.any (fun c => e.1 == rkey (0x40028 + 0x1000 * p) c) then (e.1, e.2 &&& 0x7FFFFFFF#32) else e) } }
def clearCores (s : State) (p : Nat) : State :=
  (coresOf s p).foldl (fun s c => match tfind s.krn.cores c with
    | some x => setCore s c (clearedCore x)
    | none => s) s
/-- Steps 2 to 4: keys destroyed, crypto-erase, dirty lines and dead ranges dropped, contexts invalid, every way of the
partition's slices and every core's memories zeroed. -/
def teardownErase (s : State) (p : Nat) : State :=
  match downOf s p with
  | some d =>
    if d.step != 1 then s
    else
      let s := (partTents s p).foldl clearTent (rekeyTents (dropKeys s p) (partTents s p))
      setDown (clearCores (invalidateCtx s p) p) { d with step := 2 }
  | none => s
/-- R450 step 3 and R394 step 5: semaphores zeroed, guard policy at its defaults, report SEQ from 0, buckets full. The host's
accesses that wait at a bucket still complete (R454). -/
def intoService (s : State) (p : Nat) : State :=
  let s := (writeClean s 9 0 (semBase s p) (zeros 32768)).1
  let bkt := s.fab.bkt.filterMap (fun b =>
    let host := b.2.held.filter (fun h => (heldReq h).isNone)
    if keyPart s b.1 != p then some b else if host = [] then none else some (b.1, { fullBucket s b.1 with held := host }))
  { s with krn := { s.krn with policy := tdel s.krn.policy p, gseq := tdel s.krn.gseq p, bundles := s.krn.bundles.filter (fun b => b.part != p) }
           fab := { s.fab with bkt := bkt }
           trust := { s.trust with pchain := tdel s.trust.pchain p, everAttached := setBit s.trust.everAttached p (attached s p) } }
/-- Steps 5 and 6: the kind-9 entry in the device log, the chain cleared, EV_TEARDOWN_DONE, the partition back in
service where it stays committed, and the TDI unlocked when STOP_INTERFACE_REQUEST asked for it. -/
def teardownDone (s : State) (p : Nat) : State :=
  match downOf s p with
  | some d =>
    if d.step != 2 then s
    else
      let chain := (tget s.trust.pchain (zeros 64, 0) p).1
      let s := logAppend s 9 0xFF [] chain
      let s := { s with trust := { s.trust with pchain := tdel s.trust.pchain p } }
      let s := detect s 0x606 0 p p 0 []
      let s := if d.back then intoService s p else s
      let s := { s with evt := { s.evt with failed := sdel s.evt.failed p, due := s.evt.due.filter (· != p) }
                        down := s.down.filter (fun e => e.part != p) }
      if d.stop then { s with trust := { s.trust with tdi := tdel s.trust.tdi p } } else s
  | none => s
/-- The partition resets that FATAL events ask for begin, each followed by its teardown (R394, R481). -/
def runDue (s : State) : State :=
  let ps := s.evt.due
  ps.foldl (fun s p => teardownStart s p false true) { s with evt := { s.evt with due := [] } }

/-- TDI ERROR (R305): the partition stops as for a per-partition reset, its keys are destroyed (R391) and EV_TDI_ERROR is
posted to the PF's event ring. -/
def tdiError (s : State) (p : Nat) : State :=
  if !lockedTdi s p then s
  else
    let s := { s with trust := { s.trust with tdi := tset s.trust.tdi p 3 } }
    detect (partitionReset (dropKeys s p) p) 0x620 3 p (p + 1) 0 []

end Sys2Proof.Machine
end

