-- ==== Sys2Proof/Machine/Reduce.lean ====
section
/-! DEFINITION. The fixed combine tree of R133 and its node operations (R134, R38, R360). -/
namespace Sys2Proof.Machine

/-- The tree over the records in ascending order: the left operand covers the largest power of two below n. -/
def treeGo {α : Type} (comb : α → α → α) (d : α) : Nat → List α → α
  | 0, l => l.headD d
  | f + 1, l =>
    if l.length ≤ 1 then l.headD d
    else
      let h := 2 ^ log2 (l.length - 1)
      comb (treeGo comb d f (l.take h)) (treeGo comb d f (l.drop h))
def tree {α : Type} (comb : α → α → α) (d : α) (l : List α) : α := treeGo comb d (l.length + 1) l
def finiteW (w : Word) : Bool := w.toNat / 2 ^ 23 % 256 != 255
/-- combine of R134: FP32 operations rounded to nearest even; `plain` drops the error term. -/
def comb2 (plain : Bool) (a b : Word × Word) : Word × Word :=
  let s := fadd a.1 b.1
  if plain || !finiteW s then (s, 0)
  else
    let bp := fsub s a.1
    let t := fadd (fsub a.1 (fsub s bp)) (fsub b.1 bp)
    (s, fadd (fadd a.2 b.2) t)
/-- finish of R134. -/
def finish2 (plain : Bool) (r : Word × Word) : Word := if !plain && finiteW r.1 then fadd r.1 r.2 else r.1
/-- finish for BF16 records (R360): the one rounding is to BF16. -/
def finishBf (plain : Bool) (r : Word × Word) : Nat :=
  roundF fbf16 (if !plain && finiteW r.1 then addN (ofFp32 r.1) (ofFp32 r.2) else ofFp32 r.1)
/-- FP32 records. -/
def sumFp (plain : Bool) (l : List Word) : Word := finish2 plain (tree (comb2 plain) (0, 0) (l.map (fun x => (x, 0))))
/-- INT32 records: every add exact with saturation, which does not stick. -/
def satAdd (a b : Int) : Int := let t := a + b; if t > 2147483647 then 2147483647 else if t < -2147483648 then -2147483648 else t
def sumInt (l : List Word) : Word := BitVec.ofInt 32 (tree satAdd 0 (l.map (fun w => toS 32 w.toNat)))
def sumBf (plain : Bool) (l : List Nat) : Nat :=
  finishBf plain (tree (comb2 plain) (0, 0) (l.map (fun c => (BitVec.ofNat 32 (c * 65536), 0))))
/-- One element of a collective: `el` 0 FP32, 1 BF16, 0x0E INT32; `op` 0 SUM, 1 MIN, 2 MAX. -/
def combineElem (el op : Nat) (plain : Bool) (l : List Nat) : Nat :=
  if el = 0x0E then
    if op = 0 then (sumInt (l.map (BitVec.ofNat 32))).toNat
    else ofS 32 (tree (fun (a b : Int) => if op = 1 then (if b < a then b else a) else if a < b then b else a) 0 (l.map (toS 32)))
  else
    let f := if el = 1 then fbf16 else ffp32
    if op = 0 then (if el = 1 then sumBf plain l else (sumFp plain (l.map (BitVec.ofNat 32))).toNat)
    else roundF f (tree (if op = 1 then minN else maxN) .nan (l.map (decodeF f)))

end Sys2Proof.Machine
end

