-- ==== Sys2Proof/Machine/SpanOps.lean ====
section
/-! DEFINITION. Span operations and messages (R351 to R369): the table of active operations, a message on its way out,
and how an operation ends. -/
namespace Sys2Proof.Machine

def spOp (s : State) (id : Nat) : Option SpanOp := s.span.ops.find? (fun o => o.op == id)
def updSp (s : State) (id : Nat) (f : SpanOp → SpanOp) : State :=
  { s with span := { s.span with ops := s.span.ops.map (fun o => if o.op == id then f o else o) } }
/-- The port carries traffic: UP and not draining. -/
def portUp (s : State) (n : Nat) : Bool := let p := portOf s n; p.st == 4 && !p.draining
def others (o : SpanOp) : List Nat := (List.range o.grp.ranks.length).filter (fun r => r != o.grp.rank)
def rankAddr (g : Group) (r : Nat) : Nat := (g.ranks.getD r (0, [])).1
def rankPorts (g : Group) (r : Nat) : List Nat := (g.ranks.getD r (0, [])).2

/-! Span messages and flits on their way out (R351 to R355). -/
/-- The header of R353. -/
def headBytes (m : SpanMsg) : Bytes :=
  le 1 m.type ++ le 1 m.info ++ le 2 m.payload.length ++ le 2 m.dst ++ le 2 m.src ++ le 4 m.group ++ le 4 m.seq ++
    le 2 m.rank ++ le 1 m.ttl ++ zeros 1 ++ le 4 m.offset ++ le 8 m.poison
/-- A message on the wire: the header in the clear, the payload encrypted, the tag. The IV is the salt and the message
counter, least significant byte first (DESIGN CHOICE, log entry 82). -/
def wireMsg (n : Nat) (p : Port) (m : SpanMsg) : Bytes :=
  let k := (List.range 36).map (Config.spanKey n p.sess p.txGen true)
  headBytes m ++
    (List.range (m.payload.length + 16)).map (Config.gcmSeal (k.take 32) (k.drop 32 ++ le 8 p.txCount) (headBytes m) m.payload)
/-- The 256 bytes of a flit. ACK names the last flit received in order. -/
def flitBytes (p : Port) (type seq : Nat) (replay nack : Bool) (payload : Bytes) : Bytes :=
  let b := le 1 type ++ le 1 (b2n replay) ++ le 2 seq ++ le 2 ((p.rxSeq + 4095) % 4096 + 32768 * b2n nack) ++ pad payload 242 ++
    le 2 p.freed ++ zeros 2
  b ++ le 4 (crc32c b).toNat
/-- One flit leaves: it joins the replay buffer of the last 512 and takes a credit. -/
def putFlit (a : Port × List Bytes) (type : Nat) (nack : Bool) (payload : Bytes) : Port × List Bytes :=
  let p := a.1
  ({ p with txSeq := (p.txSeq + 1) % 4096, replay := (p.replay ++ [(p.txSeq, type, payload)]).drop (p.replay.length - 511)
            credits := p.credits - 1, freed := 0 }, a.2 ++ [flitBytes p type p.txSeq false nack payload])
/-- A message's bytes in flits of 242; the last is filled with zeros (log entry 82). -/
def putFlits (p : Port) (type : Nat) (b : Bytes) : Port × List Bytes :=
  (List.range (cdiv b.length 242)).foldl (fun a i => putFlit a type false (pad ((b.drop (242 * i)).take 242) 242)) (p, [])
/-- The transmit key is updated before its counter reaches 2^32 (R355). -/
def rekeyTx (p : Port) : Port := if p.txCount + 1 < 2 ^ 32 then p else { p with txGen := p.txGen + 1, txCount := 0 }
/-- Flits that a port sends. -/
def putWire (s : State) (n : Nat) (p : Port) (l : List Bytes) : State :=
  let s := setPort s n p
  { s with span := { s.span with wire := s.span.wire ++ l.map (fun b => (n, b)) } }
/-- A message leaves on a port, encrypted under its next counter (R351, R353, R355); RELEASE goes in CONTROL flits. -/
def sendVia (s : State) (n : Nat) (m : SpanMsg) : State :=
  let p := rekeyTx (portOf s n)
  let w := putFlits { p with txCount := p.txCount + 1 } (if m.type = 10 then 2 else 1) (wireMsg n p m)
  let s := putWire s n w.1 w.2
  { s with span := { s.span with out := s.span.out ++ [(n, m)] } }

/-- The listed port that next has transmit credit (R357). -/
def pickPort (s : State) (ports : List Nat) : Option Nat :=
  match ports.find? (fun n => portUp s n && (portOf s n).credits > 0) with
  | some n => some n
  | none => ports.find? (portUp s)
/-- The operation has a message on a port: at x2 or x1 it will complete DEGRADED (R369). -/
def noteUsed (s : State) (id : Option Nat) (n : Nat) : State :=
  let slow : Bool := (portOf s n).width < 4
  match id with
  | some i => updSp s i (fun o => { o with used := sadd o.used n, narrow := o.narrow || slow })
  | none => s
/-- A message of an operation goes to a rank, or waits for one of its ports. -/
def spanOut (s : State) (id : Option Nat) (ports : List Nat) (m : SpanMsg) : State :=
  match pickPort s ports with
  | some n => noteUsed (sendVia s n m) id n
  | none => { s with span := { s.span with wait := s.span.wait ++ [(ports, id, m)] } }
/-- Waiting messages leave through a port that has come UP. -/
def flushWait (s : State) (n : Nat) : State :=
  let go := s.span.wait.filter (fun w => w.1.contains n)
  let s := { s with span := { s.span with wait := s.span.wait.filter (fun w => !w.1.contains n) } }
  go.foldl (fun s w => spanOut s w.2.1 w.1 w.2.2) s
/-- The message of R353 from an operation to a rank. -/
def spanMsg (s : State) (o : SpanOp) (r type info off : Nat) (b : List (Byte × Bool)) : SpanMsg :=
  { type, info, dst := rankAddr o.grp r, src := spanAddr s, group := o.grp.id, seq := o.seq, rank := o.grp.rank, ttl := 8
    offset := off
    poison := ((b.zipIdx).filter (fun x => x.1.2)).foldl (fun a x => a ||| 2 ^ (x.2 / 64)) 0
    payload := b.map (·.1) }
def spanSend (s : State) (o : SpanOp) (r type : Nat) (b : Bytes := []) (info : Nat := 0) : State :=
  spanOut s (some o.op) (rankPorts o.grp r) (spanMsg s o r type info 0 (b.map (fun x => (x, false))))

/-! Ends. -/
/-- Ranks an operation has exchanged messages with (R365). -/
def exchanged (o : SpanOp) : List Nat :=
  if !o.running then [] else if o.kind ≤ 3 then others o else if o.kind = 4 || o.agreed.isSome then [o.peer] else []
def dropSp (s : State) (id : Nat) : State :=
  { s with span := { s.span with ops := s.span.ops.filter (fun o => o.op != id), wait := s.span.wait.filter (fun w => w.2.1 != some id) } }
/-- A failing status: ABORT to every rank it has exchanged messages with; RESULT names the rank at which it arose. -/
def failSpan (s : State) (id status rank : Nat) : State :=
  match spOp s id with
  | none => s
  | some o =>
    let s := dropSp s id
    let s := (exchanged o).foldl (fun s r => spanSend s o r 8 [] status) s
    finish s id status 0 rank
/-- OK, or DEGRADED over a narrow port (R369). -/
def endSpan (s : State) (id result : Nat) : State :=
  match spOp s id with
  | none => s
  | some o => finish (dropSp s id) id (if o.narrow then 0x0C else 0) 0 result
/-- The operations that use a port fail (R365). -/
def failPort (s : State) (n status : Nat) : State :=
  (s.span.ops.filter (fun o => o.used.contains n)).foldl (fun s o => failSpan s o.op status o.grp.rank) s

/-! A port leaves UP. -/
/-- The replay buffer and the session go with it (R352, R355). -/
def leaveUp (p : Port) (st : Nat) : Port :=
  { p with st := st, replay := [], replays := 0, discarding := false, secure := false, txCount := 0, rxCount := 0, txGen := 0, rxGen := 0 }
/-- An UP port goes to DETECT or back to SECURE, or to DOWN with a reason and EV_SPAN_DOWN (R346, R355, R365). -/
def portLeaves (s : State) (n st status : Nat) : State :=
  let p := portOf s n
  failPort (setPort s n { leaveUp p st with width := if st = 3 then p.width else 0, active := if st = 3 then p.active else []
                                            reason := 0 }) n status
def portDown (s : State) (n reason : Nat) : State :=
  let s := setPort s n { leaveUp (portOf s n) 7 with width := 0, active := [], reason := reason }
  failPort (detect s 0x533 2 (portPart s n) n 0 (le 1 reason)) n 6

end Sys2Proof.Machine
end

