-- ==== Sys2Proof/Machine/Ledger.lean ====
section
/-! DEFINITION. The Ledger and what a start makes of it (R435 to R445), the lateral routes (R266, R270), and the two
ways down: STOWED and TRIPPED (R427, R432, R454). -/
namespace Sys2Proof.Machine

/-- Number of bytes of an entry of sections 1 to 10. -/
def entryLen (i : Nat) : Nat := if i = 1 || i = 2 || i = 4 || i = 10 then 8 else if i = 6 then 16 else 4

/-! The Ledger's bytes. -/
def varBytes (e : VarEntry) : Bytes := le 2 e.kind ++ le 2 e.unit ++ le 4 (8 + e.payload.length) ++ e.payload
def secBytes (x : Sections) (i : Nat) : Bytes :=
  if i ≤ 10 then (secOf x i).flatMap (le (entryLen i)) else (tget x.vars [] i).flatMap varBytes
def secCount (x : Sections) (i : Nat) : Nat := if i ≤ 10 then (secOf x i).length else (tget x.vars [] i).length
def usedSecs (x : Sections) : List Nat := (List.range 14).filter (fun i => i > 0 && secCount x i > 0)
/-- The Ledger seal key (R374). -/
def sealKey : Bytes := Config.kmac256 Config.uds [] 32 "LEDGER"
def ledgerTag (body : Bytes) : Bytes := Config.kmac256 sealKey body 64 "LEDGER-SEAL"
/-- Header, section table, sections and tag (R435, R436). At least one section is listed. -/
def ledgerBytes (x : Sections) (gen svn sealTime logIndex rotation : Nat) : Bytes :=
  let is := if usedSecs x = [] then [1] else usedSecs x
  let tbl := is.foldl (fun (a : Bytes × Nat) i =>
    let n := (secBytes x i).length
    (a.1 ++ le 2 i ++ le 2 0 ++ le 4 a.2 ++ le 4 n ++ le 4 (secCount x i), a.2 + n)) ([], 64 + 16 * is.length)
  let body := le 4 0x31474C56 ++ le 2 1 ++ le 2 is.length ++ le 8 gen ++ le 4 (tbl.2 + 64) ++ le 4 svn ++
    pad Config.serial 16 ++ le 8 sealTime ++ le 4 logIndex ++ le 1 rotation ++ zeros 11 ++ tbl.1 ++ is.flatMap (secBytes x)
  body ++ ledgerTag body
/-- Reserved bits of a section's entry are zero (R435). -/
def entryOk (i e : Nat) : Bool :=
  match i with
  | 1 => e / 2 ^ 42 == 0
  | 2 => if bit e 63 then e % 2 ^ 63 / 2 ^ 9 == 0 else e / 2 ^ 42 == 0
  | 4 => e / 2 ^ 40 == 0
  | 5 => e / 2 ^ 24 == 0
  | 7 => e % 256 ≤ 1 && (e % 256 == 0 || bits e 8 8 == 0)
  | 8 => e / 2 ^ 16 == 0
  | 9 => e % 256 ≤ 1 && bits e 8 8 == 0
  | 10 => e % 256 ≤ 1 && e / 2 ^ 40 == 0
  | _ => true
/-- Kinds of sections 11 to 13 (R532). -/
def kindOk (i k : Nat) : Bool := if i = 12 then k == 1 || k == 2 else 1 ≤ k && k ≤ 3
/-- Entries of sections 11 to 13, in ascending kind and unit; none where the framing fails. -/
def varParse : Nat → Nat → Option Nat → Bytes → Option (List VarEntry)
  | 0, _, _, b => if b = [] then some [] else none
  | n + 1, i, last, b =>
    if b = [] then some []
    else
      let k := fld b 0 2
      let u := fld b 2 2
      let l := fld b 4 4
      let key := 65536 * k + u
      if l < 8 || l % 8 != 0 || l > b.length || !kindOk i k || last.elim false (fun p => key ≤ p) then none
      else (varParse n i (some key) (b.drop l)).map (fun r => { kind := k, unit := u, payload := slice b 8 (l - 8) } :: r)
/-- One section; none where it does not fit. -/
def secParse (x : Sections) (i : Nat) (b : Bytes) (count : Nat) : Option Sections :=
  if 1 ≤ i && i ≤ 10 then
    let n := entryLen i
    let es := (List.range count).map (fun k => fld b (n * k) n)
    if b.length != n * count || !es.all (entryOk i) then none else some { x with fixed := tset x.fixed i es }
  else if 11 ≤ i && i ≤ 13 then
    match varParse (b.length / 8 + 1) i none b with
    | some es => if es.length = count then some { x with vars := tset x.vars i es } else none
    | none => none
  else none
/-- Check 2 of R437: the sections of a well-framed Ledger. -/
def ledgerParse (b : Bytes) (len : Nat) : Option Sections :=
  let n := fld b 6 2
  if b.length != len || len > 8388608 || fld b 0 4 != 0x31474C56 || fld b 4 2 != 1 || n = 0 || n > 16 ||
      fld b 16 4 != len || fld b 8 8 = 0 || fld b 52 1 > 63 || !allZero (slice b 53 11) || 128 + 16 * n > len then none
  else
    let recs := (List.range n).map (fun k => slice b (64 + 16 * k) 16)
    if (distinct (recs.map (fun r => fld r 0 2))).length != n || recs.any (fun r => fld r 2 2 != 0) then none
    else recs.foldl (fun acc r => acc.bind (fun x =>
      let off := fld r 4 4
      let l := fld r 8 4
      if off < 64 + 16 * n || off + l > len - 64 then none else secParse x (fld r 0 2) (slice b off l) (fld r 12 4))) (some {})

/-! Placement of repaired units. -/
/-- The key of a row in Memory.rowKey's order (R244). -/
def rowKeyOf (sid bg bk row : Nat) : Nat := bg + 4 * bk + 16 * sid + 64 * row
def entryRow (e : Nat) : Nat := rowKeyOf (bits e 10 2) (bits e 12 2) (bits e 14 2) (bits e 16 15)
/-- The physical address of line k of a linear channel (R192, inverted). -/
def lineAt (ch k : Nat) : Nat :=
  let g := (3 * k + ch / 16 % 3) * 2048
  tentBase (ch / 48) + g + 128 * ((ch % 16) ^^^ bits g 15 4 ^^^ bits g 23 4 ^^^ bits g 31 4)
def rowLines (ch key : Nat) : List Nat := (List.range 16).map (fun c => lineAt ch (16 * key + c))
/-- A domain or physical core is listed in section 7. -/
def domBad (s : State) (d : Nat) : Bool :=
  s.pwr.domFail.contains d || (d ≥ 512 && (secOf s.boot.work 7).contains (defEntry (.domain d)))

/-! Rails (R398, R399). -/
def railPhases (r : Nat) : Nat := if r < 64 then 6 else if r < 72 then 8 else if r < 84 then 4 else 0
def railRating (r : Nat) : Nat := if r < 64 then 9000 else if r < 80 then 6000 else if r < 84 then 12000 else 0
def phasesBad (s : State) (r : Nat) : Nat := (s.pwr.phaseBad.filter (fun p => p / 16 == r)).length
/-- Failed phases beyond which a rail is shut down (R401). -/
def phaseLimit (r : Nat) : Nat := if r < 72 then 2 else 1
def iRail (s : State) (r : Nat) : Nat := (railPhases r - phasesBad s r) * railRating r

/-! The declaration (R445, R533). -/
/-- Good physical cores of a cluster: the eight lowest, without those whose core domain a former start found to fail (R30, R410).
A listed domain names the core that its index binds to (log entry 77). -/
def goodCores (s : State) (k : Nat) : List Nat :=
  if s.fab.cut.contains k || phasesBad s k > 2 then [] else
  let eight := ((List.range 9).filter (fun c => !(secOf s.boot.work 7).contains (defEntry (.core (k / 8) (k % 8) c)))).take 8
  (eight.zipIdx.filter (fun x => !(secOf s.boot.work 7).contains (defEntry (.domain (8 * k + x.2))))).map (·.1)
/-- Enabled logical cores of a cluster: those bound. -/
def enabledCores (s : State) (k : Nat) : Nat :=
  ((List.range 8).filter (fun c => (tfind s.dev.physOf (8 * k + c)).isSome)).length
/-- Largest Plot way count of a Tent (R194, R238). -/
def maxWays (s : State) (t : Nat) : Nat :=
  let out := s.mem.wayOut.filter (fun w => w / 16 / 48 == t)
  let relief (n : Nat) : Nat := if s.fab.cut.any (fun k => k / 8 == t) then cdiv n 7 else 0
  let ok (n : Nat) : Bool := out.all (fun w => w % 16 ≥ n) && n + relief n ≤ 14 &&
    (distinct (out.map (· / 16))).all (fun sl => (out.filter (fun w => w / 16 == sl)).length + n + relief n ≤ 14)
  ((List.range 15).filter ok).foldl Nat.max 0
/-- A Tent is usable: a route joins it to Vestibule 0 and its Groundsheet rails stand (R444). -/
def tentUsable (s : State) (t : Nat) : Bool := reaches s t 8 && phasesBad s (64 + t) ≤ 2 && phasesBad s (72 + t) ≤ 1
/-- Span ports out of service: their Vestibule's rail is down or no route reaches it (R270, R401). -/
def portsOut (s : State) : Nat :=
  ([1, 2, 3] : List Nat).foldl (fun a v =>
    if phasesBad s (80 + v) > 1 || !reaches s 8 (8 + v) then a + 63 * 2 ^ (6 * (v - 1)) else a) 0
def declPayload (s : State) : Bytes :=
  le 1 s.dev.usable ++ zeros 3 ++ le 4 s.dev.spanOut ++ le 4 s.dev.linesOut.length ++ le 2 s.dev.chansOut.length ++ zeros 2 ++
  (List.range 64).flatMap (fun k => le 1 (tget s.dev.declCores 0 k)) ++ (List.range 8).flatMap (fun t => le 1 (tget s.dev.declWays 0 t))
/-- The new declaration is lower in some figure than a recorded one. -/
def declLower (s : State) (b : Bytes) : Bool :=
  (List.range 8).any (fun t => bit (fld b 0 1) t && !bit s.dev.usable t) ||
  (List.range 64).any (fun k => tget s.dev.declCores 0 k < fld b (16 + k) 1) ||
  (List.range 8).any (fun t => tget s.dev.declWays 0 t < fld b (80 + t) 1) ||
  s.dev.linesOut.length > fld b 8 4 || s.dev.chansOut.length > fld b 12 2 ||
  (List.range 18).any (fun p => bit s.dev.spanOut p && !bit (fld b 4 4) p)
def declare (s : State) : State :=
  { s with dev := { s.dev with
      usable := (List.range 8).foldl (fun a t => if tentUsable s t then a + 2 ^ t else a) 0
      declCores := (List.range 64).map (fun k => (k, enabledCores s k))
      declWays := (List.range 8).map (fun t => (t, maxWays s t))
      spanOut := portsOut s } }

/-! Loading the repairs (R441). -/
/-- Core bindings of every cluster (R30). -/
def bindCores (s : State) : State :=
  { s with dev := { s.dev with physOf := (List.range 64).flatMap (fun k =>
      ((goodCores s k).zipIdx).map (fun x => (8 * k + x.2, x.1))) } }
/-- A row recorded for retirement is repaired by the lowest free spare of its slice, or its way is retired (R226). -/
def retireRow (s : State) (e : Nat) : State :=
  let sl := e % 65536
  let row := bits e 16 16
  let es := (secOf s.boot.work 4).filter (fun x => x % 65536 == sl)
  if bits e 32 8 != 0xFF || es.any (fun x => bits x 16 16 == row && bits x 32 8 != 0xFF) then s
  else match (List.range 128).find? (fun i => es.all (fun x => bits x 32 8 != i)) with
    | some i => recordDefect s (.gsRow sl row i)
    | none => recordDefect s (.gsWay sl (row / 3072))
/-- Lines and channels that leave service, from the accepted Ledger (R248, R255). -/
def linesFrom (x : Sections) : List Nat :=
  (secOf x 2).flatMap (fun e => if bit e 63 then [] else rowLines (e % 512) (entryRow e))
def chansFrom (x : Sections) : List Nat :=
  let pins := secOf x 3
  distinct ((secOf x 2).filterMap (fun e => if bit e 63 then some (e % 512) else none) ++
    pins.filterMap (fun e => if (pins.filter (fun f => f % 2 ^ 24 == e % 2 ^ 24)).length ≥ 3 then some (e % 65536) else none))
def poleOf (s : State) (p : Nat) : Pole := tget s.fab.poles {} p
def setPole (s : State) (p : Nat) (x : Pole) : State := { s with fab := { s.fab with poles := tset s.fab.poles p x } }
/-- The event of a Pole that has gone from one rung or spare map to another, with the mark of a step into HALF or FENCED
(R239, R242). Nothing where it took no new wire and kept its rung. -/
def poleStep (s : State) (pole : Nat) (old new : Pole) : State :=
  if old.st = new.st && old.wires = new.wires then s
  else
    let s := if new.st != old.st && (new.st = 2 || new.st = 3) then { s with fab := { s.fab with stepped := sadd s.fab.stepped pole } } else s
    if new.st = 4 || (new.st = old.st && new.st != 1) then s
    else detect s (if new.st = 1 then 0x120 else if new.st = 2 then 0x122 else 0x123) 0 (partOfTent s (pole / 1024)) pole 0 []
/-- The Poles of a column become CUT, as the Ledger records (R237). -/
def cutPoles (s : State) (k : Nat) : State :=
  ((List.range 128).map (· + 128 * k)).foldl (fun s p =>
    recordDefect (setPole s p { poleOf s p with st := 4 }) (.pole p 4 (poleOf s p).wires)) s
/-- The Poles that section 6 names, each with every wire its entries list and the lowest rung they give (R234, R235). -/
def polesFrom (x : Sections) : Tab Pole :=
  ((secOf x 6).map entryPole).foldl (fun t e => tupd t {} e.1 (fun p =>
    let ws := e.2.2.foldl sadd p.wires
    { p with wires := ws, st := Nat.max (Nat.max p.st e.2.1) (poleState ws) })) []
/-- Columns that are retired: a Pole is CUT, or FENCED beside a FENCED buddy (R237). -/
def cutColumns (t : Tab Pole) : List Nat :=
  distinct (t.filterMap (fun p =>
    if p.2.st = 4 || (p.2.st = 3 && (tget t {} (buddy p.1)).st = 3) then some (p.1 / 128) else none))
/-- The tables of every unit from the working Ledger, with what is out of service from the accepted one. -/
def loadRepairs (s : State) : State :=
  let s := (secOf s.boot.work 4).foldl retireRow s
  let w := s.boot.work
  let old : Sections := (s.boot.ledger.map (·.secs)).getD {}
  let poles := polesFrom w
  let s := (secOf w 1).foldl (fun s e =>
    let c := chanOf s (e % 512)
    setChan s (e % 512) { c with remap := tset c.remap (entryRow e) (bits e 31 11) }) s
  let s := (secOf w 3).foldl (fun s e =>
    let c := chanOf s (e % 65536)
    setChan s (e % 65536) { c with pins := sadd c.pins (64 * bits e 16 8 + bits e 24 8) }) s
  let cut := cutColumns poles
  bindCores { s with
    dev := { s.dev with linesOut := linesFrom old, chansOut := chansFrom old }
    mem := { s.mem with wayOut := distinct ((secOf w 5).map (fun e => 16 * (e % 65536) + bits e 16 8)) }
    fab := { s.fab with
      poles := poles
      cut := cut
      relief := cut }
    pwr := { s.pwr with phaseBad := distinct (s.pwr.phaseBad ++ (secOf w 8).map (fun e => 16 * (e % 256) + bits e 8 8)) }
    thm := { s.thm with excl := (secOf w 9).filterMap (fun e => if e % 256 = 0 then some (bits e 16 16) else none) } }

/-- A stack's baseline of corrected bits per second: the mean of its windows, at least 16, or the value it started with (R258). -/
def baseline (k : Stack) : Nat := if k.base = [] then k.base0 else Nat.max 16 (suml k.base / k.base.length)

/-- Numeric sensors of R469 above their warning (id) or critical (1,024 + id) threshold. -/
def sensorsAbove (s : State) : List Nat :=
  (List.range 76).flatMap (fun r => (if regionMax s r > 4 * (thmTarget s : Int) then [16 + r] else []) ++
    (if regionMax s r > 460 then [1040 + r] else [])) ++
  (List.range 24).flatMap (fun k => (if (stackOf s k).rep ≥ 95 then [96 + k] else []) ++
    (if (stackOf s k).rep ≥ 105 then [1120 + k] else []))
/-- A sensor that crosses a threshold upward sets alert bit 1 (R470). -/
def noteAbove (s : State) : State :=
  let now := sensorsAbove s
  let new := now.any (fun x => !s.thm.above.contains x)
  let s := { s with thm := { s.thm with above := now } }
  if new then alert s 1 else s

/-! Down. -/
/-- Seconds of operation join the ages of the trips kept from auxiliary 3.3 V (R429). -/
def aged (s : State) : List Nat := s.pwr.trips.map (· + s.tick / 100000000)
/-- STOWED: nothing completes and nothing is kept but the Identity Store, what the carrier holds and, in the stacks, their
contents under the keys of the last commit (R432, R454). The Guyline bypass closes (R471). -/
def stow (s : State) : State :=
  { pending := s.pending, free := s.free
    trust := { copyA := s.trust.copyA, copyB := s.trust.copyB, rpmc := s.trust.rpmc,
               lifeRecords := s.trust.lifeRecords, lifeBins := s.trust.lifeBins }
    pwr := { vin := s.pwr.vin, iin := s.pwr.iin, running := s.pwr.running, opened := s.pwr.opened,
             trip := s.pwr.trip, trips := aged s, holdOff := s.pwr.holdOff, tripOff := s.pwr.tripOff, aux := s.pwr.aux }
    mem := { hbm := s.mem.hbm, hbmPois := s.mem.hbmPois, key := s.mem.key, xts := s.mem.xts, pairs := s.mem.pairs, flaw := s.mem.flaw
             nextReq := s.mem.nextReq } }
/-- VIN_PKG is removed: the converter stands and the device is STOWED (R396, R504). -/
def powerLost (s : State) : State := let t := stow s; { t with pwr := { t.pwr with running := false } }
/-- TRIPPED with a cause, a die and a sensor; the converter is latched off, and a fourth trip within 24 h holds it off
(R427, R429). Nothing is posted. Without auxiliary 3.3 V nothing is latched (R510). -/
def tripDown (s : State) (cause die sensor : Nat) : State :=
  let t := stow s
  let ages := aged s
  let recent := ages.filter (· < 86400)
  { t with
    dev := { t.dev with st := .tripped }
    pwr := { t.pwr with
      running := false, tripOff := true, tripNow := true, thermtrip := cause == 1
      trip := if s.pwr.aux then (cause, die, sensor) else (0, 0, 0)
      trips := if s.pwr.aux then 0 :: ages else []
      holdOff := s.pwr.holdOff || (s.pwr.aux && recent.length ≥ 3) } }

/-! Span ports stopped (R366). -/
/-- A port is OFF, and its domain is switched off (R411). -/
def portOff (s : State) (n : Nat) : State :=
  let p := portOf s n
  domOff (setPort s n { cnt := p.cnt, coeff := p.coeff, sess := p.sess, narrowed := p.narrowed }) (984 + n)
/-- An UP port sends RELEASE and drains; any other goes to OFF. Its epoch is incremented. -/
def stopPort (s : State) (n : Nat) : State :=
  let p := portOf s n
  let s := bumpEpoch s (584 + n)
  if p.st == 4 || p.st == 5 then
    let s := sendVia s n { type := 10, info := 0, dst := p.peer.getD 0, src := spanAddr s, group := 0, seq := 0, rank := 0
                           ttl := 8, offset := 0, poison := 0, payload := [] }
    setPort s n { portOf s n with enable := false, draining := true, pend := false }
  else portOff s n

end Sys2Proof.Machine
end

