-- ==== Sys2Proof/Machine/Power.lean ====
section
/-! DEFINITION. Power delivery and clocking (R396 to R417, R504). -/
namespace Sys2Proof.Machine

/-- The input lies within the absolute maximum rating of R501. -/
def inputRated (mv : Int) : Bool := -60000 ≤ mv && mv ≤ 80000
/-- A command that brings in an input voltage: beyond the rating the spec gives no behaviour (R501). -/
def withInput (mv : Int) (t : State) : Host.Outcome State Fault Refusal :=
  if inputRated mv then .next { t with pwr := { t.pwr with vin := mv } } else .fault .overStress

/-- R396: from STOWED, and with nothing holding it off, the converter starts after 10 ms from 40 to 60 V. -/
def converterStarts (mv : Int) (us : Nat) (s : State) : State :=
  if s.dev.st == .stowed && !s.pwr.running && !s.pwr.opened && !s.pwr.tripOff && !s.pwr.holdOff &&
      40000 ≤ mv && mv ≤ 60000 && us ≥ 10000 then { s with pwr := { s.pwr with running := true } } else s
def execConverterStart (mv : Int) (us : Nat) (s : State) : Host.Outcome State Fault Refusal := withInput mv (converterStarts mv us s)

/-- R396: below 38 V for 1 ms a running converter stops. -/
def converterStops (mv : Int) (us : Nat) (s : State) : State :=
  if s.pwr.running && mv < 38000 && us ≥ 1000 then powerLost s else s
def execConverterStop (mv : Int) (us : Nat) (s : State) : Host.Outcome State Fault Refusal := withInput mv (converterStops mv us s)

/-- R504: above 61 V for 10 µs the input stage opens. -/
def stageOpens (mv : Int) (us : Nat) (s : State) : State :=
  if !s.pwr.opened && mv > 61000 && us ≥ 10 then
    let t := if s.pwr.running then powerLost s else s
    { t with pwr := { t.pwr with opened := true } }
  else s
def execInputStageOpen (mv : Int) (us : Nat) (s : State) : Host.Outcome State Fault Refusal := withInput mv (stageOpens mv us s)

/-- R504: below 60 V for 100 ms it reconnects. -/
def stageCloses (mv : Int) (us : Nat) (s : State) : State :=
  if s.pwr.opened && mv < 60000 && us ≥ 100000 then { s with pwr := { s.pwr with opened := false } } else s
def execInputReconnect (mv : Int) (us : Nat) (s : State) : Host.Outcome State Fault Refusal := withInput mv (stageCloses mv us s)

def inDip (mv : Int) : Bool := 38000 ≤ mv && mv ≤ 42000
/-- R396: from 38 to 42 V for more than 100 ms posts EV_PWR_INPUT_LOW once; leaving the range ends the dip. -/
def inputLow (mv : Int) (us : Nat) (s : State) : State :=
  if !inDip mv then { s with pwr := { s.pwr with lowPosted := false } }
  else if s.pwr.running && us > 100000 && !s.pwr.lowPosted then
    detect { s with pwr := { s.pwr with lowPosted := true } } 0x306 0 8 0 0 []
  else s
def execInputLowTimer (mv : Int) (us : Nat) (s : State) : Host.Outcome State Fault Refusal := withInput mv (inputLow mv us s)

/-- What the power manager's own events may change. -/
def keepPower (s t : State) : State := { s with pwr := t.pwr, evt := t.evt, boot := t.boot }

/-- Rails are powered in these states. -/
def powered (s : State) : Bool := s.dev.st != .stowed && s.dev.st != .tripped
/-- R397: the carrier converter (named 104) and the 20 module-supplied rails fall back to local sense, until the next
start, with their output raised by the expected drop, at most 3 %; the sense joins the Ledger (R435). -/
def senseOpens (rail : Nat) (s : State) : State :=
  if powered s && 84 ≤ rail && rail ≤ 104 && !s.pwr.localSense.contains rail then
    let s := { s with pwr := { s.pwr with localSense := sadd s.pwr.localSense rail
                                          rise := tset s.pwr.rise rail (Nat.min 30 (Config.pathDrop rail)) } }
    detect (recordDefect s (.sense rail)) 0x304 0 8 rail 0 []
  else s
def execSenseOpen (rail : Nat) (s : State) : Host.Outcome State Fault Refusal := .next (keepPower s (senseOpens rail s))

/-- The partition whose Tent a rail serves, 8 for none. -/
def railPart (s : State) (r : Nat) : Nat :=
  if r < 64 then partOfTent s (r / 8) else if r < 80 then partOfTent s (r % 8) else 8
/-- Six Span ports and four control cores leave service with their Vestibule (R401); the operations that use the ports
fail (R365). -/
def vestPortsOff (s : State) (v : Nat) : State :=
  let s := ((List.range 6).map (· + 6 * (v - 1))).foldl (fun s n => failPort (portOff s n) n 6) s
  let off := (List.range 6).map (· + (984 + 6 * (v - 1))) ++ (List.range 4).map (· + (1003 + 4 * v))
  { s with pwr := { s.pwr with doms := off.foldl (fun t d => tset t d {}) s.pwr.doms } }
/-- The domains of a Tent's slices and HBM3E controllers, which leave service with the Tent (R401, R411). -/
def tentDoms (t : Nat) : List Nat := (List.range 48).map (· + (576 + 48 * t)) ++ (List.range 3).map (· + (960 + 3 * t))
/-- A rail that has lost too many phases is shut down (R401). -/
def railShut (s : State) (r : Nat) : State :=
  if r = 80 then tripDown s 2 0 0
  else
    let s := { s with pwr := { s.pwr with railOff := sadd s.pwr.railOff r } }
    if r < 64 then
      let s := clusterReset s r
      let doms := (List.range 8).map (· + 8 * r) ++ [512 + r]
      let s := { s with pwr := { s.pwr with doms := doms.foldl (fun t d => tset t d {}) s.pwr.doms
                                            wait := s.pwr.wait.filter (fun d => !doms.contains d) } }
      detect s 0x302 2 (railPart s r) r 0 []
    else if r < 80 then
      let s := { s with pwr := { s.pwr with doms := (tentDoms (r % 8)).foldl (fun t d => tset t d {}) s.pwr.doms } }
      detect s 0x303 3 (railPart s r) r 0 []
    else vestPortsOff s (r - 80)
def phaseBadNow (why : PhaseFault) : Bool :=
  match why with
  | .overCurrent pc => pc > 150
  | .misbehaved us => us ≥ 10
/-- R400: a failed phase is isolated, recorded and posted; beyond the limit of R401 the rail goes. -/
def phaseFails (rail phase : Nat) (why : PhaseFault) (s : State) : State :=
  let k := 16 * rail + phase
  if powered s && phase < railPhases rail && phaseBadNow why && !s.pwr.phaseBad.contains k && !s.pwr.railOff.contains rail then
    let s := recordDefect { s with pwr := { s.pwr with phaseBad := sadd s.pwr.phaseBad k } } (.phase rail phase)
    let s := detect s 0x301 0 (railPart s rail) rail 0 []
    if phasesBad s rail > phaseLimit rail then railShut s rail else s
  else s
def execPhaseFail (rail phase : Nat) (why : PhaseFault) (s : State) : Host.Outcome State Fault Refusal :=
  .next (phaseFails rail phase why s)

/-! Droop and stretch (R403 to R406). -/
def setpoint (s : State) (r : Nat) : Nat := tget s.pwr.railMv 0 r
/-- R403: the lowest minimum with its timestamp; an equal value keeps the earlier one. -/
def noteMin (s : State) (r mv : Nat) : State :=
  let new : Bool := match tfind s.pwr.vmin r with
    | some (m, _) => decide (mv < m)
    | none => true
  if new then { s with pwr := { s.pwr with vmin := tset s.pwr.vmin r (mv, s.tick) } } else s
/-- R404: below the threshold ÷5, a further 20 mV below ÷6; a longer stretch in force stays. Groundsheet and Vestibule
droops are counted only. -/
def droops (rail mv : Nat) (s : State) : State :=
  if !powered s then s
  else
    let s := noteMin s rail mv
    let thr : Int := (setpoint s rail : Int) - (droopMv s : Int)
    if (mv : Int) ≥ thr then s
    else if rail ≥ 64 then { s with pwr := { s.pwr with droopCnt := tupd s.pwr.droopCnt 0 rail (· + 1) } }
    else
      let d := if (mv : Int) < thr - 20 then 6 else 5
      { s with pwr := { s.pwr with droop := tupd s.pwr.droop 4 rail (Nat.max d), stepping := sdel s.pwr.stepping rail } }
def execDroopDetect (cluster mv : Nat) (s : State) : Host.Outcome State Fault Refusal := .next (keepPower s (droops cluster mv s))
/-- Stretched periods counted (R406). -/
def countStretch (s : State) (k d n : Nat) : State :=
  if d = 5 then { s with pwr := { s.pwr with cnt5 := tupd s.pwr.cnt5 0 k (fun x => sat 64 (x + n)) } }
  else if d = 6 then { s with pwr := { s.pwr with cnt6 := tupd s.pwr.cnt6 0 k (fun x => sat 64 (x + n)) } }
  else s
/-- R405: above the threshold plus 10 mV for 32 periods a droop stretch begins to step down, one root cycle at a time, each
step held for 16 periods. -/
def releases (k mv periods : Nat) (s : State) : State :=
  let d := tget s.pwr.droop 4 k
  let s := countStretch (if powered s then noteMin s k mv else s) k d periods
  let due : Bool := if s.pwr.stepping.contains k then decide (periods ≥ 16)
    else decide ((mv : Int) > (setpoint s k : Int) - (droopMv s : Int) + 10) && decide (periods ≥ 32)
  if k < 64 && d > 4 && due then
    { s with pwr := { s.pwr with droop := if d = 6 then tset s.pwr.droop k 5 else tdel s.pwr.droop k
                                 stepping := if d = 6 then sadd s.pwr.stepping k else sdel s.pwr.stepping k } }
  else s
def execStretchRelease (cluster mv periods : Nat) (s : State) : Host.Outcome State Fault Refusal :=
  .next (keepPower s (releases cluster mv periods s))

/-- The mean period that a cluster's arbiter and its thermal floor ask for, in 1/1000 root cycle (R405, R425). -/
def stretchMean (s : State) (k : Nat) : Nat :=
  let f := tget s.pwr.floor 0 k
  Nat.max (tget s.pwr.arb 4000 k) (if f = 0 then 4000 else if f = 1 then 4500 else if f = 2 then 5000 else 6000)
/-- The stretched periods of the 100 µs before an allocation, where no droop or ramp has set their length (R406; log entry 83). -/
def countAsked (s : State) (k : Nat) : State :=
  let p := stretchMean s k
  let n := 600000000 / p
  let six := n * (p - 5000) / 1000
  if p = 4000 || tget s.pwr.droop 4 k > 4 || s.pwr.ramp6.contains k then s
  else countStretch (countStretch s k 6 six) k 5 (if p ≤ 5000 then n * (p - 4000) / 1000 else n - six)

/-! Limits and allocation (R407, R413, R414, R423). -/
/-- The limit left by the throttle, in watts (R424). -/
def thermalLimit (s : State) : Nat := pwrLimit s * (80 - s.thm.level) / 80
/-- The effective limit (R413): only the throttle takes it below 1,200 W. -/
def effLimit (s : State) : Nat :=
  let others := Nat.min (pwrLimit s) (Nat.min (s.gly.grant.getD (pwrLimit s)) (90 * s.pwr.vin.toNat / 1000))
  Nat.min (thermalLimit s) (Nat.max 1200 others)
/-- The input-current term sets the limit, below the configured one. -/
def inputClamps (s : State) : Bool :=
  let t := 90 * s.pwr.vin.toNat / 1000
  t < pwrLimit s && t ≤ s.gly.grant.getD (pwrLimit s) && Nat.max 1200 t ≤ thermalLimit s && Nat.max 1200 t < pwrLimit s
/-- A cluster rail's own limit: 75 % of I_rail while its region or its Groundsheet's is capped (R423). -/
def railCap (s : State) (k : Nat) : Nat :=
  if capped s k || capped s (64 + k / 8) then iRail s k * 3 / 4 else iRail s k
/-- Power of a rail in mW at a current in mA. -/
def railMw (s : State) (k ma : Nat) : Nat := ma * setpoint s k / 1000
/-- The limit L of a rail's arbiter, in mA (R407). -/
def railLimit (s : State) (r : Nat) : Nat :=
  if r < 64 then Nat.min (railCap s r) (tget s.pwr.alloc (railCap s r) r) else iRail s r
/-- Demand of a partition's cluster rails in mW. -/
def partDemand (s : State) (demand : List (Nat × Nat)) (p : Nat) : Nat :=
  suml ((demand.filter (fun d => d.1 < 64 && partOfTent s (d.1 / 8) == p)).map (fun d => railMw s d.1 d.2))
/-- Steps 2 and 3 of R414: shares by Tent count, what a partition leaves unused lent to those in want in proportion to
their Tents, then by demand to the rails. -/
def allocate (s : State) (rest : Nat) (demand : List (Nat × Nat)) : Tab Nat :=
  let ps := parts s
  let tents (p : Nat) : Nat := (partTents s p).length
  let all := suml (ps.map tents)
  let share (p : Nat) : Nat := if all = 0 then 0 else rest * tents p / all
  let want := ps.filter (fun p => partDemand s demand p > share p)
  let pool := suml ((ps.filter (fun p => partDemand s demand p ≤ share p)).map (fun p => share p - partDemand s demand p))
  let wantTents := suml (want.map tents)
  let budget (p : Nat) : Nat :=
    if want.contains p then share p + (if wantTents = 0 then 0 else pool * tents p / wantTents) else partDemand s demand p
  demand.foldl (fun t d =>
    let p := partOfTent s (d.1 / 8)
    let tot := partDemand s demand p
    if d.1 < 64 && p < 8 && setpoint s d.1 != 0 && tot != 0 then
      tset t d.1 (Nat.min (railCap s d.1) (budget p * railMw s d.1 d.2 / tot * 1000 / setpoint s d.1))
    else t) []
/-- Leakage of a rail's domains that are on or ramping, in mA. -/
def leakOf (s : State) (r : Nat) (doms : List Nat) : Nat :=
  suml (doms.map (fun d => if (domOf s d).st = 1 || (domOf s d).st = 2 then Config.leakMa (1024 * r + d) else 0))
/-- The mean period of R407 in 1/1000 root cycle for a demand at ÷4, and whether the matrix queues are held. -/
def arbPeriod (l leak demand : Nat) : Nat × Bool :=
  if demand ≤ l then (4000, false)
  else if leak ≥ l then (6000, true)
  else
    let p := cdiv (4000 * (demand - leak)) (l - leak)
    if p ≤ 6000 then (Nat.max 4000 p, false) else (6000, true)
/-- R414: the limit is formed from the sampled input, the measured draw comes off it, and the rest is allocated; each
cluster rail's arbiter then requests its period (R407). -/
def allocation (mv : Int) (ma fixedW : Nat) (demand : List (Nat × Nat)) (s : State) : State :=
  if !powered s then s
  else
    let s := (List.range 64).foldl countAsked { s with pwr := { s.pwr with
      vin := mv, iin := ma, lowPosted := s.pwr.lowPosted && inDip mv, pin := (mv.toNat * ma / 1000000 :: s.pwr.pin).take 10 } }
    let eff := effLimit s
    let cl := inputClamps s
    let fresh := cl && !s.pwr.clamped
    let s := { s with pwr := { s.pwr with eff := eff, clamped := cl, alloc := allocate s ((eff - fixedW) * 1000) demand } }
    let arbs := (demand.filter (fun d => d.1 < 64)).map (fun d =>
      (d.1, arbPeriod (railLimit s d.1) (leakOf s d.1 ((List.range 8).map (· + 8 * d.1) ++ [512 + d.1])) d.2))
    let s := { s with pwr := { s.pwr with
      arb := arbs.foldl (fun t a => tset t a.1 a.2.1) s.pwr.arb
      hold := arbs.foldl (fun l a => sput l a.1 a.2.2) s.pwr.hold } }
    if fresh then detect s 0x305 0 8 0 0 [] else s
def execPowerAllocation (inputMv inputMa fixedW : Nat) (demand : List (Nat × Nat)) (s : State) : Host.Outcome State Fault Refusal :=
  if inputRated inputMv then .next (keepPower s (allocation inputMv inputMa fixedW demand s)) else .fault .overStress

/-! Switched domains (R409 to R412). -/
def setDom (s : State) (d : Nat) (x : Dom) : State := { s with pwr := { s.pwr with doms := tset s.pwr.doms d x } }
/-- Rail and inrush reservation in mA. -/
def domRail (d : Nat) : Nat :=
  if d < 512 then d / 8 else if d < 576 then d - 512 else if d < 960 then 64 + (d - 576) / 48
  else if d < 984 then 72 + (d - 960) / 3 else if d < 1002 then 81 + (d - 984) / 6
  else if d < 1003 then 80 else if d < 1019 then 80 + (d - 1003) / 4 else 80
def domInrush (d : Nat) : Nat :=
  if d < 512 then 6000 else if d < 576 then 4000 else if d < 960 then 2000 else if d < 984 then 3000 else 2000
/-- A domain of the rail is ramping. -/
def ramping (s : State) (r : Nat) : Bool := s.pwr.doms.any (fun d => d.2.st == 1 && domRail d.1 == r)
/-- What asks for a domain in service (R411): a set placed on the core, a core of the cluster about to start, an enabled port.
A core waits for its cluster's common domain. -/
def wanted (s : State) (d : Nat) : Bool :=
  if d < 512 then !(coreOf s d).sets.isEmpty && (domOf s (512 + d / 8)).st == 2
  else if d < 576 then (List.range 8).any (fun c => !(coreOf s (8 * (d - 512) + c)).sets.isEmpty)
  else if 984 ≤ d && d < 1002 then (portOf s (d - 984)).enable
  else false
/-- The header switches begin to close. -/
def startRamp (s : State) (d : Nat) : State :=
  let s := setDom s d { st := 1 }
  { s with pwr := { s.pwr with wait := s.pwr.wait.filter (· != d) } }
def fits (s : State) (r estMa d : Nat) : Bool := !ramping s r && estMa + domInrush d ≤ railLimit s r
/-- R410 steps 1 to 3, R412: the request is granted at once or waits; one made during a shutdown is latched. -/
def powerUp (d estMa : Nat) (s : State) : State :=
  if !powered s || !wanted s d || s.pwr.railOff.contains (domRail d) || domBad s d then s
  else match (domOf s d).st with
    | 0 => if s.pwr.wait.contains d then s else if fits s (domRail d) estMa d then startRamp s d
           else { s with pwr := { s.pwr with wait := s.pwr.wait ++ [d] } }
    | 3 => setDom s d { st := 3, pend := true }
    | _ => s
def execDomainPowerUp (domain estMa : Nat) (s : State) : Host.Outcome State Fault Refusal := .next (keepPower s (powerUp domain estMa s))
/-- The waiting requests of a rail in the rotating order of R273. -/
def nextWaiting (s : State) (r : Nat) : Option Nat :=
  let w := distinct (s.pwr.wait.filter (fun d => domRail d == r))
  let p := tget s.pwr.ptr 0 r
  match w.find? (fun d => p ≤ d) with
  | some d => some d
  | none => w.head?
/-- R410: a waiting request is granted when the estimate allows. -/
def grantDom (rail estMa : Nat) (s : State) : State :=
  match nextWaiting s rail with
  | none => s
  | some d =>
    if fits s rail estMa d then
      let s := startRamp s d
      { s with pwr := { s.pwr with ptr := tset s.pwr.ptr rail (if d + 1 = 1020 then 0 else d + 1) } }
    else s
def execDomainGrant (rail estMa : Nat) (s : State) : Host.Outcome State Fault Refusal := .next (keepPower s (grantDom rail estMa s))
/-- R410 step 4: at 50 µs the arbiter forces ÷6 for the ramp and grants, as the estimate at ÷6 allows. -/
def grantForced (d estMa : Nat) (s : State) : State :=
  if !s.pwr.wait.contains d then s
  else
    let r := domRail d
    let s := if r < 64 then { s with pwr := { s.pwr with ramp6 := sadd s.pwr.ramp6 r } } else s
    if fits s r estMa d then startRamp s d else s
def execDomainGrantTimeout (domain estMa : Nat) (s : State) : Host.Outcome State Fault Refusal :=
  .next (keepPower s (grantForced domain estMa s))
/-- A core whose domain came up holds free contents (R411). -/
def coreOn (s : State) (core : Nat) : State :=
  let c := coreOf s core
  let g := s.free + 1
  setCore { s with free := g } core { c with ls := [], lsGen := g, lsPois := [], marks := [], l1 := [], regClean := false
                                             grps := c.grps.map (fun x => (x.1, { x.2 with gen := g })) }
/-- R410 step 5: the ramp ends. Below 95 % of the rail the domain is opened, posted and recorded; a core's sets then end as
at a core reset (log entry 33). -/
def rampDone (d percent : Nat) (s : State) : State :=
  if (domOf s d).st != 1 then s
  else
    let r := domRail d
    let s := if s.pwr.ramp6.contains r then
        countStretch { s with pwr := { s.pwr with ramp6 := sdel s.pwr.ramp6 r } } r 6 2000 else s
    if percent ≥ 95 then
      let s := setDom s d { st := 2 }
      if d < 512 then coreOn s d else s
    else
      let s := recordDefect (setDom s d {}) (.domain d)
      let s := { s with pwr := { s.pwr with domFail := sadd s.pwr.domFail d } }
      let s := if d < 512 then coreReset s d else s
      detect s 0x307 2 (if d < 512 then partOfTent s (d / 64) else railPart s r) d 0 []
def execDomainRampDone (domain percent : Nat) (s : State) : Host.Outcome State Fault Refusal := .next (rampDone domain percent s)
/-- R411: a core that has held no set for PWR_IDLE.CORE_US is switched off; a disable cancels a latched enable (R412). -/
def idleOff (core us : Nat) (s : State) : State :=
  let x := domOf s core
  if !(coreOf s core).sets.isEmpty || idleUs s = 0 || us < idleUs s then s
  else if x.st = 2 then setDom s core { st := 3 }
  else if x.st = 3 then setDom s core { st := 3 } else s
def execCoreIdleOff (core us : Nat) (s : State) : Host.Outcome State Fault Refusal := .next (keepPower s (idleOff core us s))
/-- R411, R412: the shutdown completes; a core loses its contents, its cluster's common domain follows the last core, and a
latched enable is carried out afresh. The core's next set, and the cluster at once, take a new role epoch (R281). -/
def shutDone (d : Nat) (s : State) : State :=
  let x := domOf s d
  if x.st != 3 then s
  else
    let s := setDom s d {}
    let s := if x.pend then { s with pwr := { s.pwr with wait := s.pwr.wait ++ [d] } } else s
    if d < 512 then
      let s := setCore s d { clearedCore (coreOf s d) with handover := true }
      let k := d / 8
      if (List.range 8).all (fun c => (domOf s (8 * k + c)).st == 0) && (tget s.krn.combq [] k).isEmpty && (domOf s (512 + k)).st = 2
      then setDom s (512 + k) { st := 3 } else s
    else if d < 576 then bumpEpoch s d else s
def keepDomain (s t : State) : State := { s with pwr := t.pwr, krn := t.krn, fab := { s.fab with epoch := t.fab.epoch } }
def execDomainShutdownDone (domain : Nat) (s : State) : Host.Outcome State Fault Refusal := .next (keepDomain s (shutDone domain s))

/-- R417: loss of lock holds every divider; TRIPPED with cause CLOCK. -/
def clockLost (s : State) : State := if powered s then tripDown s 3 0 0 else s
def execClockLoss (s : State) : Host.Outcome State Fault Refusal := .next (clockLost s)

end Sys2Proof.Machine
end

