-- ==== Sys2Proof/Machine/Fabric.lean ====
section
/-! DEFINITION. Poles (R228 to R239), the lateral edges in service (R268 to R271) and the bytes of a request (R279). -/
namespace Sys2Proof.Machine

def keepFab (s t : State) : State := { s with fab := t.fab, evt := t.evt }

/-! Beats (R228 to R231). A wire's value is the bit of its functional index. -/
def beatValid (b : PoleBeat) : Bool := bit b 528
def beatSeq (b : PoleBeat) : Nat := bits b 529 3
def isReplay (b : PoleBeat) : Bool := bit b 532
def isSecondHalf (b : PoleBeat) : Bool := bit b 533
def withReplay (b : PoleBeat) : PoleBeat := setBit b 532 true
/-- The data wires that carry a beat: all of them, or in HALF the 256 good ones of the second mux level, the lowest (R236). -/
def dataWires (p : Pole) : List Nat :=
  if p.st = 2 then ((List.range 512).filter (fun w => !(unrepaired p.wires).contains w)).take 256 else List.range 512
/-- R230: CRC-16 of 0x1021 from 0xFFFF over the data from D0 upward, then K0 to K6. -/
def crc16 (l : List Bool) : Nat :=
  l.foldl (fun c b => let d := 2 * c % 65536; if bit c 15 != b then d ^^^ 0x1021 else d) 0xFFFF
def beatOk (p : Pole) (b : PoleBeat) : Bool :=
  crc16 ((dataWires p ++ (List.range 7).map (· + 528)).map (bit b)) == bits b 512 16
/-- The sender's buffer after further beats: the last eight. -/
def lastEight (l : List PoleBeat) : List PoleBeat := l.drop (l.length - 8)
/-- The beats to resend from a SEQ on, with REPLAY set: none where the buffer does not hold it. -/
def resendFrom (buf : List PoleBeat) (seq : Nat) : List PoleBeat :=
  (buf.dropWhile (fun b => beatSeq b != seq)).map withReplay
/-- A beat passes its check: the receiver moves on, and the run of failures of that beat is over. In HALF the beat is whole
with its second half. -/
def beatPass (pole : Nat) (p : Pole) (got : PoleBeat) (s : State) : State :=
  if p.st = 2 && !isSecondHalf got then setPole s pole { p with discard := false }
  else setPole s pole { p with
    discard := false, rx := (p.rx + 1) % 8, beat := if p.beat.1 == p.rx then (0, 0) else p.beat
    again := if isReplay got then p.again.drop 1 else p.again }
/-- A beat fails its check: it is discarded with every later one until REPLAY, (Pole, SEQ) goes back to the sender, and the
sender resends. Three failures within 1 µs, or eight of one beat, queue a test (R231 to R233). -/
def beatBad (pole : Nat) (p : Pole) (s : State) : State :=
  let same := p.beat.1 == p.rx && p.beat.2 > 0
  let n := if same then p.beat.2 + 1 else 1
  let recent := (s.tick :: p.recent).take 3
  let s := setPole s pole { p with
    fails := sat 32 (p.fails + 1), beat := (p.rx, n), recent := recent, discard := true, again := resendFrom p.buf p.rx }
  let s := { s with fab := { s.fab with replays := s.fab.replays ++ [(pole, p.rx)] } }
  let three : Bool := match recent with
    | [a, _, c] => decide (a ≤ c + 100)
    | _ => false
  if three || n ≥ 8 then { s with fab := { s.fab with testq := sadd s.fab.testq pole } } else s
/-- A beat arrives, after the beats `sent` that its sender has put into the replay buffer: every beat with VALID set is checked,
but while the receiver discards. A FENCED or CUT Pole carries none of its own. -/
def beatArrive (pole : Nat) (sent : List PoleBeat) (got : PoleBeat) (s : State) : State :=
  let p := poleOf s pole
  if s.dev.st == .stowed || s.dev.st == .tripped || p.st ≥ 3 then s
  else
    let p := { p with buf := lastEight (p.buf ++ sent) }
    if !beatValid got || (p.discard && !isReplay got) then setPole s pole p
    else if beatOk p got then beatPass pole p got s else beatBad pole p s
def execPoleBeatFail (pole : Nat) (sent : List PoleBeat) (s : State) (got : PoleBeat := 0) : Host.Outcome State Fault Refusal :=
  .next (keepFab s (beatArrive pole sent got s))

/-- The next Pole of a Tent to be tested, in rotating order (R233, R273). -/
def nextTest (s : State) (t : Nat) : Option Nat :=
  let q := s.fab.testq.filter (fun p => p / 1024 == t)
  match q.find? (fun p => tget s.fab.testPtr 0 t ≤ p) with
  | some p => some p
  | none => q.head?
/-- A column is retired (R237): its cluster is reset, its Poles are CUT and wait for no test, its slices' dirty lines are
written back and they hold nothing from then on; the Plot migration is due. -/
def retireColumn (s : State) (k pole : Nat) : State :=
  let s := clusterReset s k
  let s := ((List.range 8).map (· + 8 * k) ++ [512 + k]).foldl (fun s d => setDom s d {}) s
  let s := cutPoles s k
  let slices := (List.range 6).map (· + (48 * (k / 8) + 6 * (k % 8)))
  let s := (s.mem.lines.filter (fun l => slices.contains l.slice)).foldl (fun s l => dropLine (writeBack s l.line) l.line) s
  let s := { s with fab := { s.fab with cut := sadd s.fab.cut k, cutNow := sadd s.fab.cutNow k, migrate := sadd s.fab.migrate k
                                        testq := s.fab.testq.filter (fun p => p / 128 != k) } }
  detect s 0x124 2 (partOfTent s (k / 8)) pole 0 []
/-- A Pole takes up newly found failing wires: it moves down the ladder and never up, and what changed is recorded (R234, R235).
A Pole that becomes FENCED has its replay buffer resent through its buddy (R236). -/
def poleFound (s : State) (pole : Nat) (failing : List Nat) : State :=
  let p := poleOf s pole
  let ws := failing.foldl sadd p.wires
  let n := { p with wires := ws, st := Nat.max p.st (poleState ws) }
  if n = p then s
  else
    let s := poleStep (recordDefect (setPole s pole n) (.pole pole n.st ws)) pole p n
    if n.st = 3 && p.st != 3 then
      let b := poleOf s (buddy pole)
      setPole (setPole s (buddy pole) { b with again := b.again ++ p.buf.map withReplay }) pole { n with buf := [], again := [] }
    else s
/-- The in-service test of a Pole (R233): the failing wires found are repaired, or it is clean; a Pole FENCED beside a FENCED
buddy takes its column with it. -/
def poleTested (pole : Nat) (failing : List Nat) (s : State) : State :=
  let t := pole / 1024
  let p := poleOf s pole
  if nextTest s t != some pole || p.st = 4 then s
  else
    let s := { s with fab := { s.fab with testq := sdel s.fab.testq pole, testPtr := tset s.fab.testPtr t ((pole + 1) % 8192) } }
    let s := setPole s pole { p with beat := (0, 0), recent := [] }
    if failing = [] then detect s 0x121 0 (partOfTent s t) pole 0 []
    else
      let s := poleFound s pole failing
      if (poleOf s pole).st = 3 && (poleOf s (buddy pole)).st = 3 then retireColumn s (pole / 128) pole else s
def execPoleTest (pole : Nat) (failing : List Nat) (s : State) : Host.Outcome State Fault Refusal := .next (poleTested pole failing s)

/-- A Plot line in a retired column is read to be copied: an upset byte reaches the relief line as a mark (R223, R238). -/
def copyUpsets (s : State) (t : Nat) (cols : List Nat) : State :=
  (s.mem.upset.filter (fun u => inPlot u.1 && plotTent u.1 == t && cols.contains (8 * t + plotOff u.1 % wayBytes / 128 % 48 / 6))).foldl
    (fun s u => parity s u.1 0 9 t) s
/-- R238: the relief ways are evicted, the lines copied and the map switched. -/
def migrate (t : Nat) (s : State) : State :=
  if !s.fab.migrate.any (fun k => k / 8 == t) then s
  else
    let cols := s.fab.migrate.filter (fun k => k / 8 == t)
    let s := copyUpsets s t cols
    let s' := { s with fab := { s.fab with relief := cols.foldl sadd s.fab.relief
                                           migrate := s.fab.migrate.filter (fun k => k / 8 != t) } }
    (s'.mem.lines.filter (fun l => l.slice / 48 == t && !(waysOf s' l.slice l.set).contains l.way)).foldl
      (fun s l => dropLine (writeBack s l.line) l.line) s'
def keepMigrate (s t : State) : State :=
  { s with fab := t.fab, mem := t.mem, hbm := t.hbm, evt := t.evt }
def execPlotMigration (tent : Nat) (s : State) : Host.Outcome State Fault Refusal := .next (keepMigrate s (migrate tent s))

/-- A module lower than another figure: slower or narrower. -/
def lower (a b : Nat × Nat) : Bool := a.1 < b.1 || a.2 < b.2
/-- R269 to R271: a module has retrained in service, or failed and stays disabled until the next start. A lower figure degrades
the partitions whose traffic crosses the edge, and posts EV_LATERAL_DEGRADED; with no module left the edge is down instead,
FATAL to them. -/
def moduleRetrain (e m rate width : Nat) (s : State) : State :=
  let old := moduleOf s e m
  if (s.dev.st != .pitched && s.dev.st != .open_) || m ≥ edgeModules e || !edgeUp s e || old.2 = 0 then s
  else
    let new := accepted rate width
    let d := le 1 m ++ le 1 new.1 ++ le 1 new.2
    let s := { s with fab := { s.fab with mods := if new = (32, 64) then tdel s.fab.mods (16 * e + m) else tset s.fab.mods (16 * e + m) new } }
    let ps := (parts s).filter (fun p => crosses s p e)
    let s := if lower new (32, 64) then { s with fab := { s.fab with degraded := ps.foldl sadd s.fab.degraded } } else s
    if trained s e = 0 then
      let s := { s with fab := { s.fab with downSvc := sadd s.fab.downSvc e } }
      if ps = [] then detect s 0x502 2 8 (edgeUnit e) 0 d
      else ps.foldl (fun s p => detect s 0x502 3 p (edgeUnit e) 0 d) s
    else
      let s := if lower new old then detect s 0x501 0 8 (edgeUnit e) 0 d else s
      if new.2 != 0 then detect s 0x503 0 8 (edgeUnit e) 0 d else s
def execLateralModuleRetrain (edge module rate width : Nat) (s : State) : Host.Outcome State Fault Refusal :=
  .next (keepFab s (moduleRetrain edge module rate width s))
/-! Token buckets (R279). -/
/-- Data bytes that a request moves, rounded up to 64. -/
def reqBytes (s : State) (r : MemReq) : Nat :=
  match r.act with
  | .read =>
    match r.src with
    | .core c => match outstOf (coreOf s c) r.id with
      | some o => up64 (distinct (o.lanes.flatMap (fun x => (List.range o.width).map (· + x.2)))).length
      | none => 64
    | .prefetch _ => 128
  | .write bs _ => up64 bs.length
  | .atom _ w64 _ _ _ _ => up64 (2 * if w64 then 8 else 4)
  | .red op ty xs _ => up64 (redBytes op ty * xs.length)

end Sys2Proof.Machine
end

