-- ==== Sys2Proof/Machine/Hbm.lean ====
section
/-! DEFINITION. HBM3E controllers: sector outcomes (R249, R260, R261), row remapping (R254, R255), refresh management
(R256) and the thermal policy (R257 to R259). -/
namespace Sys2Proof.Machine

/-- A sector scrubbed (R260, R261): the state and 0 clean, 1 corrected, 2 newly uncorrectable, 3 already poisoned. What
decodes corrected is rewritten. -/
def scrubSector (s : State) (pa : Nat) (found : Sector) (kind idx : Nat) : State × Nat :=
  let v := sectorVerdict s pa found
  let s := countBursts { s with hbm := { s.hbm with rewrite := sdel s.hbm.rewrite (pa / 64) } } pa found
  match v with
  | .clean _ => (s, 0)
  | .poisoned => (s, 3)
  | .corrected _ e => (correctedEvents (putSector s pa (sectorOut s pa v).1 false) pa kind idx e, 1)
  | .uncorrectable =>
    let s := noteRow s pa true
    let unc (s : State) : State := chEvent (countUnc s pa) 0x131 (uncSev s pa) pa kind idx
    let mask (s : State) : State := putSector s pa (sectorData s pa) true
    match resident s (lineOf pa) with
    | some l =>
      if l.dirty then (unc s, 2)
      else if bit (lineVal s (lineOf pa)).pois (pcAt pa) then (unc (mask s), 2)
      else
        let b := slice l.data (64 * pcAt pa) 64
        (chEvent (countCorr (putSector s pa b false) pa) 0x130 0 pa kind idx, 1)
    | none => (unc (mask s), 2)

/-- What the controllers' own commands may change. -/
def keepHbm (s t : State) : State :=
  { s with hbm := t.hbm, mem := t.mem, evt := t.evt, boot := t.boot, thm := { s.thm with above := t.thm.above } }

/-- Bank, row and stack ID of a row key (R244). -/
def rowDefect (ch key spare : Nat) : Defect := .hbmRemap ch 0 (key / 16 % 4) (key % 4) (key / 4 % 4) (key / 64) spare
/-- Step 3 of R254 on one sector: it is read and decoded, and written to the spare, with the poison mask where it decodes
uncorrectable or poisoned. -/
def moveSector (s : State) (pa : Nat) (found : Sector) (ch : Nat) : State :=
  let o := sectorOut s pa (sectorVerdict s pa found)
  putSector (readSector s pa found 8 (ch / 48)) pa o.1 o.2
/-- The 32 sectors of a row, in order; `found` lists what they show by their place. -/
def moveRow (s : State) (ch key : Nat) (found : List (Nat × Sector)) : State :=
  (((rowLines ch key).flatMap (fun l => [l, l + 64])).zipIdx).foldl (fun s x => moveSector s x.1 ((tfind found x.2).getD {}) ch) s
/-- R254, R255: a candidate row moves to the lowest free spare, its sectors copied, or stays in use as unrepaired. -/
def remap (ch key : Nat) (found : List (Nat × Sector)) (s : State) : State :=
  let c := chanOf s ch
  if !powered s || tget c.corr 0 key < 8 || c.unrep.contains key then s
  else
    let pa := lineAt ch (16 * key)
    let used := c.remap.map (·.2)
    match (List.range 1572).find? (fun i => !used.contains i) with
    | some i =>
      let s := moveRow s ch key found
      let c := chanOf s ch
      let s := setChan s ch { c with remap := tset c.remap key i, corr := tdel c.corr key }
      chEvent (recordDefect s (rowDefect ch key i)) 0x132 0 pa 8 (ch / 48)
    | none =>
      let s := recordDefect (setChan s ch { c with unrep := sadd c.unrep key, sparesOut := true })
        (.hbmUnrepaired ch 0 (key / 16 % 4) (key % 4) (key / 4 % 4) (key / 64))
      if c.sparesOut then s else chEvent s 0x133 2 pa 8 (ch / 48)
where
  powered (s : State) : Bool := s.dev.st != .stowed && s.dev.st != .tripped
def execRowRemap (channel row : Nat) (s : State) (found : List (Nat × Sector) := []) : Host.Outcome State Fault Refusal :=
  .next (keepHbm s (remap channel row found s))

/-- R256: activations of a bank, those held first, join its rolling count up to the maximum threshold, and the rest is held. At
the initial threshold a refresh-management command is issued and takes the threshold off the count (log entry 34). -/
def refreshMgmt (ch pc bank count : Nat) (s : State) : State :=
  let c := chanOf s ch
  let k := 64 * pc + bank
  let all := tget c.raa 0 k + tget c.held 0 k + count
  let n := Nat.min all (Config.raaMax (ch / 16))
  let init := Config.raaInitial (ch / 16)
  let c := { c with held := if all - n = 0 then tdel c.held k else tset c.held k (all - n) }
  if n ≥ init then setChan s ch { c with raa := tset c.raa k (n - init), rfm := c.rfm + 1 }
  else setChan s ch { c with raa := tset c.raa k n }
def execRefreshManagement (channel pc bank count : Nat) (s : State) : Host.Outcome State Fault Refusal :=
  .next (keepHbm s (refreshMgmt channel pc bank count s))

/-! Temperature (R257 to R259). -/
def thermalRow (c : Int) : Nat := if c < 85 then 0 else if c < 95 then 1 else if c < 100 then 2 else 3
/-- T_mid in mK over 0 °C (R258). -/
def tMid (s : State) (k : Nat) (rep : Int) (watts : Nat) : Int :=
  let gs := regionMax s (64 + k / 3) * 250
  let exc := gs - 1000 * rep
  1000 * rep + ((Config.stackTheta k * watts : Nat) : Int) + (if exc > 0 then (Config.stackKappa k : Int) * exc / 1000 else 0)
/-- The refresh rate, as a multiple of tREFI 3.9 µs, and the bandwidth cap in per cent that a stack's row and hidden heat set
(R257, R258). -/
def refreshRate (x : Stack) : Nat := ([1, 2, 4, 4] : List Nat).getD x.row 4 * if x.hidden then 2 else 1
def bandwidthCap (x : Stack) : Nat :=
  let c := ([100, 100, 75, 50] : List Nat).getD x.row 50
  if x.hidden then Nat.min c 50 else c
/-- Bytes of data bursts that a stack may carry in each 1 µs window. -/
def windowBytes (x : Stack) : Nat := bandwidthCap x * 12288
def condA (x : Stack) : Bool := x.tmid ≥ 95000
def condB (x : Stack) : Bool := x.counts.length ≥ 3 && (x.counts.take 3).all (fun n => n ≥ 4 * baseline x)
/-- Entry into hidden heat, posted once with the conditions that hold (R258). -/
def hiddenEntry (s : State) (k : Nat) : State :=
  let x := stackOf s k
  if x.hidden || !(condA x || condB x) then s
  else detect (setStack s k { x with hidden := true }) 0x420 0 (partOfTent s (k / 3)) (16 * k) 0
    (le 1 (b2n (condA x) + 2 * b2n (condB x)) ++ le 1 0 ++ le 2 (ofS 16 (x.tmid / 250)))
/-- R259: the conditions for leaving hidden heat, and since when they have held. -/
def isClear (x : Stack) : Bool := x.tmid ≤ 92000 && x.counts.headD 0 < 2 * baseline x
def noteClear (s : State) (k : Nat) : State :=
  let x := stackOf s k
  setStack s k { x with clearAt := if isClear x then some (x.clearAt.getD s.tick) else none }
/-- The 10 ms reading: the row of R257, T_mid and hidden heat. -/
def stackRead (k : Nat) (c : Int) (watts : Nat) (s : State) : State :=
  let x := stackOf s k
  let r := thermalRow c
  let s := setStack s k { x with rep := c, row := r, tmid := tMid s k c watts }
  let s := if r != x.row then detect s 0x421 0 (partOfTent s (k / 3)) (16 * k) 0 (le 1 r) else s
  noteAbove (noteClear (hiddenEntry s k) k)
/-- A report of 105 °C or more is the hardware trip (R257, R426). -/
def execHbmThermalRead (stack : Nat) (degC : Int) (watts : Nat) (s : State) : Host.Outcome State Fault Refusal :=
  if s.dev.st == .stowed || s.dev.st == .tripped then .next s
  else if degC ≥ 105 then .next (tripDown s 1 31 stack)
  else .next (keepHbm s (stackRead stack degC watts s))
/-- Damage comes about in stored sectors of the stack, on top of what stands there (log entry 73). -/
def addDamage (s : State) (k : Nat) (l : List (Nat × List (Nat × Nat))) : State :=
  l.foldl (fun s e =>
    if chanAt (64 * e.1) / 16 != k || 64 * e.1 ≥ hbmEnd then s
    else
      let p := patNorm (tget s.mem.flaw [] e.1 ++ e.2)
      { s with mem := { s.mem with flaw := if p.isEmpty then tdel s.mem.flaw e.1 else tset s.mem.flaw e.1 p } }) s
/-- A one-second window of inner-code corrected bits closes: those counted, and `extra` of bursts that no command brought in.
Condition B, and the baseline outside hidden heat below 85 °C (R258). -/
def errorWindow (k extra : Nat) (s : State) : State :=
  let x := stackOf s k
  let count := x.win + extra
  let x := { x with win := 0, counts := (count :: x.counts).take 10 }
  let s := noteClear (hiddenEntry (setStack s k x) k) k
  let x := stackOf s k
  if x.hidden || x.rep ≥ 85 then s else setStack s k { x with base := (count :: x.base).take 3600 }
def execHbmErrorWindow (stack extra : Nat) (s : State) (damage : List (Nat × List (Nat × Nat)) := []) :
    Host.Outcome State Fault Refusal :=
  .next (keepHbm s (errorWindow stack extra (addDamage s stack damage)))
/-- R259: ten seconds clear without interruption end hidden heat. -/
def hiddenExit (k : Nat) (s : State) : State :=
  let x := stackOf s k
  if x.hidden && x.clearAt.elim false (fun t => t + 1000000000 ≤ s.tick) then setStack s k { x with hidden := false } else s
def execHiddenHeatExit (stack : Nat) (s : State) : Host.Outcome State Fault Refusal := .next (keepHbm s (hiddenExit stack s))

/-- R260: the patrol reads one sector of a line in service. -/
def patrol (ch line half : Nat) (found : Sector) (s : State) : State :=
  let pa := lineAt ch line + 64 * (half % 2)
  if s.dev.st == .stowed || s.dev.st == .tripped || outOfService s pa then s else (scrubSector s pa found 8 (ch / 48)).1
def execPatrolScrub (channel line half : Nat) (found : Sector) (s : State) : Host.Outcome State Fault Refusal :=
  .next (keepHbm s (patrol channel line half found s))

end Sys2Proof.Machine
end

