-- ==== Sys2Proof/Machine/Thermal.lean ====
section
/-! DEFINITION. Temperature and thermal protection (R419 to R430) and bond wear (R240, R241). -/
namespace Sys2Proof.Machine

/-- What the thermal loop may change. -/
def keepThermal (s t : State) : State := { s with thm := t.thm, evt := t.evt, boot := t.boot, pwr := t.pwr }
/-- A raw reading in 0.25 °C within the limits of R419. -/
def clampTemp (q : Int) : Int := if q < -160 then -160 else if q > 600 then 600 else q
def targetQ (s : State) : Int := 4 * (thmTarget s : Int)
def regionsBelow (s : State) (q : Int) : Bool := (List.range 76).all (fun r => regionMax s r ≤ q)

/-- A region that has become capped is posted once (R423). -/
def noteCap (s : State) (r : Nat) : State :=
  if capped s r && !s.thm.capped.contains r then
    detect { s with thm := { s.thm with capped := sadd s.thm.capped r } } 0x404 2 8 r 0 []
  else s
/-- R420: the sample of every sensor and of the lid; a lid above 70 °C posts once per start (R430), and so does a region that
the Ledger's exclusions cap from the first sample (R422, R423). -/
def sample (readings : List (Nat × Int)) (lid : Int) (s : State) : State :=
  if !powered s then s
  else
    let s := { s with thm := { s.thm with temp := readings.foldl (fun (t : Tab Int) (r : Nat × Int) => tset t r.1 (clampTemp r.2)) s.thm.temp
                                          lid := clampTemp lid } }
    let s := (List.range 76).foldl noteCap s
    let s := noteAbove { s with thm := { s.thm with clear := s.thm.clear && regionsBelow s (targetQ s - 12) } }
    if clampTemp lid > 280 && !s.thm.lidPosted then
      detect { s with thm := { s.thm with lidPosted := true } } 0x407 0 8 0 0 []
    else s
def execSensorSample (readings : List (Nat × Int)) (lid : Int) (s : State) : Host.Outcome State Fault Refusal :=
  .next (keepThermal s (sample readings lid s))

/-- Insertion into an ascending list. -/
def ins (x : Int) : List Int → List Int
  | [] => [x]
  | y :: r => if x ≤ y then x :: y :: r else y :: ins x r
/-- Twice the median of a list: the sum of its two middle members. -/
def median2 (l : List Int) : Int :=
  let v := l.foldl (fun a x => ins x a) []
  v.getD ((v.length - 1) / 2) 0 + v.getD (v.length / 2) 0
/-- Readings of a sensor's neighbours (R422). -/
def neighbours (s : State) (i : Nat) : List Int :=
  ((regionSensors (regionOfSensor i)).filter (fun j => j != i && !s.thm.excl.contains j)).map (tget s.thm.temp 0)
/-- The neighbours agree, and the sensor differs from their median by more than 8 K (R422). -/
def outlier (s : State) (i : Nat) : Bool :=
  let ns := neighbours s i
  let m := median2 ns
  !ns.isEmpty && (ns.filter (fun x => (2 * x - m).natAbs ≤ 32)).length * 4 ≥ 3 * ns.length &&
    (2 * tget s.thm.temp 0 i - m).natAbs > 64
/-- R422, R423: the sensor is excluded, recorded and posted; its region may become capped. -/
def suspect (i us : Nat) (s : State) : State :=
  if powered s && i < 1184 && us > 100000 && !s.thm.excl.contains i && outlier s i then
    let r := regionOfSensor i
    let d := le 2 (ofS 16 (tget s.thm.temp 0 i)) ++ le 2 (ofS 16 (median2 (neighbours s i) / 2))
    let s := recordDefect { s with thm := { s.thm with excl := sadd s.thm.excl i } } (.sensor i)
    noteCap (detect s 0x403 0 8 i 0 d) r
  else s
def execSensorSuspect (sensor us : Nat) (s : State) : Host.Outcome State Fault Refusal := .next (keepThermal s (suspect sensor us s))

/-! The throttle (R424). -/
def anyHot (s : State) : Bool :=
  (List.range 76).any (fun r => regionMax s r > targetQ s) || s.hbm.stk.any (fun k => k.2.rep ≥ 100)
/-- The level after a 5 ms tick. -/
def nextLevel (hot tick20 clear : Bool) (n : Nat) : Nat :=
  if hot then Nat.min 64 (n + 2) else if tick20 && clear then n - 1 else n
/-- The first region above target, for the UNIT of the throttle's events. -/
def hotRegion (s : State) : Nat := ((List.range 76).find? (fun r => regionMax s r > targetQ s)).getD 0
def throttle (s : State) : State :=
  if !powered s then s
  else
    let ph := (s.thm.phase + 1) % 4
    let hot := anyHot s
    let n := s.thm.level
    let n' := nextLevel hot (ph = 0) s.thm.clear n
    let s := { s with thm := { s.thm with level := n', phase := ph, clear := if ph = 0 then !hot && regionsBelow s (targetQ s - 12)
                                                                           else s.thm.clear && !hot } }
    let s := if n = 0 && n' > 0 then detect s 0x401 0 8 (hotRegion s) 0 [] else s
    let s := if n > 0 && n' = 0 then detect { s with thm := { s.thm with floorPosted := false } } 0x402 0 8 0 0 [] else s
    if hot && n = 64 && !s.thm.floorPosted then
      detect { s with thm := { s.thm with floorPosted := true } } 0x406 2 8 (hotRegion s) 0 []
    else s
def execThrottleTick (s : State) : Host.Outcome State Fault Refusal := .next (keepThermal s (throttle s))

/-- R425: what a maximum above target asks of an arbiter: 0 none, 1 ÷5 on every second period, 2 ÷5, 3 ÷6. -/
def floorOf (exc : Int) : Nat := if exc ≤ 12 then 0 else if exc ≤ 24 then 1 else if exc ≤ 36 then 2 else 3
def floors (s : State) : State :=
  if !powered s then s
  else { s with pwr := { s.pwr with floor := (List.range 64).foldl (fun t k =>
      let f := Nat.max (floorOf (regionMax s k - targetQ s)) (floorOf (regionMax s (64 + k / 8) - targetQ s))
      if f = 0 then tdel t k else tset t k f) s.pwr.floor } }
def execThermalFloor (s : State) : Host.Outcome State Fault Refusal := .next (keepThermal s (floors s))

/-- R426: two sensors of one die above 115 °C in one sample, or a stack report of 105 °C. -/
def tripFires : TripSource → Bool
  | .junction _ l => (l.filter (fun x => x.2 > 460)).length ≥ 2
  | .stack _ c => c ≥ 105
def tripDie : TripSource → Nat
  | .junction d _ => d
  | .stack _ _ => 31
/-- The first sensor of the die above the limit, or the stack. -/
def tripSensor : TripSource → Nat
  | .junction _ l => ((l.find? (fun x => x.2 > 460)).map (·.1)).getD 0
  | .stack k _ => k
/-- A rail or clock trip of the same SCLK cycle gives its cause up to THERMAL (R427). -/
def thermalTripped (src : TripSource) (s : State) : State :=
  if !tripFires src then s
  else if powered s then tripDown s 1 (tripDie src) (tripSensor src)
  else if s.dev.st == .tripped && s.pwr.tripNow && !s.pwr.thermtrip then
    { s with pwr := { s.pwr with thermtrip := true
                                 trip := if s.pwr.aux then (1, tripDie src, tripSensor src) else s.pwr.trip } }
  else s
def execThermalTrip (src : TripSource) (s : State) : Host.Outcome State Fault Refusal := .next (thermalTripped src s)

/-- R428, R429: after 60 s, with a lid at 55 °C or below, the carrier's controller releases the converter, unless it
holds it off; a thermistor that does not read (none) makes it hold off. Seconds join the ages of the trips. -/
def restart (secs : Nat) (lid : Option Int) (s : State) : State :=
  let cool : Bool := match lid with
    | some q => decide (q ≤ 220)
    | none => false
  if s.pwr.tripOff && s.pwr.aux && !s.pwr.holdOff && secs ≥ 60 && cool then
    let t := if s.dev.st == .tripped then stow s else s
    { t with pwr := { t.pwr with tripOff := false, thermtrip := false, trips := t.pwr.trips.map (· + secs) } }
  else if s.pwr.tripOff && lid.isNone then { s with pwr := { s.pwr with holdOff := true } }
  else s
def execTripRestart (secs : Nat) (lid : Option Int) (s : State) : Host.Outcome State Fault Refusal := .next (restart secs lid s)

/-! Bond wear (R240). -/
/-- Mean of a Tent's Canopy and Groundsheet sensors in mK. -/
def bondTemp (s : State) (t : Nat) : Option Int :=
  let is := (((List.range 8).flatMap (fun k => regionSensors (8 * t + k))) ++ regionSensors (64 + t)).filter
    (fun i => !s.thm.excl.contains i)
  if is.isEmpty then none
  else some (((is.map (tget s.thm.temp 0)).foldl (· + ·) 0) * 250 / (is.length : Int))
/-- Bin of a range in mK, 5 for below 15 K. -/
def wearBin (r : Nat) : Nat :=
  if r < 15000 then 5 else if r < 20000 then 0 else if r < 30000 then 1 else if r < 45000 then 2 else if r < 60000 then 3 else 4
def addBin (b : List Nat) (k n : Nat) : List Nat := if k < 5 then b.set k (b.getD k 0 + n) else b
/-- A new extreme joins the residue, newest first: within the hysteresis it is ignored, on the same run it replaces the last. -/
def turning (l : List Int) (x : Int) : List Int :=
  match l with
  | [] => [x]
  | [a] => if (x - a).natAbs ≤ 2000 then [a] else [x, a]
  | a :: b :: r =>
    if (b < a && a < x) || (x < a && a < b) then x :: b :: r
    else if (x - a).natAbs ≤ 2000 then a :: b :: r else x :: a :: b :: r
/-- ASTM E1049 rainflow on the residue, newest first: an inner range not larger than the latest closes as a cycle, or as a
half cycle when it holds the starting point. -/
def rainflow : Nat → List Int → List Nat → List Int × List Nat
  | 0, l, b => (l, b)
  | n + 1, l, b =>
    match l with
    | x :: y :: z :: r =>
      let big := (x - y).natAbs
      let small := (y - z).natAbs
      if big < small then (l, b)
      else if r = [] then rainflow n [x, y] (addBin b (wearBin small) 1)
      else rainflow n (x :: r) (addBin b (wearBin small) 2)
    | _ => (l, b)
def wearOf (s : State) (t : Nat) : Wear := tget s.thm.wear {} t
/-- Weighted sum of the bins (half cycles) over 200 per mille (R241). -/
def wearEst (b : List Nat) : Nat :=
  (b.getD 0 0 + 2 * b.getD 1 0 + 5 * b.getD 2 0 + 11 * b.getD 3 0 + 20 * b.getD 4 0) / 2 / 200
/-- A Tent's wear moves on; EV_BOND_WEAR at each multiple of 100 per mille that its estimate passes (R241, R242). -/
def setWear (s : State) (t : Nat) (w : Wear) : State :=
  let s' := { s with thm := { s.thm with wear := tset s.thm.wear t w } }
  if wearEst w.bins / 100 > wearEst (wearOf s t).bins / 100 then detect s' 0x410 0 8 t 0 [] else s'
def bondSample (s : State) : State :=
  if !powered s then s
  else (List.range 8).foldl (fun s t =>
    match bondTemp s t with
    | none => s
    | some x =>
      let w := wearOf s t
      let l := turning w.res x
      -- the newest point of the residue is the running extreme, so only the points before it count
      let r := rainflow l.length (l.drop 1) w.bins
      let w' : Wear := { res := l.take 1 ++ r.1, bins := r.2 }
      setWear s t w') s
def execBondTempSample (s : State) : Host.Outcome State Fault Refusal := .next (keepThermal s (bondSample s))

/-- R241, R384: the hourly life-log record; one that fails is lost and posts EV_IDSTORE_FAIL as UNCORRECTED. -/
def lifeLog (ok : Bool) (s : State) : State :=
  if !powered s then s
  else if ok then { s with trust := { s.trust with lifeRecords := (s.trust.lifeRecords + 1) % 2 ^ 32
                                                   lifeBins := (List.range 8).map (fun t => (t, (wearOf s t).bins)) } }
  else detect s 0x605 2 8 0xFF 0 []
def keepTrustEv (s t : State) : State := { s with trust := t.trust, evt := t.evt }
def execLifeLogWrite (ok : Bool) (s : State) : Host.Outcome State Fault Refusal := .next (keepTrustEv s (lifeLog ok s))

end Sys2Proof.Machine
end

