-- ==== Sys2Proof/Machine/Start.lean ====
section
/-! DEFINITION. The start, the configuration commit and the seal (R373 to R384, R432 to R453). -/
namespace Sys2Proof.Machine

/-! Firmware package (R377, R378). -/
/-- BOOT_CTL.LOAD and BOOT_CTL.START in a phase that does not take them set BOOT_STAT.BUSY (R434). -/
def bootBusy (s : State) : State := { s with boot := { s.boot with busy := true } }
def bootLoad (s : State) : State :=
  if s.dev.st != .pitching || !s.link.cfgReady then s
  else if s.boot.phase = 0 || s.boot.phase = 2 then { s with boot := { s.boot with phase := 1 } }
  else bootBusy s
/-- What the start's commands may change before the tests complete. -/
def keepBoot (s t : State) : State := { s with boot := t.boot, trust := t.trust, evt := t.evt }
def execBootCtlLoad (s : State) : Host.Outcome State Fault Refusal := .next (keepBoot s (bootLoad s))

structure Comp where
  type : Nat
  off : Nat
  len : Nat
  digest : Bytes
  clean : Bool
  deriving DecidableEq, Repr
def compAt (b : Bytes) (i : Nat) : Comp :=
  let r := slice b (32 + 80 * i) 80
  { type := fld r 0 2, off := fld r 4 4, len := fld r 8 4, digest := slice r 16 64, clean := fld r 2 2 = 0 && fld r 12 4 = 0 }
def compMax (t : Nat) : Nat := if t = 1 then 2097152 else if t = 2 || t = 4 then 4194304 else if t = 3 then 524288 else 16777216
def comps (b : Bytes) : List Comp := (List.range (fld b 6 2)).map (compAt b)
/-- Check 2 of R378 with the layout rules of R377. -/
def pkgFormOk (b : Bytes) (len : Nat) : Bool :=
  let cs := comps b
  let sig := fld b 20 4
  let once (t : Nat) : Nat := (cs.filter (fun c => c.type == t)).length
  b.length == len && len ≤ 16777216 && fld b 0 4 == 0x31504656 && fld b 4 2 == 1 && (cs.length == 4 || cs.length == 5) &&
  fld b 12 1 ≤ 3 && allZero (slice b 13 3) && fld b 16 4 == len && sig % 16 == 0 && sig ≥ 672 && sig + 7390 == len &&
  allZero (slice b 24 8) && allZero (slice b (32 + 80 * cs.length) (640 - 80 * cs.length)) &&
  ([1, 2, 3, 4] : List Nat).all (fun t => once t == 1) && once 5 ≤ 1 &&
  cs.all (fun c => c.clean && 1 ≤ c.type && c.type ≤ 5 && c.off % 16 == 0 && c.len ≤ compMax c.type && 672 ≤ c.off && c.off + c.len ≤ sig) &&
  (cs.zipIdx).all (fun x => (cs.zipIdx).all (fun y => x.2 == y.2 || x.1.off + x.1.len ≤ y.1.off || y.1.off + y.1.len ≤ x.1.off))
/-- The public keys of a signature block are those of a slot; both signatures verify (R372). -/
def keysOk (slot : Nat) (sb : Bytes) : Bool :=
  Config.shake256 (slice sb 0 57) == (Config.romKeyDigest slot).1 && Config.shake256 (slice sb 57 2592) == (Config.romKeyDigest slot).2
def sigsOk (ctx : String) (sb msg : Bytes) : Bool :=
  Config.verifyEd448 ctx (slice sb 0 57) msg (slice sb 2649 114) && Config.verifyMlDsa ctx (slice sb 57 2592) msg (slice sb 2763 4627)
/-- BOOT_STAT.RESULT of a package that was read: the first check of R378 that fails, 1 for none. -/
def pkgVerdict (s : State) (b : Bytes) : Nat :=
  let len := rawReg s 0x10008 0 0
  let slot := fld b 12 1
  let sb := slice b (fld b 20 4) 7390
  if !pkgFormOk b len then 2
  else if !keysOk slot sb then 3
  else if bit (idCur s).revoked slot then 4
  else if !sigsOk "VYMAR-FWPKG" sb (Config.shake256 (b.take (fld b 20 4))) then 5
  else if !(comps b).all (fun c => Config.shake256 (slice b c.off c.len) == c.digest) then 2
  else if fld b 8 4 < (idCur s).minSvn then 6
  else if (idRec s).isNone then 8
  else 1
/-- R383: a record one past the counter is taken and the counter follows it. -/
def idSettle (s : State) : State :=
  match idRec s with
  | some r => { s with trust := { s.trust with rpmc := r.expect } }
  | none => s
/-! Security-version tokens (R379, R380). -/
/-- The first failing check of a token, 1 for none. -/
def tokenVerdict (s : State) (t : Bytes) : Nat :=
  let slot := fld t 24 1
  let sb := slice t 32 7390
  let run : Pkg := s.boot.pkg.getD { svn := 0, slot := 0, digest := [], comps := [] }
  let serial := slice t 8 16
  if t.length != 7422 || fld t 0 4 != 0x31545356 || slot > 3 || fld t 25 1 > 15 || !allZero (slice t 26 6) then 2
  else if !keysOk slot sb || !sigsOk "VYMAR-SVNTOK" sb (Config.shake256 (t.take 32)) then 3
  else if bit (idCur s).revoked slot then 5
  else if !(allZero serial || serial == pad Config.serial 16) || fld t 4 4 > run.svn || bit (fld t 25 1) run.slot || bit (fld t 25 1) slot then 4
  else 1
/-- A token is judged and, accepted, applied; what would change the store and cannot is STORE_FAIL. -/
def applyToken (s : State) (t : Bytes) (storeOk : Bool) : State × Nat :=
  let v := tokenVerdict s t
  if v != 1 then (s, v)
  else
    let r := idCur s
    let r' := { r with minSvn := Nat.max r.minSvn (fld t 4 4), revoked := r.revoked ||| fld t 25 1 }
    if r' == r then (s, 1)
    else if !storeOk then (idWrite s r' false, 6)
    else (detect (idWrite s r' true) 0x601 0 8 0xFF 0 [], 1)

/-! The verdict on a package (R378, R380). -/
/-- The package read ends: refused it leaves nothing behind and the phase returns to 0; accepted it is measured (R378, R385),
and its component 5 applied (R380). -/
def verdict (pkg : HostRead) (storeOk : Bool) (s : State) : State :=
  if s.dev.st != .pitching || s.boot.phase != 1 then s
  else
    let refuse (r : Nat) : State := { s with boot := { s.boot with phase := 0, result := r, pkg := none } }
    match pkg with
    | .ok b false =>
      let v := pkgVerdict s b
      if v != 1 then refuse v
      else
        let s := idSettle s
        let p : Pkg := { svn := fld b 8 4, slot := fld b 12 1, digest := Config.shake256 (b.take (fld b 20 4)),
                         comps := (comps b).map (fun c => (c.type, slice b c.off c.len)) }
        let s := { s with boot := { s.boot with phase := 2, result := 1, token := 0, pkg := some p } }
        let s := (comps b).foldl (fun s c => logAppend s 1 0xFF (le 2 c.type) c.digest) s
        match tfind p.comps 5 with
        | some t => let r := applyToken s t storeOk; { r.1 with boot := { r.1.boot with token := r.2 } }
        | none => s
    | _ => refuse 7
def execPackageVerdict (pkg : HostRead) (storeOk : Bool) (s : State) : Host.Outcome State Fault Refusal :=
  .next (keepBoot s (verdict pkg storeOk s))

/-! BOOT_CTL.START and the Ledger (R434, R437 to R440). -/
def bootStart (s : State) : State :=
  if s.dev.st != .pitching || !s.link.cfgReady then s
  else if s.boot.phase = 2 then
    { s with boot := { s.boot with phase := 3, startTick := s.tick
                                   startTime := rawReg s 0x10020 0 0 + 2 ^ 32 * rawReg s 0x10024 0 0 } }
  else bootBusy s
def execBootCtlStart (s : State) : Host.Outcome State Fault Refusal := .next (keepBoot s (bootStart s))

def ldgLen (s : State) : Nat := rawReg s 0x1001C 0 0
/-- The checks of R437 on a Ledger that was read: the result code, or what is accepted. -/
def ledgerVerdict (s : State) (b : Bytes) : Nat ⊕ LedgerAcc :=
  match ledgerParse b (ldgLen s) with
  | none => .inl 9
  | some x =>
    let body := b.take (b.length - 64)
    if ledgerTag body != b.drop (b.length - 64) then .inl 10
    else if slice b 24 16 != pad Config.serial 16 then .inl 11
    else if fld b 8 8 != (idCur s).gen || Config.shake256 b != (idCur s).digest then .inl 12
    else .inr { gen := fld b 8 8, svn := fld b 20 4, sealTime := fld b 40 8, logIndex := fld b 48 4, rotation := fld b 52 1,
                digest := Config.shake256 b, secs := x }
def varOf (x : Sections) (i k u : Nat) : Option Bytes :=
  ((tget x.vars [] i).find? (fun e => e.kind == k && e.unit == u)).map (·.payload)
/-- Counted half cycles of a Tent since the Ledger's totals (R241, R440). -/
def cyclesSince (s : State) (x : Sections) (t : Nat) : Nat :=
  let old := (varOf x 13 1 t).elim 0 (fun b => suml ((List.range 5).map (fun i => fld b (4 * i) 4)))
  suml (tget s.trust.lifeBins [] t) - old
/-- BOOT_STAT.COLD_REASON (R440). -/
def coldBits (s : State) (acc : Option LedgerAcc) : Nat :=
  let mode := bit (rawReg s 0x1000C 0 0) 2
  let base := b2n mode + 4 * b2n (idCur s).marker
  match acc with
  | none => base + 2
  | some l =>
    let svn := (s.boot.pkg.map (·.svn)).getD 0
    let age := Nat.max (s.boot.startTime - l.sealTime) (3600 * (s.trust.lifeRecords - l.logIndex))
    base + 8 * b2n (svn < l.svn) + 16 * b2n (s.boot.startTime < l.sealTime || age > 2592000) +
      32 * b2n ((List.range 8).any (fun t => cyclesSince s l.secs t > 1000))
/-- Phase 3 ends: kind decided, the marker set, the working Ledger made (R438 to R442). A failing
Identity Store write ends the start (R444). -/
def startDecide (acc : Option LedgerAcc) (found : Findings) (s : State) : State :=
  let s := logAppend s 2 0xFF [] ((acc.map (·.digest)).getD (zeros 64))
  let cold := coldBits s acc
  let kind := if cold = 0 then 2 else 1
  let rot := (acc.map (·.rotation)).getD 0
  let s := { s with boot := { s.boot with
    kind := kind, coldReason := cold, ledger := acc, work := (acc.map (·.secs)).getD {}
    rotation := if kind = 2 then (rot + 1) % 64 else rot
    found := some found, phase := 4 } }
  let s := idWrite s { idCur s with marker := true } found.storeOk
  if found.storeOk then s else { s with boot := { s.boot with phase := 5, result := 8 } }
def ledgerRead (ledger : HostRead) (found : Findings) (s : State) : State :=
  if s.dev.st != .pitching || s.boot.phase != 3 then s
  else if ldgLen s = 0 then startDecide none found s
  else
    let refuse (r : Nat) : State := { s with boot := { s.boot with phase := 2, result := r } }
    match ledger with
    | .ok b false =>
      match ledgerVerdict s b with
      | .inl r => refuse r
      | .inr l => startDecide (some l) found s
    | _ => refuse 7
def execLedgerCheck (ledger : HostRead) (found : Findings) (s : State) : Host.Outcome State Fault Refusal :=
  .next (keepBoot s (ledgerRead ledger found s))

/-! The end of the tests (R441 to R445). -/
def startFail (s : State) (result : Nat) : State := { s with boot := { s.boot with phase := 5, result := result } }
/-- A warm start tests, by the ROTATION of its Ledger, the Groundsheet rows of one residue of 16 and the HBM3E rows of one of 64,
with those listed and, in HBM3E, their neighbours, and the listed wires of a Pole (R441). -/
def sampled (l : LedgerAcc) : Defect → Bool
  | .gsRow sl row _ => row % 16 == l.rotation % 16 || (secOf l.secs 4).any (fun e => e % 65536 == sl && bits e 16 16 == row)
  | .hbmRemap c pc sid bg bk row _ => hbmSampled l (rowEntry c pc sid bg bk 0 0) row
  | .hbmUnrepaired c pc sid bg bk row => hbmSampled l (rowEntry c pc sid bg bk 0 0) row
  | .pole p _ ws => ws.all (fun w => ((secOf l.secs 6).map entryPole).any (fun e => e.1 == p && e.2.2.contains w))
  | _ => true
where
  /-- A row of a bank: of the sample, listed, or next to a listed one. -/
  hbmSampled (l : LedgerAcc) (bank row : Nat) : Bool :=
    row % 64 == l.rotation || (secOf l.secs 1 ++ secOf l.secs 2).any (fun e =>
      !bit e 63 && e % 65536 == bank && row ≤ bits e 16 15 + 1 && bits e 16 15 ≤ row + 1)
/-- Defects that the tests of this kind of start come upon (R441). -/
def testedFor (s : State) (ds : List Defect) : List Defect :=
  match s.boot.ledger with
  | some l => if s.boot.kind = 2 then ds.filter (sampled l) else ds
  | none => ds
/-- Entries the tests add; each counts once (R442, R445). -/
def addFindings (s : State) (ds : List Defect) : State :=
  (testedFor s ds).foldl (fun s d =>
    let fresh := (defEntries d).any (fun e => !(secOf s.boot.work (defSec d)).contains e)
    let s := recordDefect s d
    if fresh then { s with dev := { s.dev with newDefects := s.dev.newDefects + 1 } } else s) s
/-- The modules as the start trained them, and the edges that did not come up; detected before PITCHED (R269, R270). -/
def trainEdges (s : State) (ds : List Defect) : State :=
  let s := ds.foldl (fun s d => match d with
    | .lateral e m rate w => { s with fab := { s.fab with mods := tset s.fab.mods (16 * e + m) (accepted rate w) } }
    | _ => s) s
  (List.range 14).foldl (fun s e =>
    if !edgeLow s e then s
    else
      let m := ((List.range (edgeModules e)).find? (fun m => moduleOf s e m != (32, 64))).getD 0
      let d := le 1 m ++ le 1 (moduleOf s e m).1 ++ le 1 (moduleOf s e m).2
      if 2 * trained s e < edgeModules e then
        detect { s with fab := { s.fab with downStart := sadd s.fab.downStart e } } 0x502 2 8 (edgeUnit e) 0 d
      else detect s 0x501 0 8 (edgeUnit e) 0 d) s
/-- The Poles that this start's tests found worse than the accepted Ledger has them: each step is taken and counted, and a
column whose buddies are both FENCED is retired (R237, R239). -/
def startPoles (s : State) : State :=
  let old := polesFrom ((s.boot.ledger.map (·.secs)).getD {})
  let s := s.fab.poles.foldl (fun s p => poleStep s p.1 (tget old {} p.1) p.2) s
  (s.fab.cut.filter (fun k => !(cutColumns old).contains k)).foldl (fun s k =>
    let s := cutPoles s k
    detect { s with fab := { s.fab with cutNow := sadd s.fab.cutNow k } } 0x124 2 (partOfTent s (k / 8)) (128 * k) 0 []) s
/-- An output in the range and the 5 mV steps of its rail (R398); log entry 83 says which step an odd figure takes. -/
def railOut (r mv : Nat) : Nat :=
  let mv := (mv + 4) / 5 * 5
  if r < 64 then Nat.max 550 (Nat.min 950 mv) else if r < 72 then Nat.max 700 (Nat.min 850 mv) else if r < 80 then 750 else 800
/-- The voltage that characterisation has for a cluster's 1.5 GHz: a warm start takes it from section 12 (R441). -/
def charMv (s : State) (r : Nat × Nat) : Nat :=
  if s.boot.kind = 2 && r.1 < 64 then ((s.boot.ledger.bind (fun l => varOf l.secs 12 1 r.1)).map (fun b => fld b 0 2)).getD r.2 else r.2
/-- Rail voltages: what characterisation found, with the guard band of 20 mV on a cluster rail (R399) and over an
array rail's lowest passing voltage (R457); the fixed outputs of R398. -/
def setRails (s : State) (f : Findings) : State :=
  let fixed : Tab Nat := (List.range 12).map (fun i => (72 + i, railOut (72 + i) 0))
  { s with pwr := { s.pwr with railMv := (f.railMv.filter (fun r => r.1 < 84)).foldl (fun t r =>
      tset t r.1 (railOut r.1 (charMv s r + 20))) fixed } }
/-- Domains switched on at start (R411): slices, controllers, PCIe, control cores and the security processor. -/
def startDoms (s : State) : State :=
  let on := (List.range 408).map (· + 576) ++ (List.range 18).map (· + 1002)
  let good := on.filter (fun d => !domBad s d && !(phasesBad s (domRail d) > phaseLimit (domRail d)))
  { s with pwr := { s.pwr with doms := good.map (fun d => (d, { st := 2 })), domFail := [] } }
/-- Bins of the life log, and the baselines of the Ledger (R241, R258). -/
def startCounts (s : State) : State :=
  let old : Sections := (s.boot.ledger.map (·.secs)).getD {}
  { s with thm := { s.thm with wear := (List.range 8).map (fun t => (t, { bins := pad5 (tget s.trust.lifeBins [] t) })) }
           hbm := { s.hbm with stk := (List.range 24).map (fun k =>
             (k, { base0 := (varOf old 12 2 k).elim 16 (fun b => Nat.max 16 (fld b 0 4)) })) } }
where
  /-- Five bins. -/
  pad5 (l : List Nat) : List Nat := (List.range 5).map (fun i => l.getD i 0)
/-- Region of a latched trip, for EV_THM_TRIPPED. -/
def tripRegion (die sensor : Nat) : Nat :=
  if die < 8 then 8 * die + sensor / 12 else if die < 16 then 64 + (die - 8) else if die < 20 then 72 + (die - 16) else 0xFFFF
/-- Start events, in ascending code (R428, R456, R491). -/
def startEvents (s : State) (ms : Nat) : State :=
  let s := if s.pwr.latched.1 = 1 then detect s 0x405 2 8 (tripRegion s.pwr.latched.2.1 s.pwr.latched.2.2) 0 [] else s
  let s := detect s 0x701 0 8 0 0 (le 1 s.boot.kind ++ le 1 s.boot.coldReason ++ le 2 0 ++ le 4 ms)
  let s := if s.boot.ledger.isNone && (idCur s).gen != 0 then detect s 0x702 2 8 0 0 [] else s
  let s := if s.dev.newDefects > 0 then detect s 0x703 0 8 0 0 [] else s
  match s.boot.ledger.bind (fun l => varOf l.secs 13 3 0) with
  | some b => if declLower s b then detect s 0x704 2 8 0 0 [] else s
  | none => s
def startBound (s : State) : Nat := if s.boot.kind = 2 then 20000 else 360000
/-- Phase 4 ends: PITCHED with the declaration, or FAILED (R444, R445). The Guyline ports open their bypass (R472). -/
def complete (ms : Nat) (s : State) : State :=
  if s.dev.st != .pitching || s.boot.phase != 4 then s
  else match s.boot.found with
  | none => s
  | some f =>
    if ms > startBound s then startFail s 15
    else
      let s := addFindings s f.defects
      let s := trainEdges (startPoles (setRails (loadRepairs s) f)) f.defects
      if !f.vestibule0Ok || phasesBad s 80 > 1 then startFail s 14
      else
        let s := declare s
        if s.dev.usable = 0 then startFail s 13
        else
          let s := startCounts (startDoms s)
          let s := { s with gly := { s.gly with st := 1, hold := true }
                            krn := { s.krn with cores := [] }
                            mem := { hbm := s.mem.hbm, hbmPois := s.mem.hbmPois, key := s.mem.key, xts := s.mem.xts, pairs := s.mem.pairs
                                     flaw := s.mem.flaw, wayOut := s.mem.wayOut, nextReq := s.mem.nextReq } }
          let s := startEvents (setDev s .pitched) ms
          { s with pwr := { s.pwr with trip := (0, 0, 0) } }
def execStartComplete (ms : Nat) (s : State) : Host.Outcome State Fault Refusal := .next (complete ms s)

/-- The bound of R443 is exceeded (R444). -/
def timedOut (s : State) : State :=
  if s.dev.st == .pitching && (s.boot.phase = 3 || s.boot.phase = 4) then startFail s 15 else s
def execStartTimeout (s : State) : Host.Outcome State Fault Refusal := .next (keepBoot s (timedOut s))

/-! The configuration commit (R447 to R450). -/
/-- An offending field: register offset, lowest bit, width, selector value; with the status. -/
structure Bad where
  status : Nat
  off : Nat
  lsb : Nat := 0
  width : Nat := 0
  sel : Nat := 0
  deriving DecidableEq, Repr
def Bad.info (b : Bad) : Nat := b.off
def Bad.result (b : Bad) : Nat := b.lsb + 2 ^ 8 * b.width + 2 ^ 16 * b.sel
def pOff (p o : Nat) : Nat := 0x40000 + 0x1000 * p + o
def rwTents (s : State) (p : Nat) : Nat := bits (rawReg s (pOff p 0) 0 0x40000) 0 8
def rwReserve (s : State) (p : Nat) : Nat := bits (rawReg s (pOff p 0) 0 0x40000) 16 8
/-- Pass 2: fields out of their range, in image order (R413, R404, R421, R193, R275, R278, R522, R527). -/
def badRange (s : State) (r : Rwl) : List Bad :=
  let v := rwlVal s r
  let o := r.off
  let bad (c : Bool) (lsb w : Nat) : List Bad := if c then [{ status := 3, off := o, lsb, width := w, sel := r.inst }] else []
  if 0x40000 ≤ o && o < 0x48000 then
    let f := o % 0x1000
    if f = 0 then bad (v % 256 != 0 && bits v 16 8 = 0) 16 8
    else if f = 0x10 || f = 0x14 then bad (bits v 0 11 = 0) 0 11 ++ bad (bits v 16 11 = 0) 16 11
    else if f = 0x1C then bad (v / 65536 < 32) 16 16 else []
  else if 0x48000 ≤ o && o < 0x48020 then bad (v > 14) 0 4
  else if o = 0x80000 then bad (v < 1200 || v > 4000) 0 13
  else if o = 0x80008 then bad (v < 15 || v > 60) 0 6
  else if o = 0x90000 then bad (v < 80 || v > 100) 0 7
  else if 0xC1000 ≤ o && o < 0xC2000 then bad (v > 17 && v != 0x1F) 0 5
  else []
def overlap (a n b m : Nat) : Bool := a < b + m && b < a + n
/-- A range lies within Tents of a mask, in consecutive regions. -/
def inTents (mask a n : Nat) : Bool :=
  let r := 0x2400000000
  a + n ≤ hbmEnd && (List.range 8).all (fun t => !overlap a n (t * r) r || bit mask t)
/-- A range holds a line out of service. -/
def hasOut (s : State) (a n : Nat) : Bool :=
  s.dev.linesOut.any (fun l => a ≤ l && l < a + n) || s.dev.chansOut.any (fun c => overlap a n (tentBase (c / 48)) 0x2400000000)
def bar4Bytes (s : State) (fn : Nat) : Nat := 0x40000000 * 2 ^ (tget s.link.bar4 0 (if fn = 0 then 0 else 1))
/-- Relation 5 for one partition: the later field, in image order, of a range that is out of place or overlaps. -/
def badPlace (s : State) (p fn : Nat) : List Bad :=
  let m := rwTents s p
  let lo := tentBase (((List.range 8).find? (bit m)).getD 0)
  let cr := (lo, rwReserve s p * 0x4000000)
  let b4 := (rawReg s (pOff p 8) 0 0 * 0x40000000, bar4Bytes s fn)
  let sem := (rawReg s (pOff p 0xC) 0 0 * 0x1000, 32768)
  let out (x : Nat × Nat) : Bool := !inTents m x.1 x.2 || hasOut s x.1 x.2
  let hit (x y : Nat × Nat) : Bool := overlap x.1 x.2 y.1 y.2
  (if out cr then [{ status := 3, off := pOff p 0, lsb := 16, width := 8 }] else []) ++
  (if out b4 || hit cr b4 then [{ status := 3, off := pOff p 8, lsb := 0, width := 14 }] else []) ++
  (if out sem || hit cr sem || hit b4 sem then [{ status := 3, off := pOff p 0xC, lsb := 0, width := 32 }] else [])
/-- Pass 3: the relations of R449, in their order. -/
def badRelations (s : State) : List Bad :=
  let ps := (List.range 8).filter (fun p => rwTents s p != 0)
  let tents (p st : Nat) : Bad := { status := st, off := pOff p 0, lsb := 0, width := 8 }
  let fn (p : Nat) : Nat := if ps.length = 1 then 0 else p + 1
  let pp (n : Nat) : Nat := rawReg s (0xC0100 + 0x20 * n) 0 0xFFFF001F % 16
  (if ps = [] then [tents 0 3] else []) ++
  (List.range 8).flatMap (fun p => if (List.range p).any (fun q => rwTents s q &&& rwTents s p != 0) then [tents p 3] else []) ++
  ps.flatMap (fun p => if rwTents s p &&& (255 - s.dev.usable) != 0 then [tents p 1] else []) ++
  (List.range 8).flatMap (fun t => if rawReg s (0x48000 + 4 * t) 0 0 > tget s.dev.declWays 0 t then
    [{ status := 1, off := 0x48000 + 4 * t, lsb := 0, width := 4 }] else []) ++
  ps.flatMap (fun p => badPlace s p (fn p)) ++
  (List.range 18).flatMap (fun n => if pp n != 0xF && (!ps.contains (pp n) || bit s.dev.spanOut n) then
    [{ status := 3, off := 0xC0100 + 0x20 * n, lsb := 0, width := 4 }] else []) ++
  (List.range 1024).flatMap (fun a =>
    let n := rawReg s (0xC1000 + 4 * a) 0 0x1F
    if n != 0x1F && (bit s.dev.spanOut n || !ps.contains (pp n)) then [{ status := 3, off := 0xC1000 + 4 * a, lsb := 0, width := 5 }] else [])
/-- The first failure of a commit (R448, R449). -/
def commitBad (s : State) (o : Op) : Option Bad :=
  let pay (n : Nat) : Bad := { status := 3, off := 0xFFFFFFFF, lsb := n }
  if !allZero (slice o.desc 28 36) then some (pay 3)
  else if s.dev.st != .pitched then some { status := 1, off := 0xFFFFFFFF }
  else if o.f 16 8 ≤ s.dev.commitGen then some (pay 1)
  else if o.f 24 4 != (crc32c (cfgImage s)).toNat then some (pay 2)
  else match (rwlList.flatMap (badRange s)).head? with
    | some b => some b
    | none => (badRelations s).head?
/-- The committed set: instances that differ from their reset values. -/
def snapshot (s : State) : Tab Word :=
  (rwlList.filter (fun r => rwlVal s r != r.reset)).foldl (fun t r => tset t (rkey r.off r.inst) (BitVec.ofNat 32 (rwlVal s r))) []
def oldPart (s : State) (t : Nat) : Nat := ((List.range 8).find? (fun p => bit (partMask s p) t)).getD 8
/-- The Tents and ports that move to another partition, as role epochs (R281). -/
def movedUnits (old s : State) : List Nat :=
  ((List.range 8).filter (fun t => oldPart old t < 8 && oldPart old t != oldPart s t)).map (576 + ·) ++
  ((List.range 18).filter (fun n => portPart old n != 0xF && portPart old n != portPart s n)).map (584 + ·)
/-- The configuration registers become the committed set. -/
def takeCfg (s : State) (gen : Nat) : State :=
  { s with dev := { s.dev with
      locked := true, ptab := snapshot s, commitGen := gen, commitDigest := Config.shake256 (cfgImage s), inService := true } }
/-- A unit that the commit moves has had its last increment less than 100 µs ago: the commit waits (R283). -/
def moveSoon (s : State) : Bool := (movedUnits s (takeCfg s 0)).any (bumpSoon s)
/-- R450 steps 1 to 5. -/
def putInService (s : State) (gen : Nat) : State :=
  let img := cfgImage s
  let t := takeCfg s gen
  let s := (movedUnits s t).foldl bumpEpoch t
  let s := { s with mem := { s.mem with dead := [] } }
  let s := (parts s).foldl (fun s p => intoService ((partTents s p).foldl clearTent (rekeyTents s (partTents s p))) p) s
  setDev (logAppend s 3 0xFF [] (Config.shake256 img)) .open_

/-! Striking and the seal (R452, R453). -/
/-- The residue of a Tent is closed: each range counts one half cycle (R240). -/
def closeWear (w : Wear) : Wear :=
  let ranges := (w.res.zip (w.res.drop 1)).map (fun p => (p.1 - p.2).natAbs)
  { res := [], bins := ranges.foldl (fun b r => addBin b (wearBin r) 1) w.bins }
def pad8 (b : Bytes) : Bytes := pad b (cdiv b.length 8 * 8)
/-- Sections 11 to 13 at the seal (R532, R533). -/
def trainingEntries (s : State) : List VarEntry :=
  (List.range 24).map (fun k => { kind := 1, unit := k, payload := pad8 (Config.coefficients 1 k) }) ++
  (List.range 14).flatMap (fun e => ((List.range (edgeModules e)).filter (fun m => (moduleOf s e m).2 != 0)).map (fun m =>
    { kind := 2, unit := 16 * e + m, payload := pad8 (Config.coefficients 2 (16 * e + m)) })) ++
  (List.range 18).filterMap (fun n => (portOf s n).coeff.map (fun peer =>
    { kind := 3, unit := n, payload := le 2 peer ++ zeros 6 ++ pad8 (Config.coefficients 3 n) }))
def charEntries (s : State) : List VarEntry :=
  (((s.boot.found.map (·.railMv)).getD []).filter (fun r => r.1 < 64)).map (fun r =>
    { kind := 1, unit := r.1, payload := le 2 (charMv s r) ++ zeros 6 }) ++
  (List.range 24).map (fun k => { kind := 2, unit := k, payload := le 4 (baseline (stackOf s k)) ++ zeros 4 })
/-- Counts of each event code over the Ledger's life. -/
def codeCounts (s : State) : List (Nat × Nat) :=
  let secs : Sections := (s.boot.ledger.map (·.secs)).getD {}
  let old := ((tget secs.vars [] 13).filter (fun e => e.kind == 2)).map (fun e => (e.unit, fld e.payload 0 4))
  let now := s.evt.cnt.filter (fun e => e.1 < 0x10000)
  now.foldl (fun t e => tupd t 0 e.1 (fun n => sat 32 (n + e.2))) (old.foldl (fun t e => tset t e.1 e.2) [])
def counterEntries (s : State) : List VarEntry :=
  (List.range 8).map (fun t => { kind := 1, unit := t, payload := ((wearOf s t).bins.flatMap (le 4)) ++ zeros 4 }) ++
  ((codeCounts s).filter (fun e => e.2 != 0)).map (fun e => { kind := 2, unit := e.1, payload := le 4 e.2 ++ zeros 4 }) ++
  [{ kind := 3, unit := 0, payload := declPayload s }]
/-- R453: the channel with the most unrepaired rows, the lowest of equals. -/
def worstChan (x : Sections) : Option Nat :=
  let es := (secOf x 2).filter (fun e => !bit e 63)
  let n (c : Nat) : Nat := (es.filter (fun e => e % 512 == c)).length
  (distinct (es.map (· % 512))).foldl (fun b c => match b with
    | none => some c
    | some d => if n c > n d then some c else some d) none
def chanOut (x : Sections) (c : Nat) : Sections :=
  { x with fixed := tset x.fixed 2 (sadd ((secOf x 2).filter (fun e => bit e 63 || e % 512 != c)) (2 ^ 63 + c)) }
def secsLen (x : Sections) : Nat := 128 + 16 * (usedSecs x).length + suml ((usedSecs x).map (fun i => (secBytes x i).length))
def trimRows : Nat → Sections → Sections
  | 0, x => x
  | n + 1, x => if secsLen x ≤ 8388608 then x else match worstChan x with
    | some c => trimRows n (chanOut x c)
    | none => x
/-- The sections that are sealed, and whether R453 trimmed them. -/
def trim (x : Sections) : Sections × Bool :=
  if secsLen x ≤ 8388608 then (x, false)
  else (trimRows 384 { x with vars := tdel (tdel x.vars 11) 12 }, true)
/-- The working Ledger at the seal: section 10 takes the modules and Span ports that are below their full setting
(DESIGN CHOICE, log entry 82). -/
def sealWork (s : State) : Sections :=
  let ds := s.fab.mods.map (fun e => Defect.lateral (e.1 / 16) (e.1 % 16) e.2.1 e.2.2) ++
    s.span.ports.filterMap (fun e => e.2.narrowed.map (fun x => Defect.spanLane e.1 x.1 x.2))
  ds.foldl (fun x d => addEntry x 10 (defEntry d)) (workNow s)
/-- A partition is torn down within one command (R394 steps 1 to 6). -/
def tearWhole (s : State) (p : Nat) : State := teardownDone (teardownErase (teardownStart s p false false) p) p
/-- R452 steps 1 to 3: partitions torn down, rings disabled, Span ports stopped; the life-log record written; the Ledger
formed, tagged and written whole to the output buffer. -/
def strikeNow (s : State) : State :=
  let s := setDev s .striking
  let s := { s with dev := { s.dev with strikeWaits := false, repitch := false } }
  let s := (parts s).foldl tearWhole s
  let s := (List.range 256).foldl (fun s r => if (ringOf s r).st != 0 then
      let s := abortOps (disableRing s r) r
      setRing s r { ringOf s r with st := 0, pend := false } else s) s
  let s := (List.range 18).foldl (fun s n => portOff (stopPort s n) n) s
  let s := { s with dev := { s.dev with inService := false } }
  let s := s.thm.wear.foldl (fun s w => setWear s w.1 (closeWear w.2)) s
  let s := lifeLog true s
  let x := { sealWork s with vars := [(11, trainingEntries s), (12, charEntries s), (13, counterEntries s)] }
  let y := trim x
  let gen := (idCur s).gen + 1
  let b := ledgerBytes y.1 gen ((s.boot.pkg.map (·.svn)).getD 0) (s.boot.startTime + (s.tick - s.boot.startTick) / 100000000)
    s.trust.lifeRecords s.boot.rotation
  let s := hostWrite s 0 (rawReg s 0x10028 0 0 + 2 ^ 32 * rawReg s 0x1002C 0 0) b false s.link.relaxed
  { s with boot := { s.boot with work := x, sealing := some (gen, Config.shake256 b), trimmed := y.2, outLen := 0 } }
/-- A STRIKE that waited for a commit takes effect when it completes (R448). -/
def afterCommit (s : State) : State :=
  let s := { s with dev := { s.dev with commitOp := none } }
  if s.dev.strikeWaits then strikeNow s else s
/-- CONFIG_COMMIT completes (R449, R450). -/
def commit (op : Nat) (s : State) : State :=
  match opOf s op with
  | none => s
  | some o =>
    if o.code != 0x3F || s.dev.commitOp != some op then s
    else match commitBad s o with
    | some b => afterCommit (finish s op b.status b.info b.result true)
    | none => if moveSoon s then s else afterCommit (finish (putInService s (o.f 16 8)) op 0 0 (o.f 16 8))
def execConfigCommit (op : Nat) (s : State) : Host.Outcome State Fault Refusal := .next (commit op s)

/-- DEV_CTL.REPITCH in OPEN: every partition begins its teardown, partition rings are disabled, Span ports stop, and a LOCKED
TDI enters ERROR (R305, R451); ignored after a FATAL event of the device (R482). PITCHED follows when the last teardown ends. -/
def repitch (s : State) : State :=
  if !isOpen s || s.dev.repitch || s.dev.fatal then s
  else
    let ps := parts s
    let s := ps.foldl tdiError s
    let s := ps.foldl (fun s p => teardownStart s p false false) s
    let s := (List.range 18).foldl stopPort s
    { s with dev := { s.dev with repitch := true } }
def execDevCtlRepitch (s : State) : Host.Outcome State Fault Refusal := .next (repitch s)
/-- The last teardown of a REPITCH has ended: PITCHED, ports OFF, RWL fields writable with their values (R451). -/
def repitchEnd (s : State) : State :=
  if s.dev.repitch && s.down.isEmpty then
    let s := (List.range 18).foldl portOff s
    setDev { s with dev := { s.dev with repitch := false, inService := false, locked := false } } .pitched
  else s

/-- DEV_CTL.STRIKE: the output buffer is checked when it is written; during a commit it waits (R448, R452). -/
def strike (s : State) : State :=
  if s.dev.st != .pitched && s.dev.st != .open_ then s
  else
    let a := rawReg s 0x10028 0 0 + 2 ^ 32 * rawReg s 0x1002C 0 0
    if a = 0 || a % 64 != 0 || rawReg s 0x10030 0 0 < 8388608 then { s with dev := { s.dev with strikeRefused := true } }
    else if s.dev.commitOp.isSome then { s with dev := { s.dev with strikeWaits := true } }
    else strikeNow s
def execDevCtlStrike (s : State) : Host.Outcome State Fault Refusal := .next (strike s)

/-- The ring is left (R452 step 5, R474): LEAVE goes out when the module is on the ring, then the switches close. -/
def bypassed (g : Gly) : Gly :=
  let g := if g.hold && 2 ≤ g.st && g.st ≤ 4 then
      { g with seq := (g.seq + 1) % 2 ^ 32, out := g.out ++ [frame 7 0 (if g.st = 2 then 0xFFFF else g.pos) g.seq []] }
    else g
  { g with st := 0, hold := false }
/-- R452 steps 4 and 5: the anti-rollback record takes the new generation and digest with the marker clear, SEALED is set,
EV_LEDGER_SEALED posted, LEAVE sent and the die rails go off. A failing buffer stops the seal with DMA_FAULT, a failing
store leaves it unmade (R384). -/
def sealEnd (hostOk storeOk : Bool) (s : State) : State :=
  match s.boot.sealing with
  | none => s
  | some (gen, digest) =>
    if s.dev.st != .striking then s
    else
      let s := { s with boot := { s.boot with sealing := none } }
      if !hostOk then { s with boot := { s.boot with result := 7 } }
      else if !storeOk then idWrite s (idCur s) false
      else
        let s := idWrite s { idCur s with gen := gen, digest := digest, marker := false } true
        let len := secsLen (trim s.boot.work).1
        let s := { s with boot := { s.boot with sealed := true, outLen := len } }
        let s := detect s 0x705 0 8 0 0 []
        let s := if s.boot.trimmed then detect s 0x706 2 8 0 0 [] else s
        let s := flushEv s
        { s with boot := { s.boot with dark := true }
                 gly := bypassed s.gly
                 pwr := { s.pwr with doms := [(1002, { st := 2 })], wait := [] } }
def execSealCommit (hostOk storeOk : Bool) (s : State) : Host.Outcome State Fault Refusal := .next (sealEnd hostOk storeOk s)

/-- SEC_MBOX_CTL.GO in PITCHED or OPEN: the token is read, checked and applied (R380). -/
def mbox (token : HostRead) (storeOk : Bool) (s : State) : State :=
  if s.dev.st != .pitched && s.dev.st != .open_ then s
  else
    let put (s : State) (r : Nat) : State := { s with trust := { s.trust with mboxResult := r } }
    match token with
    | .ok t false =>
      if rawReg s 0xB0008 0 0 != 7422 then put s 2
      else let r := applyToken s t storeOk; put r.1 r.2
    | _ => put s 7
def execSecMboxGo (token : HostRead) (storeOk : Bool) (s : State) : Host.Outcome State Fault Refusal :=
  .next (keepTrustEv s (mbox token storeOk s))

/-! TSCLK. -/
/-- TSCLK counts from the release of PERST_N; it stands while the device is STOWED or TRIPPED (R24). -/
def tickOn (s : State) : Bool := s.dev.st != .stowed && s.dev.st != .tripped
/-- What the block does with no command waiting: 10 ns pass, one tick of TSCLK (R24) or, where that stands, one cycle of SCLK.
DESIGN CHOICE. -/
def idle (s : State) : State := if tickOn s then countHalted { s with tick := (s.tick + 1) % 2 ^ 64 } else { s with pwr := { s.pwr with tripNow := false } }

end Sys2Proof.Machine
end

