-- ==== Sys2Proof/Machine/Rings.lean ====
section
/-! DEFINITION. Rings, doorbells, admission, semaphores, policies, queries, event rings and the steps of a teardown
(R308 to R343, R394, R491). -/
namespace Sys2Proof.Machine

/-- What work that reaches the device through rings may change: never the device state, the start, trust, registers,
power, temperature or management. -/
def keepWork (s t : State) : State :=
  { s with rng := t.rng, krn := t.krn, mem := t.mem, hbm := t.hbm, fab := t.fab, link := t.link, evt := t.evt,
           free := t.free, dev := { s.dev with commitOp := t.dev.commitOp, fatal := t.dev.fatal } }

/-! Functions. -/
/-- The function is there, in D0, and exposes a partition (R295, R298). -/
def fnLive (s : State) (fn : Nat) : Bool :=
  s.link.cfgReady && !d3 s fn && (fn == 0 || (fn ≤ s.link.numVfs && !single s && partExists s (fn - 1)))
/-- A write to a register of the function is taken (R291, R517). -/
def regOk (s : State) (fn off : Nat) : Bool := fnLive s fn && answers s fn off
/-- Memory requests reach the function's BARs: Memory Space Enable set and no TDI in ERROR (R292, R305). -/
def barOk (s : State) (fn : Nat) : Bool :=
  fnLive s fn && s.link.memSpace.contains fn && (fn == 0 || tget s.trust.tdi 0 (fn - 1) != 3)

/-! Requests of the host to a BAR (R292, R295, R302 to R306). -/
def fnThere (s : State) (fn : Nat) : Bool := s.link.cfgReady && fn ≤ s.link.numVfs
/-- A request is discarded by its stream: it fails its check, or the stream is insecure. -/
def ideBlocks (s : State) (fn : Nat) (ide : IdeMark) : Bool :=
  ide == .failed || (ide == .trusted && s.trust.ideBad.contains fn)
/-- A request fails its check on a secure stream: the stream becomes insecure, its function posts EV_PCIE_IDE_FAIL, and a
LOCKED TDI enters ERROR. -/
def ideFail (s : State) (fn : Nat) : State :=
  let s := detect { s with trust := { s.trust with ideBad := sadd s.trust.ideBad fn } } 0x514 2 (partOfFn s fn) fn 0 (tlpLog 0 fn 0 0)
  if fn = 0 then s else tdiError s (fn - 1)
def ideDrop (fn : Nat) (ide : IdeMark) (s : State) : State :=
  if ide == .failed && fnThere s fn && !s.trust.ideBad.contains fn then ideFail s fn else s
/-- A refused request is logged; a read is completed with its status, 1 Unsupported Request or 2 Completer Abort. -/
def barRefuse (s : State) (fn status : Nat) (read : Bool) : State :=
  let s := aer s fn status
  if read then hostReply s (.completion fn status [] false) else s
/-- What becomes of a request before its register, page or line is looked at: nobody answers; an ECRC error or its stream
discards it; its function does not serve its BARs, or in RUN the T bit is missing; a poisoned write is discarded. -/
inductive BarGate where
  | silent | ecrc | stream | refused | poisoned | served
  deriving DecidableEq, Repr
def barGate (s : State) (fn : Nat) (read bar4 : Bool) (how : Arrival) : BarGate :=
  if !s.link.cfgReady || fn > 8 then .silent
  else if how.ecrcBad && s.link.ecrcChk then .ecrc
  else if ideBlocks s fn how.ide then .stream
  else if !barOk s fn || (fn != 0 && tget s.trust.tdi 0 (fn - 1) == 2 && how.ide != .trusted) then .refused
  else if how.ep && !read && !bar4 then .poisoned else .served
/-- A request to a BAR: `act` is what it does where it is served. -/
def barEntry (keep : State → State → State) (fn : Nat) (read bar4 : Bool) (how : Arrival) (act : State → State) (s : State) : State :=
  match barGate s fn read bar4 how with
  | .silent => s
  | .ecrc => aer s fn 5
  | .stream => ideDrop fn how.ide s
  | .refused => barRefuse s fn 1 read
  | .poisoned => aer s fn 3
  | .served => keep s (act s)

/-! Enable and disable (R310, R311, R333, R334). -/
def boundRings (s : State) (p : Nat) : Nat := ((List.range 256).filter (fun r => (ringOf s r).st != 0 && ringPart s r == p)).length
/-- The fields of R310 and R311 allow an enable by the function. -/
def enableOk (s : State) (fn r : Nat) : Bool :=
  let cfg := ringCfg s r
  let size := cfg % 32
  let part := if fn = 0 then bits cfg 8 4 else fn - 1
  let ctx := bits cfg 12 8
  4 ≤ size && size ≤ 16 &&
  if fn = 0 && part = 15 then !bit cfg 5 && !bit cfg 6 && (s.dev.st == .pitched || isOpen s)
  else partExists s part && isOpen s && boundRings s part < 32 &&
    (if fn = 0 then single s || ctx / 32 == part else ctx < 32)
/-- A fresh enable: indices 0, PHASE 1 expected, CFG_ERR clear (R311, R334, R521); a bad field leaves it DISABLED. -/
def enableRing (s : State) (fn r : Nat) : State :=
  let g := ringOf s r
  if enableOk s fn r then setRing s r { owner := fn, st := 1, dbErr := g.dbErr }
  else setRing s r { g with st := 0, pend := false, cfgErr := true }
/-- RING_ registers of a ring as a function reaches them: all on the PF, its own on a VF. -/
def ringReach (s : State) (fn r : Nat) : Bool :=
  regOk s fn 0x20000 && (fn == 0 || (r / 32 == fn - 1 && ((ringOf s r).st == 0 || (ringOf s r).owner == fn)))
/-- RING_CTL.ENABLE set. During DISABLING, and while the partition is being torn down, it is latched (R334, R455). -/
def ringEnable (fn r : Nat) (s : State) : State :=
  let g := ringOf s r
  if !ringReach s fn r then s
  else if g.st = 2 then setRing s r { g with pend := true }
  else if g.st != 0 then s
  else if (downOf s (if fn = 0 then bits (ringCfg s r) 8 4 else fn - 1)).isSome then setRing s r { g with pend := true, owner := fn }
  else enableRing s fn r
def execRingEnable (fn ring : Nat) (s : State) (how : Arrival := {}) : Host.Outcome State Fault Refusal :=
  .next (barEntry keepWork fn false false how (ringEnable fn ring) s)
/-- RING_CTL.ENABLE cleared: a pending enable is cancelled, an ENABLED or FAULTED ring goes to DISABLING. -/
def ringDisable (fn r : Nat) (s : State) : State :=
  let g := ringOf s r
  if !ringReach s fn r then s
  else if g.pend then setRing s r { g with pend := false }
  else if g.st = 1 || g.st = 3 then disableRing s r else s
def execRingDisable (fn ring : Nat) (s : State) (how : Arrival := {}) : Host.Outcome State Fault Refusal :=
  .next (barEntry keepWork fn false false how (ringDisable fn ring) s)
/-- Every completion of a DISABLING ring is written or abandoned: DISABLED, then the pending enable (R334 step 5). -/
def ringDisabled (r : Nat) (s : State) : State :=
  let g := ringOf s r
  if g.st != 2 || s.rng.ops.any (fun o => o.ring == r) then s
  else
    let s' := setRing s r { g with st := 0, pend := false }
    if g.pend then enableRing s' g.owner r else s'
def execRingDisabled (ring : Nat) (s : State) : Host.Outcome State Fault Refusal := .next (keepWork s (ringDisabled ring s))

/-! Doorbells (R312, R531). -/
/-- The ring of a function's doorbell page. -/
def pageRing (fn page : Nat) : Option Nat :=
  if fn = 0 then (if page < 256 then some page else none) else if page < 32 then some (32 * (fn - 1) + page) else none
/-- A virtual function owns the ring: by its enable, or by its index while it is DISABLED. -/
def vfOwned (s : State) (r : Nat) : Bool :=
  if (ringOf s r).st != 0 then (ringOf s r).owner != 0
  else !single s && s.link.numVfs > r / 32 && partExists s (r / 32)
def pageOwned (s : State) (fn r : Nat) : Bool :=
  if fn = 0 then !vfOwned s r else (ringOf s r).st == 0 || (ringOf s r).owner == fn
def unreleased (s : State) (r : Nat) : Nat := let g := ringOf s r; let n := ringSize s r; (g.cqTail + n - g.cqHead) % n
def freeSlots (s : State) (r : Nat) : Nat := let g := ringOf s r; let n := ringSize s r; n - 1 - (g.sqTail + n - g.sqHead) % n
/-- A doorbell write moves an index, or is ignored with DB_ERR. -/
def doorbell (cq : Bool) (fn page value width : Nat) (s : State) : State :=
  match pageRing fn page with
  | none => s
  | some r =>
    let g := ringOf s r
    let n := ringSize s r
    let old := if cq then g.cqHead else g.sqTail
    if !barOk s fn || !pageOwned s fn r then s
    else if width != 4 || g.st != 1 || value ≥ n then setRing s r { g with dbErr := true }
    else if value = old then s
    else if (value + n - old) % n > (if cq then unreleased s r else freeSlots s r) then setRing s r { g with dbErr := true }
    else setRing s r (if cq then { g with cqHead := value } else { g with sqTail := value })
def execSqTail (fn page value width : Nat) (s : State) (how : Arrival := {}) : Host.Outcome State Fault Refusal :=
  .next (barEntry keepWork fn false false how (doorbell false fn page value width) s)
def execCqHead (fn page value width : Nat) (s : State) (how : Arrival := {}) : Host.Outcome State Fault Refusal :=
  .next (barEntry keepWork fn false false how (doorbell true fn page value width) s)

/-! Reads of host memory (R306). -/
/-- What a read of host memory brings in: bytes with their mark, or the status that it ends with, a bus error or, where the host
denies the access under ATS, a translation fault; logged in AER and posted. -/
def takeRead (s : State) (part : Nat) (r : HostRead) (addr : Nat := 0) (len : Nat := 0) : State × (Nat ⊕ (Bytes × Bool)) :=
  let fn := fnOf s part
  match r with
  | .ok b false => (s, .inr (b, false))
  | .ok b true =>
    let s := aer s fn 3
    if busMode s part then (s, .inl 6) else (detect s 0x511 1 part fn 0 (tlpLog 2 fn addr b.length), .inr (b, true))
  | .ur => (aer s fn 1, .inl 6)
  | .ca => (aer s fn 2, .inl 6)
  | .timeout => (detect (aer s fn 4) 0x513 2 part fn 0 (tlpLog 1 fn addr len), .inl 6)
  | .denied => (s, .inl 4)
/-- The host addresses that a virtual range leads to. -/
def hostRuns (s : State) (ctx a n : Nat) : List (Nat × Nat) :=
  (rngPages a n).filterMap (fun x => match translate s ctx x.1 false with
    | .host h => some (h, x.2)
    | _ => none)
/-- A read of `n` bytes at host addresses that the command brings in; its pages enter the function's cache (R301). -/
def takeRuns (s : State) (part : Nat) (r : HostRead) (runs : List (Nat × Nat)) (n : Nat) : State × (Nat ⊕ (Bytes × Bool)) :=
  let used := if r = .denied then s else
    runs.foldl (fun s x => (cutAt 4096 x.1 x.2).foldl (fun s y => useAtc s (fnOf s part) y.1) s) s
  takeRead used part r (runs.headD (0, 0)).1 n

/-! Fetch (R313, R314). -/
/-- Completion slots held: fetched, admitted and unreleased. -/
def heldSlots (s : State) (r : Nat) : Nat :=
  (ringOf s r).fetched.length + (s.rng.ops.filter (fun o => o.ring == r)).length + unreleased s r
def fetchable (s : State) (r : Nat) : Bool :=
  let g := ringOf s r
  g.st == 1 && !d3 s g.owner && g.sqHead != g.sqTail && heldSlots s r + 1 < ringSize s r
/-- The next ring in rotating order (R273). -/
def nextRing (s : State) : Option Nat :=
  match (List.range 256).find? (fun r => s.rng.ptr ≤ r && fetchable s r) with
  | some r => some r
  | none => (List.range 256).find? (fetchable s)
/-- The descriptor's bytes: from host memory as the command brings them, or through the ring's context. -/
def fetchBytes (s : State) (r : Nat) (read : HostRead) : State × Option Bytes :=
  let g := ringOf s r
  let a := sqBase s r + 64 * g.sqHead
  let host (x : Nat) : State × Option Bytes :=
    match takeRuns s (ringPart s r) read [(x, 64)] 64 with
    | (s, .inr (b, false)) => (s, some (slice b 0 64))
    | (s, _) => (s, none)
  if !bit (ringCfg s r) 5 then host a
  else match translate s (ringCtx s r) a false with
    | .host x => host x
    | _ =>
      match vpeek s (ringCtx s r) a 64 8 with
      | .ok l => (vnote s (ringCtx s r) a 64 7 0, if anyPois l then none else some (bytesOf l))
      | _ => (vnote s (ringCtx s r) a 64 7 0, none)
def fetch (read : HostRead) (s : State) : State :=
  match nextRing s with
  | none => s
  | some r =>
    let s := { s with rng := { s.rng with ptr := (r + 1) % 256 } }
    match fetchBytes s r read with
    | (s, none) => ringFault s r (sqBase s r + 64 * (ringOf s r).sqHead)
    | (s, some d) =>
      let g := ringOf s r
      setRing s r { g with fetched := g.fetched ++ [(g.sqHead, d)], sqHead := (g.sqHead + 1) % ringSize s r }
def execDescriptorFetch (read : HostRead) (s : State) : Host.Outcome State Fault Refusal := .next (keepWork s (fetch read s))

/-! Admission (R316, R318 to R320). -/
def opcodes : List Nat :=
  [0x01, 0x02, 0x03, 0x04, 0x08, 0x09, 0x0A, 0x0B, 0x0C, 0x10, 0x11, 0x12, 0x13, 0x14, 0x15, 0x18, 0x20, 0x21, 0x22, 0x28,
   0x30, 0x31, 0x38, 0x3F]
/-- Checks 1 to 4 of R316 with R319, R481 and R482, and the kinds that no row of their opcode has (R318, R341, R359). -/
def admitBad (s : State) (o : Op) : Option Nat :=
  let p := ringPart s o.ring
  let c := o.code
  let quiet := c == 0x01 || c == 0x38
  if !allZero (slice o.desc 2 6) || o.flags ≥ 8 || !opcodes.contains c then some 3
  else if (if p = 15 then !(quiet || c == 0x3F) else c == 0x3F) then some 0x0A
  else if !isOpen s && !(quiet || c == 0x3F) then some 1
  else if opFn s o = 0 && lockedTdi s p && p < 8 && !quiet then some 0x0A
  else if s.evt.failed.contains p && !quiet then some 1
  else if c == 0x3F && s.dev.fatal then some 1
  else if c == 0x28 && o.f 16 1 != 4 && o.f 16 1 != 8 then some 3
  else if c == 0x38 && (o.f 16 1 < 1 || o.f 16 1 > 5) then some 3
  else if c == 0x20 && o.f 16 1 > 3 then some 3
  else none
/-- A descriptor held back: by FENCE or as a SEM_SIGNAL behind earlier ones, behind a SEM_WAIT, or as a second commit. -/
def heldBack (s : State) (r : Nat) (d : Bytes) : Bool :=
  let ops := s.rng.ops.filter (fun o => o.ring == r)
  ((bit (fld d 1 1) 0 || fld d 0 1 == 0x30) && !ops.isEmpty) || ops.any (fun o => o.code == 0x31) ||
  (fld d 0 1 == 0x3F && s.dev.commitOp.isSome)
def admitDesc (r : Nat) (s : State) : State :=
  let g := ringOf s r
  match g.fetched with
  | [] => s
  | (slot, d) :: rest =>
    if (g.st != 1 && g.st != 3) || heldBack s r d then s
    else
      let s := setRing s r { g with fetched := rest }
      let o : Op := { id := s.rng.nextOp, ring := r, slot, desc := d, tick := s.tick }
      match admitBad s o with
      | some st => writeCompletion s { o with status := st } true
      | none =>
        { s with rng := { s.rng with ops := s.rng.ops ++ [o], nextOp := o.id + 1 }
                 dev := { s.dev with commitOp := if o.code = 0x3F then some o.id else s.dev.commitOp } }
def execDescriptorAdmit (ring : Nat) (s : State) : Host.Outcome State Fault Refusal := .next (keepWork s (admitDesc ring s))

/-- The operation of an opcode, for the command that runs it. -/
def withOp (s : State) (id code stage : Nat) (f : Op → State) : State :=
  match opOf s id with
  | some o => if o.code = code && o.stage = stage then f o else s
  | none => s
/-- NOP (R317). -/
def nopRun (op : Nat) (s : State) : State :=
  withOp s op 0x01 0 (fun o => if allZero (slice o.desc 16 48) then finish s op 0 else refuse s op 3)
def execNop (op : Nat) (s : State) : Host.Outcome State Fault Refusal := .next (keepWork s (nopRun op s))

/-! Policies. -/
/-- SET_POLICY of the guard (R147). -/
def policyOf (s : State) (o : Op) : Policy :=
  { mode := o.f 17 1, clipShift := o.f 18 1, shadowShift := o.f 19 1, sampleShift := o.f 20 1, minShift := o.f 21 1
    reports := o.f 22 2, va := o.f 24 8, ctx := opCtx s o }
def policyOk (p : Policy) : Bool :=
  p.mode ≤ 2 && p.clipShift ≤ 24 && p.shadowShift ≤ 24 && (p.sampleShift == 0 || (6 ≤ p.sampleShift && p.sampleShift ≤ 12)) &&
  10 ≤ p.minShift && p.minShift ≤ 32 && (p.reports == 0 || (p.reports ≤ 4096 && 2 ^ log2 p.reports == p.reports && p.va % 64 == 0))
def guardPolicy (op : Nat) (s : State) : State :=
  withOp s op 0x28 0 (fun o =>
    if o.f 16 1 != 8 then s
    else if !policyOk (policyOf s o) || !allZero (slice o.desc 32 32) then refuse s op 3
    else finish { s with krn := { s.krn with policy := tset s.krn.policy (opPart s o) (policyOf s o) } } op 0)
def execSetPolicyGuard (op : Nat) (s : State) : Host.Outcome State Fault Refusal := .next (keepWork s (guardPolicy op s))
/-- SET_POLICY of the Groundsheet (R205). -/
def fillPolicy (op : Nat) (s : State) : State :=
  withOp s op 0x28 0 (fun o =>
    if o.f 16 1 != 4 then s
    else if o.f 17 1 > 1 || !allZero (slice o.desc 18 46) then refuse s op 3
    else finish { s with mem := { s.mem with fill := tset s.mem.fill (opPart s o) (o.f 17 1) } } op 0)
def execSetPolicyGroundsheet (op : Nat) (s : State) : Host.Outcome State Fault Refusal := .next (keepWork s (fillPolicy op s))

/-! Semaphores (R326 to R328). -/
def semAddr (s : State) (o : Op) : Nat := semBase s (opPart s o) + 8 * o.f 16 2
def semVal (op val old : Nat) : Nat := if op = 0 then (old + val) % 2 ^ 64 else Nat.max old val
/-- SEM_SIGNAL: one atomic at the home slice; marks of the counter stay (R220, R486). -/
def semSignal (op : Nat) (s : State) : State :=
  withOp s op 0x30 0 (fun o =>
    if o.f 16 2 > 4095 || o.f 18 1 > 1 || !allZero (slice o.desc 19 5) || !allZero (slice o.desc 32 32) then refuse s op 3
    else match peekFrom s 8 (semAddr s o) 8 with
      | none => finish s op 6
      | some b =>
        let v := semVal (o.f 18 1) (o.f 24 8) (unle (bytesOf b))
        let w := writeMem s 7 0 (semAddr s o) ((le 8 v).map (fun x => (x, anyPois b)))
        finish w.1 op (if w.2 then 0 else 6))
def execSemSignal (op : Nat) (s : State) : Host.Outcome State Fault Refusal := .next (keepWork s (semSignal op s))
/-- The counter read at the slice: OK at or above the threshold, else the wait goes on; `late` is its timeout. -/
def semEval (s : State) (o : Op) (late : Bool) : State :=
  match peekFrom s 8 (semAddr s o) 8 with
  | none => finish s o.id 6
  | some b =>
    if anyPois b then finish s o.id 5
    else if o.f 24 8 ≤ unle (bytesOf b) then finish s o.id 0
    else if late then finish s o.id 8
    else updOp s o.id (fun o => { o with stage := 2 })
def semWait (op : Nat) (s : State) : State :=
  withOp s op 0x31 0 (fun o =>
    if o.f 16 2 > 4095 || !allZero (slice o.desc 18 2) || !allZero (slice o.desc 32 32) then refuse s op 3
    else semEval (noteReads s 7 0 (semAddr s o) 8) o false)
def execSemWait (op : Nat) (s : State) : Host.Outcome State Fault Refusal := .next (keepWork s (semWait op s))
def semWake (op : Nat) (s : State) : State := withOp s op 0x31 2 (fun o => semEval s o false)
def execSemWaitWake (op : Nat) (s : State) : Host.Outcome State Fault Refusal := .next (keepWork s (semWake op s))
/-- TIMEOUT_MS from admission, in ticks; a write of the same cycle is taken first. -/
def semLate (op : Nat) (s : State) : State :=
  withOp s op 0x31 2 (fun o => if o.f 20 4 = 0 || s.tick < o.tick + 100000 * o.f 20 4 then s else semEval s o true)
def execSemWaitTimeout (op : Nat) (s : State) : Host.Outcome State Fault Refusal := .next (keepWork s (semLate op s))

/-! QUERY (R341, R342). -/
/-- A PF ring of a LOCKED partition sees none of its counters (R319). -/
def blindRing (s : State) (o : Op) : Bool := opFn s o == 0 && opPart s o < 8 && lockedTdi s (opPart s o)
def seeTents (s : State) (o : Op) : List Nat :=
  if blindRing s o then []
  else if opPart s o = 15 then (List.range 8).filter (fun t => !lockedTdi s (partOfTent s t))
  else partTents s (opPart s o)
def seePorts (s : State) (o : Op) : List Nat :=
  if blindRing s o then []
  else if opPart s o = 15 then (List.range 18).filter (fun n => !lockedTdi s (portPart s n))
  else (List.range 18).filter (fun n => portPart s n == opPart s o)
def seeParts (s : State) (o : Op) : List Nat :=
  if blindRing s o then [] else if opPart s o = 15 then (parts s).filter (fun p => !lockedTdi s p) else [opPart s o]
def coresIn (ts : List Nat) : List Nat := ts.flatMap (fun t => (List.range 64).map (· + 64 * t))
def poleRecords (s : State) (o : Op) : List Bytes :=
  (seeTents s o).flatMap (fun t => (List.range 1024).map (fun i =>
    let p := tget s.fab.poles {} (1024 * t + i)
    le 2 (1024 * t + i) ++ le 1 p.st ++ le 1 0 ++ le 4 p.fails))
def latRecord (s : State) (kind port cls : Nat) : Bytes :=
  let l := tget s.fab.lat {} (portKey kind port cls)
  le 1 kind ++ le 1 cls ++ le 2 port ++ zeros 4 ++ le 8 l.n ++ le 8 l.sum ++ le 8 l.max ++ le 8 l.late ++ zeros 8
def latRecords (s : State) (o : Op) : List Bytes :=
  let cs := coresIn (seeTents s o)
  let ports : List (Nat × Nat) := cs.map (fun c => (0, c)) ++ cs.map (fun c => (1, c)) ++ cs.map (fun c => (2, c)) ++
    (seeParts s o).map (fun p => (3, p)) ++ (seePorts s o).map (fun n => (4, n)) ++ (seeTents s o).map (fun t => (5, t))
  ports.flatMap (fun x => (List.range 4).map (fun c => latRecord s x.1 x.2 c))
def staleRecord (s : State) (kind base i : Nat) : Bytes :=
  let e := tget s.fab.epoch {} (base + i)
  le 1 kind ++ le 1 e.cur ++ le 2 i ++ le 4 e.stale
def staleRecords (s : State) (o : Op) : List Bytes :=
  let ts := seeTents s o
  (coresIn ts).map (staleRecord s 0 0) ++ (ts.flatMap (fun t => (List.range 8).map (· + 8 * t))).map (staleRecord s 1 512) ++
  ts.map (staleRecord s 2 576) ++ (seePorts s o).map (staleRecord s 3 584)
def outRecords (s : State) (o : Op) : List Bytes :=
  let ts := seeTents s o
  ((distinct s.dev.linesOut).filter (fun a => ts.contains (tentAt a))).map (le 8) ++
  ((distinct s.dev.chansOut).filter (fun c => ts.contains (c / 48))).map (fun c => le 8 (2 ^ 63 + c))
def wearRecords (s : State) (o : Op) : List Bytes :=
  (seeTents s o).map (fun t =>
    let b := (wearOf s t).bins
    le 1 t ++ zeros 3 ++ le 4 (wearEst b) ++ le 4 (suml b) ++ (List.range 5).flatMap (fun i => le 4 (b.getD i 0)))
/-- One QUERY: the checks of R341, the header and the records from START, as many as fit. -/
def query (op kind size : Nat) (recs : State → Op → List Bytes) (s : State) : State :=
  withOp s op 0x38 0 (fun o =>
    let all := recs s o
    let len := o.f 32 4
    let start := o.f 20 4
    if o.f 16 1 != kind then s
    else if !allZero (slice o.desc 17 3) || o.f 24 8 % 64 != 0 || len < 64 || len > 16777216 || len % 64 != 0 ||
        !allZero (slice o.desc 36 28) || start > all.length then refuse s op 3
    else
      let some_ := (all.drop start).take ((len - 16) / size)
      let out := le 1 kind ++ zeros 3 ++ le 4 size ++ le 4 all.length ++ le 4 some_.length ++ some_.flatten
      let w := if opPart s o = 15 then (let h := permit s 0; if h.2 then (hostWrite h.1 0 (o.f 24 8) out false s.link.relaxed, 0) else (h.1, 4))
               else vwrite s (opCtx s o) (o.f 24 8) (plainBytes out) 7 0
      if w.2 != 0 then finish w.1 op w.2 else finish w.1 op 0 some_.length all.length)
def execQueryPoleFailures (op : Nat) (s : State) : Host.Outcome State Fault Refusal := .next (keepWork s (query op 1 8 poleRecords s))
def execQueryPortLatency (op : Nat) (s : State) : Host.Outcome State Fault Refusal := .next (keepWork s (query op 2 48 latRecords s))
def execQueryStaleRole (op : Nat) (s : State) : Host.Outcome State Fault Refusal := .next (keepWork s (query op 3 8 staleRecords s))
def execQueryHbmOut (op : Nat) (s : State) : Host.Outcome State Fault Refusal := .next (keepWork s (query op 4 8 outRecords s))
def execQueryBondWear (op : Nat) (s : State) : Host.Outcome State Fault Refusal := .next (keepWork s (query op 5 32 wearRecords s))

/-! Event rings (R329, R332, R491, R529). -/
def keepEvt (s t : State) : State := { s with evt := t.evt }
/-- EVT_CFG.ENABLE set: every enable that takes effect is fresh. -/
def evtEnable (fn : Nat) (s : State) : State :=
  let r := evRing s fn
  let size := evCfg s fn % 32
  if !regOk s fn 0xE0008 || r.on then s
  else if size < 4 || size > 16 then setEvRing s fn { r with cfgErr := true }
  else setEvRing s fn { r with on := true, wr := 0, head := 0, phase := true, cfgErr := false }
def execEventRingEnable (fn : Nat) (s : State) (how : Arrival := {}) : Host.Outcome State Fault Refusal :=
  .next (barEntry keepEvt fn false false how (evtEnable fn) s)
def evtDisable (fn : Nat) (s : State) : State :=
  if regOk s fn 0xE0008 then setEvRing s fn { evRing s fn with on := false } else s
def execEventRingDisable (fn : Nat) (s : State) (how : Arrival := {}) : Host.Outcome State Fault Refusal :=
  .next (barEntry keepEvt fn false false how (evtDisable fn) s)
/-- EVT_HEAD.INDEX written; an index that the ring does not have is not taken. -/
def evtHead (fn index : Nat) (s : State) : State :=
  if regOk s fn 0xE000C && index < (if (evRing s fn).on then evSize s fn else 65536) then
    setEvRing s fn { evRing s fn with head := index } else s
def execEvtHead (fn index : Nat) (s : State) (how : Arrival := {}) : Host.Outcome State Fault Refusal :=
  .next (barEntry keepEvt fn false false how (evtHead fn index) s)
/-- The oldest detected event goes to its ring or rings, or is lost; a FATAL one begins its resets (R331, R332, R481). -/
def eventWrite (ok : Bool) (s : State) : State :=
  match s.evt.q with
  | [] => s
  | e :: q => runDue (postEv { s with evt := { s.evt with q := q } } e ok)
def execEventRecordWrite (ok : Bool) (s : State) : Host.Outcome State Fault Refusal := .next (eventWrite ok s)

/-! Teardown (R394, R455). -/
def execTeardownErase (part : Nat) (s : State) : Host.Outcome State Fault Refusal := .next (teardownErase s part)
/-- Enables latched while the partition was torn down are carried out. -/
def latchedRings (p : Nat) (s : State) : State :=
  if (downOf s p).isSome then s else ((List.range 256).filter (fun r => let g := ringOf s r; g.st == 0 && g.pend &&
    (if g.owner = 0 then bits (ringCfg s r) 8 4 else g.owner - 1) == p)).foldl (fun s r => enableRing s (ringOf s r).owner r) s
/-- Steps 5 and 6; the last teardown of a REPITCH takes the device to PITCHED (R451). -/
def execTeardownDone (part : Nat) (s : State) : Host.Outcome State Fault Refusal :=
  .next (repitchEnd (latchedRings part (teardownDone s part)))

end Sys2Proof.Machine
end

