-- ==== Sys2Proof/Machine/Launch.lean ====
section
/-! DEFINITION. Bundles and launches (R75 to R87). -/
namespace Sys2Proof.Machine

/-! Bundles. -/
structure Sect where
  type : Nat
  off : Nat
  len : Nat
  clean : Bool
  deriving DecidableEq, Repr
def sectAt (b : Bytes) (i : Nat) : Sect :=
  let r := slice b (16 + 16 * i) 16
  { type := fld r 0 4, off := fld r 4 4, len := fld r 8 4, clean := fld r 12 4 = 0 }
def entryAt (b : Bytes) (off i : Nat) : Entry :=
  let r := slice b (off + 32 * i) 32
  { code := fld r 0 4, regs := fld r 4 2, groups := fld r 6 1, barriers := fld r 7 1, sharedLs := fld r 8 4, groupLs := fld r 12 4
    formats := fld r 16 2, accBanks := fld r 18 1, uses := fld r 19 1 }
/-- R80: every field of an entry record in its range. -/
def epOk (b : Bytes) (off i codeLen : Nat) : Bool :=
  let e := entryAt b off i
  e.code % 16 == 0 && e.code < codeLen && 16 ≤ e.regs && e.regs ≤ 256 && 1 ≤ e.groups && e.groups ≤ 32 && e.barriers ≤ 16 &&
  e.sharedLs % 1024 == 0 && e.groupLs % 1024 == 0 && e.accBanks ≤ 4 && e.uses < 8 && allZero (slice b (off + 32 * i + 24) 8)
/-- R76: registers of a group, local store of a set, and sets of an entry point that an empty core holds. DESIGN CHOICE: a set of no
local store divides by zero in s_ls, which is then no limit, 32 (log entry 78). -/
def groupRegs (e : Entry) : Nat := 32 * (cdiv e.regs 8 * 8)
def setLs (e : Entry) (dyn : Nat) : Nat := e.sharedLs + dyn + e.groups * e.groupLs
def setsPerCore (e : Entry) (split dyn : Nat) : Nat :=
  let ls := setLs e dyn
  Nat.min (Nat.min (65536 / groupRegs e / e.groups) (if ls = 0 then 32 else lsBytes split / ls))
    (Nat.min (32 / e.groups)
      (Nat.min (if e.barriers = 0 then 32 else 128 / e.barriers) (if e.accBanks = 0 then 32 else 4 / e.accBanks)))
/-- R78 to R80 and R77: the status of a bundle, or what it holds (handle and place filled in later). DESIGN CHOICE: FORMATS bit 15
is answered as a format the device does not define (log entry 78). -/
def bundleOf (b : Bytes) : Nat ⊕ Bundle :=
  let n := fld b 6 2
  let ne := fld b 12 2
  let ss := (List.range n).map (sectAt b)
  let of (t : Nat) : List Sect := ss.filter (fun x => x.type == t)
  let top := 16 + 16 * n
  let apart := (ss.zipIdx).all (fun x => (ss.zipIdx).all (fun y =>
    x.2 == y.2 || x.1.off + x.1.len ≤ y.1.off || y.1.off + y.1.len ≤ x.1.off))
  let ok := fld b 0 4 == 0x314C5842 && fld b 4 2 == 1 && 2 ≤ n && n ≤ 16 && fld b 8 4 == b.length && 1 ≤ ne && ne ≤ 256 &&
    fld b 14 2 == 0 && top ≤ b.length &&
    ss.all (fun x => x.clean && 1 ≤ x.type && x.type ≤ 4 && x.off % 16 == 0 && top ≤ x.off && x.off + x.len ≤ b.length &&
      (x.type != 1 || (x.len ≤ 67108864 && x.len % 16 == 0))) &&
    apart && (of 1).length == 1 && (of 3).length == 1 && (of 2).length ≤ 1
  match ok, of 1, of 3 with
  | true, [c], [e] =>
    let idx := List.range ne
    let es := idx.map (entryAt b e.off)
    let ro := (of 2).headD { type := 2, off := 0, len := 0, clean := true }
    if e.len != 32 * ne || !idx.all (fun i => epOk b e.off i c.len) then .inl 3
    else if es.any (fun x => bit x.formats 15) then .inl 2
    else if es.any (fun x => setsPerCore x 4 0 == 0) then .inl 1
    else .inr { handle := 0, part := 0, base := 0, len := b.length, codeOff := c.off, codeLen := c.len, roOff := ro.off,
                roLen := ro.len, entries := es }
  | _, _, _ => .inl 3
/-- The lowest free place of the code reserve (R82), 16-byte aligned. -/
def reserveSlot (s : State) (p n : Nat) : Option Nat :=
  let lo := reserveBase s p
  let mine := s.krn.bundles.filter (fun b => b.part == p)
  let starts := distinct (lo :: mine.map (fun b => cdiv (b.base + b.len) 16 * 16))
  starts.find? (fun a => a + n ≤ lo + codeReserve s p && mine.all (fun b => a + n ≤ b.base || b.base + b.len ≤ a))
/-- The source of LOAD_BUNDLE: its bytes, or the status that ends the load. -/
def bundleBytes (s : State) (o : Op) (src : HostRead) : State × (Nat ⊕ Bytes) :=
  let a := o.f 16 8
  let n := o.f 24 4
  let host (runs : List (Nat × Nat)) : State × (Nat ⊕ Bytes) :=
    match takeRuns s (opPart s o) src runs n with
    | (s, .inl st) => (s, .inl st)
    | (s, .inr (_, true)) => (s, .inl 5)
    | (s, .inr (b, false)) => (s, .inr (slice b 0 n))
  if !bit (o.f 28 4) 0 then host [(a, n)]
  else match translate s (opCtx s o) a false with
    | .host _ => host (hostRuns s (opCtx s o) a n)
    | _ =>
      let s' := vnote s (opCtx s o) a n 7 0
      match vpeek s (opCtx s o) a n 8 with
      | .ok l => (s', if anyPois l then .inl 5 else .inr (bytesOf l))
      | .fault => (s', .inl 4)
      | .bus => (s', .inl 6)
/-- The source lies in host memory. -/
def fromHost (s : State) (o : Op) : Bool :=
  !bit (o.f 28 4) 0 || (match translate s (opCtx s o) (o.f 16 8) false with
    | .host _ => true
    | _ => false)
/-- LOAD_BUNDLE (R81, R82): read, checked, copied, measured, and answered with a fresh handle. DESIGN CHOICE: a bundle whose
UNLOAD_BUNDLE waits counts among the 64 (log entry 78). -/
def loadBundle (op : Nat) (src : HostRead) (s : State) : State :=
  withOp s op 0x02 0 (fun o =>
    let p := opPart s o
    let n := o.f 24 4
    if o.f 16 8 % 16 != 0 || n < 16 || n > 268435456 || o.f 28 4 ≥ 2 || !allZero (slice o.desc 32 32) then refuse s op 3
    else
      match reserveSlot s p n with
      | none => refuse s op 1
      | some a =>
        if (s.krn.bundles.filter (fun b => b.part == p)).length ≥ 64 then refuse s op 1
        else if d3 s (opFn s o) && fromHost s o then s
        else match bundleBytes s o src with
        | (s, .inl st) => finish s op st
        | (s, .inr b) =>
          match bundleOf b with
          | .inl st => refuse s op st
          | .inr x =>
            let h := s.krn.nextHandle
            let w := writeClean s 7 0 a b
            if !w.2 then finish w.1 op 6
            else
              let s := { w.1 with krn := { w.1.krn with nextHandle := h + 1
                                                        bundles := w.1.krn.bundles ++ [{ x with handle := h, part := p, base := a }] } }
              let s := logAppend s 4 p (le 4 h ++ le 4 o.ring) (Config.shake256 b)
              finish s op 0 h)
/-- Work that also measures: the log may change. -/
def keepLog (s t : State) : State := { keepWork s t with trust := { s.trust with
  log := t.trust.log, seq := t.trust.seq, chain := t.trust.chain, pchain := t.trust.pchain, logFull := t.trust.logFull } }
def execLoadBundle (op : Nat) (src : HostRead) (s : State) : Host.Outcome State Fault Refusal := .next (keepLog s (loadBundle op src s))

/-- A handle of the partition that has not been unloaded. -/
def liveBundle (s : State) (p h : Nat) : Option Bundle :=
  s.krn.bundles.find? (fun b => b.handle == h && b.part == p && b.unload.isNone)
/-- UNLOAD_BUNDLE (R83): the handle is invalid at once; the completion waits for the bundle's last launch. -/
def unloadBundle (op : Nat) (s : State) : State :=
  withOp s op 0x03 0 (fun o =>
    let h := o.f 16 4
    if !allZero (slice o.desc 20 44) || (liveBundle s (opPart s o) h).isNone then refuse s op 3
    else
      let s := { s with krn := { s.krn with bundles := s.krn.bundles.map (fun b => if b.handle == h then { b with unload := some op } else b) } }
      bundleFreed (updOp s op (fun o => { o with stage := 1 })) h)
def execUnloadBundle (op : Nat) (s : State) : Host.Outcome State Fault Refusal := .next (keepWork s (unloadBundle op s))

/-! Placement (R86). -/
/-- A logical core that may be given work: bound, its domain not failed, its cluster neither retired nor shut down (R30, R237,
R401, R410), its Tent in service. -/
def coreThere (s : State) (core : Nat) : Bool :=
  !tentDown s (core / 64) &&
  (tfind s.dev.physOf core).isSome && !s.pwr.domFail.contains core && !s.fab.cut.contains (core / 8) && !s.pwr.railOff.contains (core / 8)
/-- Enabled logical cores of a partition in placement order: core, then cluster, then Tent. -/
def placeOrder (s : State) (p : Nat) : List Nat :=
  (List.range 8).flatMap (fun c => (List.range 8).flatMap (fun k => (partTents s p).filterMap (fun t =>
    let cl := 8 * t + k
    if coreThere s (8 * cl + c) then some (8 * cl + c) else none)))
def launchOrder (s : State) (l : Launch) : List Nat :=
  let o := placeOrder s l.part
  if l.maxCores = 0 then o else o.take l.maxCores
def entryOf (s : State) (t : GSet) : Entry :=
  ((launchOf s t.launch).map (·.entry)).getD
    { code := 0, regs := 0, groups := 0, barriers := 0, sharedLs := 0, groupLs := 0, formats := 0, accBanks := 0, uses := 0 }
def freeBanks (c : Core) : List Nat := (List.range 4).filter (fun b => !c.sets.any (fun t => t.banks.contains b))
def freeGroups (c : Core) : List Nat := (List.range 32).filter (fun i => (tfind c.grps i).isNone)
/-- The lowest place in local store that a set of `n` bytes fits. -/
def freeLs (c : Core) (split n : Nat) : Option Nat :=
  (distinct (0 :: c.sets.map (fun t => t.lsBase + t.lsLen))).find? (fun a =>
    a + n ≤ lsBytes split && c.sets.all (fun t => a + n ≤ t.lsBase || t.lsBase + t.lsLen ≤ a))
/-- The core may be given to a set: no increment of its epoch waits, and one that the set brings can be made now (R281, R283). -/
def coreGiven (s : State) (core : Nat) : Bool :=
  (tget s.fab.epoch {} core).wait == 0 && (!(coreOf s core).handover || !bumpSoon s core)
/-- A core handed over takes its new epoch before the set is sent (R281). -/
def takeOver (s : State) (core : Nat) : State :=
  if (coreOf s core).handover then bumpEpoch (setCore s core { coreOf s core with handover := false }) core else s
/-- A core can take one more set of a launch (R75, R76). -/
def canTake (s : State) (l : Launch) (core : Nat) : Bool :=
  let c := coreOf s core
  let e := l.entry
  let live := c.sets.filter (fun t => !t.gone)
  coreGiven s core && (c.sets.isEmpty || c.split == l.split) && e.groups ≤ (freeGroups c).length && e.accBanks ≤ (freeBanks c).length &&
  suml (live.map (fun t => groupRegs (entryOf s t) * (entryOf s t).groups)) + groupRegs e * e.groups ≤ 65536 &&
  suml (live.map (fun t => (entryOf s t).barriers)) + e.barriers ≤ 128 && (freeLs c l.split (setLs e l.dynLs)).isSome
/-- Resident sets of the launch; DESIGN CHOICE: an ended one whose operations run on counts (log entry 78). -/
def setsOn (s : State) (l : Launch) (core : Nat) : Nat := ((coreOf s core).sets.filter (fun t => t.launch == l.op)).length
/-- The core of the next set: fewest resident sets of the launch, the earliest in order among equals. -/
def placeCore (s : State) (l : Launch) : Option Nat :=
  ((launchOrder s l).filter (canTake s l)).foldl (fun b c => match b with
    | none => some c
    | some d => if setsOn s l c < setsOn s l d then some c else some d) none
/-- A set is put on a core: an empty core takes the launch's split, its L1 written back (R75). Registers of a file not
cleared since are free values; its accumulator banks are +0 without marks, typed FP32, and its local store has no promotion
mark (R111, R112, R158). DESIGN CHOICE: HALT_AT_ENTRY halts its groups also after the debugger has detached (log entry 78). -/
def putSet (s : State) (l : Launch) (core : Nat) : State :=
  let s := if (coreOf s core).sets.isEmpty && (coreOf s core).split != l.split then
      let s := flushL1 s core
      setCore s core { coreOf s core with split := l.split, l1 := [] }
    else s
  let c := coreOf s core
  let slots := (freeGroups c).take l.entry.groups
  let gen := if c.regClean then 0 else s.free + 1
  let new : GSet := { launch := l.op, idx := l.next, slots, lsBase := (freeLs c l.split (setLs l.entry l.dynLs)).getD 0
                      lsLen := setLs l.entry l.dynLs, shared := l.entry.sharedLs + l.dynLs
                      banks := (freeBanks c).take l.entry.accBanks }
  let grp (j : Nat) : Grp := { launch := l.op, set := l.next, idx := j, pc := l.entry.code, gen
                               halt := if l.haltEntry then some 0x12 else none }
  let s := setCore { s with free := s.free + 1 } core { c with
    banks := c.banks.filter (fun b => !new.banks.contains b.1)
    marks := c.marks.filter (fun m => !(new.lsBase ≤ 16 * m && 16 * m < new.lsBase + new.lsLen))
    sets := c.sets ++ [new], regClean := false, grps := (slots.zipIdx).foldl (fun t x => tset t x.1 (grp x.2)) c.grps }
  updLaunch s l.op (fun l => { l with next := l.next + 1, cores := sadd l.cores core })
def gridSize (l : Launch) : Nat := l.grid.1 * l.grid.2.1 * l.grid.2.2
/-- As many sets as the cores take now. -/
def placeAll : Nat → State → Nat → State
  | 0, s, _ => s
  | n + 1, s, op =>
    match launchOf s op with
    | none => s
    | some l =>
      if l.ended || l.next ≥ gridSize l then s
      else match placeCore s l with
        | none => s
        | some c => placeAll n (putSet (takeOver s c) l c) op
/-- SET_PLACEMENT: one waiting set, sent with the core's role epoch; a stale one returns and ends the launch (R282). -/
def setPlacement (op epoch : Nat) (s : State) : State :=
  match launchOf s op with
  | none => s
  | some l =>
    if l.ended || l.next ≥ gridSize l then s
    else match placeCore s l with
      | none => s
      | some c =>
        let s := takeOver s c
        if epoch != epochOf s c then
          updLaunch (staleReturn s c l.part) op (fun l => { l with ended := true, status := 7 })
        else putSet s l c
def execSetPlacement (op epoch : Nat) (s : State) : Host.Outcome State Fault Refusal := .next (keepWork s (setPlacement op epoch s))

/-! LAUNCH (R84, R85). -/
/-- The first failing check, or the entry point. -/
def launchCheck (s : State) (o : Op) : Nat ⊕ Entry :=
  let p := opPart s o
  let d := o.f 48 4
  if o.f 22 1 > 4 || o.f 23 1 > 1 || o.f 60 4 != 0 || o.f 24 4 = 0 || o.f 28 2 = 0 || o.f 30 2 = 0 || o.f 32 8 % 16 != 0 ||
      d % 1024 != 0 then .inl 3
  else match (liveBundle s p (o.f 16 4)).bind (fun b => b.entries[o.f 20 2]?) with
    | none => .inl 3
    | some e =>
      if o.f 23 1 = 1 && !attached s p then .inl 3
      else if setsPerCore e (o.f 22 1) d = 0 then .inl 1
      else if (placeOrder s p).isEmpty then .inl 1
      else .inr e
/-- The launch as admitted, under the policy in force (R149) and with the partition's next SEQ (R160). DESIGN CHOICE: ARG_VA is held
for the launch and put into no register, since no rule says where a group finds it (log entry 78). -/
def newLaunch (s : State) (o : Op) (e : Entry) : Launch :=
  let p := opPart s o
  { op := o.id, part := p, ctx := opCtx s o, cls := ringClass s o.ring, bundle := o.f 16 4, entry := e
    grid := (o.f 24 4, o.f 28 2, o.f 30 2), split := o.f 22 1, haltEntry := o.f 23 1 = 1, arg := o.f 32 8, seed := o.f 40 8
    dynLs := o.f 48 4, spin := o.f 52 2, maxCores := o.f 54 2, timeout := o.f 56 4, policy := tget s.krn.policy {} p
    guard := { st := if (tget s.krn.policy {} p).mode = 0 then 0 else 1 }, seq := tget s.krn.gseq 0 p, start := s.tick }
def launchRun (op : Nat) (s : State) : State :=
  withOp s op 0x04 0 (fun o =>
    match launchCheck s o with
    | .inl st => refuse s op st
    | .inr e =>
      let l := newLaunch s o e
      let s := { s with krn := { s.krn with launches := s.krn.launches ++ [l], gseq := tset s.krn.gseq l.part ((l.seq + 1) % 2 ^ 32) } }
      placeAll (Nat.min (gridSize l) 16384) (updOp s op (fun o => { o with stage := 1 })) op)
def execLaunch (op : Nat) (s : State) : Host.Outcome State Fault Refusal := .next (keepWork s (launchRun op s))

/-- Counts on their way to the launch's tally, its requests, matrix operations and combines that are still under way, and
write-backs of its cores. -/
def launchBusy (s : State) (l : Launch) : Bool :=
  !l.guard.queue.isEmpty ||
  s.krn.cores.any (fun c => c.2.mq.any (fun m => m.launch == l.op) ||
    c.2.outst.any (fun x => x.launch == l.op || (x.kind == 1 && l.cores.contains c.1))) ||
  s.krn.combq.any (fun q => q.2.any (fun m => m.launch == l.op))
/-- LAUNCH_COMPLETE (R87, R89): every set and operation has ended, or the launch was ended and its requests and operations
have come to theirs. -/
def launchComplete (op : Nat) (s : State) : State :=
  match launchOf s op with
  | none => s
  | some l =>
    let out := s.krn.cores.any (fun c => c.2.sets.any (fun t => t.launch == op))
    if launchBusy s l || (!l.ended && (l.next < gridSize l || out)) then s else completeLaunch s op true
def execLaunchComplete (op : Nat) (s : State) : Host.Outcome State Fault Refusal := .next (keepWork s (launchComplete op s))

/-- Groups of a launch: core and slot. -/
def groupsOf (s : State) (op : Nat) : List (Nat × Nat × Grp) :=
  s.krn.cores.flatMap (fun c => (c.2.grps.filter (fun g => g.2.launch == op)).map (fun g => (c.1, g.1, g.2)))
/-- TIMEOUT_MS from admission has passed, the ticks with a halted group left out: WATCHDOG, once, in each running group (R87). -/
def launchTimeout (op : Nat) (s : State) : State :=
  match launchOf s op with
  | some l =>
    let gs := groupsOf s op
    if l.ended || l.expired || l.timeout = 0 || s.tick < l.start + l.halted + 100000 * l.timeout || anyHalted s op then s
    else gs.foldl (fun s g => raise s g.1 g.2.1 0x0D) (updLaunch s op (fun l => { l with expired := true }))
  | none => s
def execLaunchTimeout (op : Nat) (s : State) : Host.Outcome State Fault Refusal := .next (keepWork s (launchTimeout op s))

end Sys2Proof.Machine
end

