-- ==== Sys2Proof/Machine/Chain.lean ====
section
/-! DEFINITION. The Chain engine's five opcodes (R458 to R465), the SCRUB summary (R262) and sealed objects (R392, R393). -/
namespace Sys2Proof.Machine

/-! Addresses and checks (R209, R458). -/
def chainPhys (o : Op) : Bool := bit (o.f 40 4) 31
/-- Where an address of the operation leads. -/
def chainXl (s : State) (o : Op) (a : Nat) (write : Bool) : Xl :=
  if chainPhys o then .pa a else translate s (opCtx s o) a write
/-- R209 in its order, for a physical range: SECURITY_DENIED on a VF's ring, over a code reserve or the regions of a LOCKED
partition (R304), BAD_DESCRIPTOR outside HBM3E or the ring's partition. -/
def physBad (s : State) (o : Op) (a n : Nat) : Option Nat :=
  let p := opPart s o
  let tents := (List.range 8).filter (fun t => a < tentBase (t + 1) && tentBase t < a + n)
  if opFn s o != 0 then some 0x0A
  else if (List.range 8).any (fun q => inReserve s q a n) then some 0x0A
  else if tents.any (fun t => lockedTdi s (partOfTent s t) && partOfTent s t < 8) then some 0x0A
  else if a + n > hbmEnd || !(single s || tents.all (fun t => bit (partMask s p) t)) then some 3
  else none
/-- A virtual range meets a page of device register space. -/
def meetsRegs (s : State) (o : Op) (a n : Nat) : Bool :=
  !chainPhys o && (pieces a n).any (fun x => match translate s (opCtx s o) x.1 false with
    | .regs _ => true
    | _ => false)
def rangeBad (s : State) (o : Op) (a n : Nat) : Option Nat :=
  if chainPhys o then physBad s o a n else if meetsRegs s o a n then some 3 else none
def overlapping (a n b m : Nat) : Bool := a < b + m && b < a + n
/-- Fields of R458 that hold for every opcode: FLAGS bits by the opcode, the key slot and the capacity where they are unused. -/
def chainFields (o : Op) (bit2 key cap : Bool) : Bool :=
  let fl := o.f 40 4
  bits fl 3 28 == 0 && (bit2 || !bit fl 2) && (if key then o.f 44 1 < 16 else o.f 44 1 == 0) && allZero (slice o.desc 45 3) &&
  (cap || o.f 48 4 == 0) && allZero (slice o.desc 52 12)
def lengthOk (n : Nat) : Bool := 128 ≤ n && n ≤ 2 ^ 40 && n % 128 == 0
def chainCls (o : Op) : Nat := let c := o.f 40 4 % 4; if c = 1 then 1 else if c = 3 then 3 else 2
/-- The Tent whose engine leads an operation (R459). -/
def leadTent (s : State) (o : Op) : Nat :=
  match chainXl s o (o.f 16 8) false with
  | .pa a => tentAt a
  | _ => (partTents s (opPart s o)).headD 0
/-- The Tent whose engine, or whose slices, perform a line of ADDR_A (R459): its home, else the lead's. -/
def lineTent (s : State) (o : Op) (a : Nat) : Nat :=
  match chainXl s o a false with
  | .pa x => tentAt x
  | _ => leadTent s o
/-- The Tents whose engine leads the operation or has a share in it: a COPY or COMPARE is shared by the engines at home to
ADDR_A (R459). -/
def engines (s : State) (o : Op) : List Nat :=
  if (o.code = 8 && !bit (o.f 40 4) 2) || o.code = 0x0A then
    (rngPages (o.f 16 8) (o.f 32 8)).foldl (fun l x => sadd l (lineTent s o x.1)) [leadTent s o]
  else [leadTent s o]
/-- An engine that the operation needs holds 16 operations: it waits at admission (R463). -/
def engineFull (s : State) (o : Op) : Bool :=
  (engines s o).any (fun t =>
    (s.rng.ops.filter (fun x => 8 ≤ x.code && x.code ≤ 0x0C && x.stage != 0 && (engines s x).contains t)).length ≥ 16)

/-! Lines (R461, R462). -/
/-- What a Chain engine read does at the slice: upset bytes are met, a hit is a hit, a dead range posts its event, a miss has
its sectors decoded and installs nothing. -/
def noteChain (s : State) (tent line : Nat) : State :=
  if inPlot line then (if plotBacked s line then parity s line 0 5 tent else s)
  else if !inHbm line || outOfService s line then s
  else if (resident s line).isSome then touch (parity s line 0 5 tent) line
  else match deadAt s line with
    | some d => deadEvent s d line 5 tent
    | none =>
      if s.mem.miss.any (fun m => m.line == line) || s.mem.msa.any (fun r => r.line == line) then s
      else readSectors s line {} {} 5 tent
/-- The last line of the physical run that begins at address `a` of the operation, at `x`, and goes on to the end of its
destination range. -/
def runLast (s : State) (o : Op) (a x fin : Nat) : Nat :=
  let r := (rngPages a (fin - a)).foldl (fun (r : Nat × Bool) p =>
    match chainXl s o p.1 true with
    | .pa y => if r.2 && y = r.1 then (r.1 + p.2, true) else (r.1, false)
    | _ => (r.1, false)) (x, true)
  if x < r.1 then lineOf (r.1 - 1) else lineOf x
/-- Bytes written within one line: in place where the line is resident or in a Plot, else to HBM3E without installing it. A dead
entry gives up the lines from here to `last`, the end of the destination's run (R215). -/
def chainWrite (s : State) (tent line last : Nat) (bs : List (Nat × MByte)) : State × Bool :=
  if !backed s line then (s, false)
  else
    let s := drainLine s line
    let act : MemDo := .write (bs.map (fun b => (b.1, b.2.1))) (bs.foldl (fun a b => if b.2.2 then a ||| 2 ^ (b.1 / 64) else a) 0)
    if inPlot line || (resident s line).isSome then
      let s := parity s line (wholeHalves act) 5 tent
      (touch (putLine s line (applyDo act (lineVal s line))) line, true)
    else
      let s := if (deadAt s line).isSome then trimDead s line (Nat.max line last) true else s
      let s' := if wholeHalves act = 3 then s else readSectors s line {} {} 5 tent
      if busAt s line && freshLine s line {} {} && wholeHalves act != 3 then (s', false)
      else (putHbm s' line (applyDo act (hbmLine s line)), true)
/-- Host bytes that a command brought in, as the engine takes them. -/
structure HostSrc where
  data : Nat ⊕ (Bytes × Bool)
  off : Nat := 0
  deriving DecidableEq, Repr
/-- One piece of a range read by the engine of Tent `t`: bytes, or the status that stops the operation. -/
def chainRead (s : State) (o : Op) (t a n : Nat) (h : HostSrc) : State × HostSrc × (Nat ⊕ List MByte) :=
  let s := latFree s 5 t (chainCls o) n
  match chainXl s o a false with
  | .pa x =>
    match peekFrom s t x n with
    | some l => (noteChain s t (lineOf x), h, .inr l)
    | none => (noteChain s t (lineOf x), h, .inl 6)
  | .host _ =>
    if cutOff s 8 t then (s, h, .inl 6)
    else match h.data with
      | .inr (b, ep) => (s, { h with off := h.off + n }, .inr ((slice b h.off n).map (fun x => (x, ep))))
      | .inl st => (s, h, .inl st)
  | .foreign x => (foreignEvent s (opPart s o) x 5 t, h, .inl 6)
  | .regs _ => (s, h, .inl 6)
  | .fault => (s, h, .inl 4)
/-- One piece of the destination range that ends at `fin`, written from Tent `t`: 0 performed, 5 sent to the host poisoned,
else the status that stops the operation. -/
def chainPut (s : State) (o : Op) (t a : Nat) (b : List MByte) (fin : Nat) : State × Nat :=
  let s := latFree s 5 t (chainCls o) b.length
  match chainXl s o a true with
  | .pa x =>
    if cutOff s t (tentAt x) then (s, 6)
    else let w := chainWrite s t (lineOf x) (runLast s o a x fin) (b.zipIdx.map (fun y => (x % 128 + y.2, y.1))); (w.1, if w.2 then 0 else 6)
  | .host x =>
    if cutOff s 8 t then (s, 6)
    else
    let halves := [(x, b.take 64), (x + 64, b.drop 64)].filter (fun y => y.2 != [])
    halves.foldl (fun r y => let w := hostData r.1 (opPart r.1 o) y.1 y.2; (w.1, if r.2 = 0 then w.2 else r.2)) (s, 0)
  | .foreign x => (foreignEvent s (opPart s o) x 5 t, 6)
  | .regs _ => (s, 6)
  | .fault => (s, 4)
def stops (st : Nat) : Bool := st == 4 || st == 6
/-- Bytes written at an address of the operation, piece by piece, until one stops it. -/
def chainPuts (s : State) (o : Op) (a : Nat) (b : List MByte) (fin : Nat) : State × Nat :=
  (pieces a b.length).foldl (fun r x =>
    if r.2 != 0 then r else chainPut r.1 o (leadTent r.1 o) x.1 ((b.drop (x.1 - a)).take x.2) fin) (s, 0)
/-- The operation's result is ready; CHAIN_OPERATION_DONE completes it. -/
def ready (s : State) (id status info result : Nat) (data : Bytes := []) : State :=
  updOp s id (fun o => { o with stage := 3, status, info, result, data })

/-! FILL. -/
def fillLines : Nat → State → Op → Nat → State × Nat
  | 0, s, _, _ => (s, 0)
  | n + 1, s, o, i =>
    let pat := slice o.desc 24 8
    let a := o.f 16 8 + 128 * i
    let w := chainPut s o (lineTent s o a) a ((List.range 128).map (fun j => (pat.getD (j % 8) 0, false))) (o.f 16 8 + o.f 32 8)
    if stops w.2 then w else fillLines n w.1 o (i + 1)
def fillRun (op : Nat) (s : State) : State :=
  withOp s op 0x09 0 (fun o =>
    if !chainFields o false false false || o.f 16 8 % 128 != 0 || !lengthOk (o.f 32 8) then refuse s op 3
    else match rangeBad s o (o.f 16 8) (o.f 32 8) with
      | some st => refuse s op st
      | none =>
        if engineFull s o then s
        else let r := fillLines (o.f 32 8 / 128) s o 0; ready r.1 op r.2 0 0)
def execFill (op : Nat) (s : State) : Host.Outcome State Fault Refusal := .next (keepWork s (fillRun op s))

/-! COPY. Lines go one by one; a line in host memory leaves as a read request and is written when it returns. While the
operation runs, RESULT holds the number of its next line and STATUS what stands so far. -/
def readsOf (s : State) (fn : Nat) : Nat := (s.link.reads.filter (fun r => r.fn == fn)).length
/-- How many requests a function may have outstanding: 10-bit tags or 8-bit (R300). -/
def tagLimit (s : State) : Nat := if s.link.tag10 then 768 else 256
def issueRead (s : State) (fn addr len : Nat) (why : ReadFor) : State :=
  let tag := s.link.nextTag
  let s := useAtc s fn addr
  hostOut { s with link := { s.link with nextTag := tag + 1, reads := s.link.reads ++ [{ tag, fn, addr, len, why, at_ := s.tick }] } } fn
    (.read tag fn addr len)
/-- One line: its status, or none where no tag is free or its function is in D3hot (R298, R300). -/
def copyLine (s : State) (o : Op) (i : Nat) : State × Option Nat :=
  let dst := o.f 16 8 + 128 * i
  let src := o.f 24 8 + 128 * i
  let fn := opFn s o
  let dstBad : Bool := match chainXl s o dst true with
    | .fault => true
    | _ => false
  match chainXl s o src false with
  | .host x =>
    if dstBad then (s, some 4)
    else if cutOff s 8 (lineTent s o dst) then (s, some 6)
    else if d3 s fn || readsOf s fn ≥ tagLimit s then (s, none)
    else (updOp (issueRead s fn x 128 (.copy o.id dst 128)) o.id (fun o => { o with reads := o.reads + 1 }), some 0)
  | _ =>
    let r := chainRead s o (lineTent s o dst) src 128 { data := .inl 6 }
    match r.2.2 with
    | .inl st => (r.1, some st)
    | .inr b => if dstBad then (r.1, some 4) else let w := chainPut r.1 o (lineTent r.1 o dst) dst b (o.f 16 8 + o.f 32 8); (w.1, some w.2)
def copyGo : Nat → State → Nat → State
  | 0, s, _ => s
  | n + 1, s, id =>
    match opOf s id with
    | none => s
    | some o =>
      let total := o.f 32 8 / 128
      if o.result ≥ total then s
      else match copyLine s o o.result with
        | (s, none) => s
        | (s, some st) =>
          copyGo n (updOp s id (fun o => { o with status := if o.status = 0 then st else o.status
                                                  result := if stops st then total else o.result + 1 })) id
/-- Every line is performed or the operation has stopped, and no read is outstanding. -/
def copyEnd (s : State) (id : Nat) : State :=
  match opOf s id with
  | some o => if o.result ≥ o.f 32 8 / 128 && o.reads = 0 then ready s id o.status 0 0 else s
  | none => s
def copyOn (s : State) (id : Nat) : State :=
  match opOf s id with
  | some o => if o.code = 8 && o.stage = 1 then copyEnd (copyGo (o.f 32 8 / 128 - o.result) s id) id else s
  | none => s
def copyRun (op : Nat) (s : State) : State :=
  withOp s op 0x08 0 (fun o =>
    let n := o.f 32 8
    if bit (o.f 40 4) 2 then s
    else if !chainFields o false false false || o.f 16 8 % 128 != 0 || o.f 24 8 % 128 != 0 || !lengthOk n ||
        overlapping (o.f 16 8) n (o.f 24 8) n then refuse s op 3
    else match rangeBad s o (o.f 16 8) n, rangeBad s o (o.f 24 8) n with
      | some st, _ => refuse s op st
      | none, some st => refuse s op st
      | none, none => if engineFull s o then s else copyOn (updOp s op (fun o => { o with stage := 1 })) op)
def execCopy (op : Nat) (s : State) : Host.Outcome State Fault Refusal := .next (keepWork s (copyRun op s))
/-- The read of a COPY's line has come back: the line is written, or the error stops the operation (R306, R462). -/
def copyArrive (s : State) (id dst : Nat) (d : Nat ⊕ (Bytes × Bool)) : State :=
  match opOf s id with
  | none => s
  | some o =>
    let r := match d with
      | .inl st => (s, st)
      | .inr (b, ep) => chainPut s o (lineTent s o dst) dst ((slice b 0 128).map (fun x => (x, ep))) (o.f 16 8 + o.f 32 8)
    copyOn (updOp r.1 id (fun o => { o with reads := o.reads - 1, status := if o.status = 0 then r.2 else o.status
                                            result := if stops r.2 then o.f 32 8 / 128 else o.result })) id

/-! COMPARE and DIGEST. -/
/-- A range reads host memory somewhere. -/
def usesHost (s : State) (o : Op) (a n : Nat) : Bool :=
  !chainPhys o && (pieces a n).any (fun x => match translate s (opCtx s o) x.1 false with
    | .host _ => true
    | _ => false)
/-- The function is in D3hot and may not read host memory for the operation (R298). -/
def hostHeld (s : State) (o : Op) (ranges : List (Nat × Nat)) : Bool :=
  d3 s (opFn s o) && ranges.any (fun r => usesHost s o r.1 r.2)
/-- The host bytes of an operation, taken once. -/
def hostSrc (s : State) (o : Op) (ranges : List (Nat × Nat)) (src : HostRead) : State × HostSrc :=
  match ranges.find? (fun r => usesHost s o r.1 r.2) with
  | some r => let t := takeRuns s (opPart s o) src (hostRuns s (opCtx s o) r.1 r.2) r.2; (t.1, { data := t.2 })
  | none => (s, { data := .inl 6 })
/-- Lines compared so far: differing lines and the first differing byte. -/
structure Diff where
  lines : Nat := 0
  first : Option Nat := none
  deriving DecidableEq, Repr
def diffLine (d : Diff) (i : Nat) (a b : List MByte) : Diff :=
  match (a.zip b).findIdx? (fun x => x.1.1 != x.2.1) with
  | none => d
  | some k => { lines := d.lines + 1, first := some (d.first.getD (128 * i + k)) }
def compareLines : Nat → State → Op → Nat → HostSrc → Diff → State × Nat × Diff
  | 0, s, _, _, _, d => (s, 0, d)
  | n + 1, s, o, i, h, d =>
    let t := lineTent s o (o.f 16 8 + 128 * i)
    match chainRead s o t (o.f 16 8 + 128 * i) 128 h with
    | (s, _, .inl st) => (s, st, d)
    | (s, h, .inr a) =>
      match chainRead s o t (o.f 24 8 + 128 * i) 128 h with
      | (s, _, .inl st) => (s, st, d)
      | (s, h, .inr b) => if anyPois a || anyPois b then (s, 5, d) else compareLines n s o (i + 1) h (diffLine d i a b)
def compareRun (op : Nat) (src : HostRead) (s : State) : State :=
  withOp s op 0x0A 0 (fun o =>
    let n := o.f 32 8
    if !chainFields o false false false || o.f 16 8 % 128 != 0 || o.f 24 8 % 128 != 0 || !lengthOk n ||
        overlapping (o.f 16 8) n (o.f 24 8) n then refuse s op 3
    else match rangeBad s o (o.f 16 8) n, rangeBad s o (o.f 24 8) n with
      | some st, _ => refuse s op st
      | none, some st => refuse s op st
      | none, none =>
        if engineFull s o || hostHeld s o [(o.f 16 8, n), (o.f 24 8, n)] then s
        else
          let h := hostSrc s o [(o.f 16 8, n), (o.f 24 8, n)] src
          let r := compareLines (n / 128) h.1 o 0 h.2 {}
          if r.2.1 != 0 then ready r.1 op r.2.1 0 0
          else ready r.1 op 0 (sat 32 r.2.2.lines) (r.2.2.first.getD (2 ^ 64 - 1)))
def execCompare (op : Nat) (src : HostRead) (s : State) : Host.Outcome State Fault Refusal := .next (keepWork s (compareRun op src s))
/-- The bytes of a range in order, with marks, or the status that stops the operation. -/
def chainBytes (s : State) (o : Op) (a n : Nat) (h : HostSrc) : State × HostSrc × (Nat ⊕ List MByte) :=
  (pieces a n).foldl (fun r x => match r with
    | (s, h, .inr l) => match chainRead s o (leadTent s o) x.1 x.2 h with
      | (s, h, .inr b) => (s, h, .inr (l ++ b))
      | (s, h, .inl st) => (s, h, .inl st)
    | r => r) (s, h, .inr [])
/-- Digest operations consume a mark: POISON_CONSUMED. -/
def digestRun (op : Nat) (src : HostRead) (s : State) : State :=
  withOp s op 0x0B 0 (fun o =>
    let n := o.f 32 8
    if !chainFields o true false false || o.f 16 8 % 128 != 0 || o.f 24 8 % 64 != 0 || n < 1 || n > 2 ^ 40 then refuse s op 3
    else match rangeBad s o (o.f 16 8) n, rangeBad s o (o.f 24 8) 64 with
      | some st, _ => refuse s op st
      | none, some st => refuse s op st
      | none, none =>
        if engineFull s o || hostHeld s o [(o.f 16 8, n)] then s
        else
          let h := hostSrc s o [(o.f 16 8, n)] src
          match chainBytes h.1 o (o.f 16 8) n h.2 with
          | (s, _, .inl st) => ready s op st 0 0
          | (s, _, .inr b) => if anyPois b then ready s op 5 0 0 else ready s op 0 0 0 (Config.shake256 (bytesOf b)))
def execDigest (op : Nat) (src : HostRead) (s : State) : Host.Outcome State Fault Refusal := .next (keepWork s (digestRun op src s))

/-! COPY with SEALED (R392, R393, R458). -/
def sealChunks (n : Nat) : Nat := cdiv n 65536
/-- Chunk i: none where its tag fails, its bytes are marked or its slot is empty. -/
def openChunk (s : State) (o : Op) (hdr : Bytes) (ct : List MByte) (i : Nat) : Option Bytes :=
  match tfind s.trust.keys (16 * opPart s o + o.f 44 1) with
  | none => none
  | some key =>
    if anyPois ct then none
    else
      let b := bytesOf ct
      Config.gcmOpen key (slice hdr 4 4 ++ le 8 i) (hdr ++ le 8 i) (b.take (b.length - 16)) (b.drop (b.length - 16))
def sealLoop : Nat → State → Op → Bytes → HostSrc → Nat → Nat → Bytes → State × Nat × Bytes
  | 0, s, _, _, _, _, _, out => (s, 0, out)
  | n + 1, s, o, hdr, h, len, i, out =>
    let k := Nat.min 65536 (len - 65536 * i)
    match chainBytes s o (o.f 24 8 + 64 + 65552 * i) (k + 16) h with
    | (s, _, .inl st) => (s, st, out)
    | (s, h, .inr ct) =>
      match openChunk s o hdr ct i with
      | none => (detect s 0x603 2 (opPart s o) 0 (o.f 16 8) [] o.ring, 0x0A, out)
      | some pt =>
        match chainPuts s o (o.f 16 8 + 65536 * i) (plainBytes (slice pt 0 k)) (o.f 16 8 + cdiv len 128 * 128) with
        | (s, 0) => sealLoop n s o hdr h len (i + 1) (out ++ slice pt 0 k)
        | (s, st) => (s, st, out)
def copySealed (op : Nat) (src : HostRead) (s : State) : State :=
  withOp s op 0x08 0 (fun o =>
    let n := o.f 32 8
    if !bit (o.f 40 4) 2 then s
    else if !chainFields o true true false || chainPhys o || o.f 16 8 % 128 != 0 || o.f 24 8 % 128 != 0 || n < 64 || n > 2 ^ 40 then
      refuse s op 3
    else if meetsRegs s o (o.f 24 8) n then refuse s op 3
    else if engineFull s o || hostHeld s o [(o.f 24 8, n)] then s
    else
      let h := hostSrc s o [(o.f 24 8, n)] src
      match chainBytes h.1 o (o.f 24 8) 64 h.2 with
      | (s, _, .inl st) => ready s op st 0 0
      | (s, h, .inr hb) =>
        let hdr := bytesOf hb
        let len := fld hdr 8 8
        let span := cdiv len 128 * 128
        if anyPois hb then ready (detect s 0x603 2 (opPart s o) 0 (o.f 16 8) [] o.ring) op 0x0A 0 0
        else if fld hdr 0 4 != 0x31575356 || n != 64 + len + 16 * sealChunks len || meetsRegs s o (o.f 16 8) span ||
            overlapping (o.f 16 8) span (o.f 24 8) n then ready s op 3 0 0
        else
          let r := sealLoop (sealChunks len) s o hdr h len 0 []
          if r.2.1 != 0 then ready r.1 op r.2.1 0 0 else ready r.1 op 0 0 len (Config.shake256 r.2.2))
def execCopySealed (op : Nat) (src : HostRead) (s : State) : Host.Outcome State Fault Refusal := .next (keepWork s (copySealed op src s))

/-! SCRUB (R260 to R262). -/
structure ScrubSum where
  sectors : Nat := 0
  corrected : Tab Nat := []
  unc : Tab Nat := []
  pois : Tab Nat := []
  first : Option Nat := none
  chans : List Nat := []
  /-- Bursts that the inner code corrected. -/
  inner : Nat := 0
  deriving DecidableEq, Repr
/-- Bursts of a sector in which the inner code corrected bits. -/
def burstsFixed (f : Sector) : Nat := b2n (burstFixed f.bursts.1 != 0) + b2n (burstFixed f.bursts.2 != 0)
def scrubOne (found : List (Nat × Sector)) (r : State × ScrubSum) (pa : Nat) : State × ScrubSum :=
  if outOfService r.1 pa then r
  else
    let ch := chanAt pa
    let f := (tfind found pa).getD {}
    let x := scrubSector r.1 pa f 8 (ch / 48)
    let y := { r.2 with sectors := r.2.sectors + 1, chans := sadd r.2.chans ch, inner := r.2.inner + burstsFixed f }
    (x.1, if x.2 = 1 then { y with corrected := tupd y.corrected 0 ch (· + 1) }
          else if x.2 = 2 then { y with unc := tupd y.unc 0 ch (· + 1), first := some (y.first.getD pa) }
          else if x.2 = 3 then { y with pois := tupd y.pois 0 ch (· + 1) } else y)
def scrubLines : Nat → State → Op → List (Nat × Sector) → Nat → ScrubSum → State × Nat × ScrubSum
  | 0, s, _, _, _, y => (s, 0, y)
  | n + 1, s, o, found, i, y =>
    match chainXl s o (o.f 16 8 + 128 * i) false with
    | .fault => (s, 4, y)
    | .pa a =>
      if inHbm a then
        let r := scrubOne found (scrubOne found (s, y) a) (a + 64)
        scrubLines n r.1 o found (i + 1) r.2
      else scrubLines n s o found (i + 1) y
    | .foreign _ => scrubLines n s o found (i + 1) y
    | .host _ => scrubLines n s o found (i + 1) y
    | .regs _ => scrubLines n s o found (i + 1) y
def sumTab (t : Tab Nat) : Nat := suml (t.map (·.2))
/-- Rows that the listed channels have remapped. -/
def remapped (s : State) (chans : List Nat) : Nat := suml (chans.map (fun c => (chanOf s c).remap.length))
/-- The summary of R262 as the sectors leave it; REMAPPED joins it at the completion. -/
def scrubSummary (s : State) (y : ScrubSum) : Bytes :=
  le 8 y.sectors ++ le 4 (sat 32 (sumTab y.corrected)) ++ le 4 (sat 32 (sumTab y.unc)) ++ le 4 (sat 32 (sumTab y.pois)) ++ le 2 0 ++
  le 2 y.chans.length ++ le 8 (y.first.getD (2 ^ 64 - 1)) ++ le 4 (sat 32 y.inner) ++ zeros 28 ++
  y.chans.flatMap (fun c =>
    let x := chanOf s c
    le 2 c ++ le 2 (b2n x.sparesOut + 2 * b2n (!x.pins.isEmpty)) ++ le 4 (sat 32 (tget y.corrected 0 c)) ++
    le 4 (sat 32 (tget y.unc 0 c)) ++ le 4 (sat 32 (tget y.pois 0 c)))
/-- Tents whose channels the summary may name (R458). -/
def scrubTents (s : State) (o : Op) : Nat :=
  let t := (partTents s (opPart s o)).length
  if chainPhys o then
    Nat.max t ((List.range 8).filter (fun t => overlapping (o.f 16 8) (o.f 32 8) (tentBase t) 0x2400000000)).length
  else t
def scrubRun (op : Nat) (found : List (Nat × Sector)) (s : State) : State :=
  withOp s op 0x0C 0 (fun o =>
    let n := o.f 32 8
    let cap := 64 + 768 * scrubTents s o
    if !chainFields o false false true || o.f 16 8 % 128 != 0 || o.f 24 8 % 64 != 0 || !lengthOk n then refuse s op 3
    else match rangeBad s o (o.f 16 8) n, rangeBad s o (o.f 24 8) 64 with
      | some st, _ => refuse s op st
      | none, some st => refuse s op st
      | none, none =>
        if o.f 48 4 < cap then refuse s op 1
        else if engineFull s o then s
        else
          match scrubLines (n / 128) s o found 0 {} with
          | (s, 0, y) =>
            let s := updOp s op (fun o => { o with reads := remapped s y.chans })
            ready s op 0 (sat 32 (sumTab y.unc)) y.sectors (scrubSummary s y)
          | (s, st, _) => ready s op st 0 0)
/-- SCRUB also records repairs in the working Ledger. -/
def keepScrub (s t : State) : State :=
  { keepWork s t with boot := { s.boot with work := t.boot.work }, thm := { s.thm with above := t.thm.above } }
def execScrub (op : Nat) (found : List (Nat × Sector)) (s : State) : Host.Outcome State Fault Refusal :=
  .next (keepScrub s (scrubRun op found s))

/-! Completion (R460). -/
/-- The summary with REMAPPED: the rows remapped in its channels since the SCRUB began (R262). -/
def scrubData (s : State) (o : Op) : Bytes :=
  let chans := (List.range (fld o.data 22 2)).map (fun i => fld o.data (64 + 16 * i) 2)
  o.data.take 20 ++ le 2 (sat 16 (remapped s chans - o.reads)) ++ o.data.drop 22
/-- The output of DIGEST or SCRUB is written, DIGEST and a sealed load are measured, and the operation completes. -/
def chainDone (op : Nat) (s : State) : State :=
  match opOf s op with
  | none => s
  | some o =>
    if o.stage != 3 then s
    else if o.status != 0 then finish s op o.status
    else if o.code = 0x0B then
      match chainPuts s o (o.f 24 8) (plainBytes (pad o.data 64)) (o.f 24 8 + 64) with
      | (s, 0) =>
        if bit (o.f 40 4) 2 then finish s op 0 0 (2 ^ 64 - 1)
        else finish (logAppend s 5 (opPart s o) (le 8 (o.f 16 8) ++ le 8 (o.f 32 8)) o.data) op 0 0 s.trust.seq
      | (s, st) => finish s op st
    else if o.code = 0x0C then
      match chainPuts s o (o.f 24 8) (plainBytes (scrubData s o)) (o.f 24 8 + o.data.length) with
      | (s, 0) => finish s op 0 o.info o.result
      | (s, st) => finish s op st
    else if o.code = 0x08 && bit (o.f 40 4) 2 then
      finish (logAppend s 8 (opPart s o) (le 8 (o.f 16 8) ++ le 8 o.result) o.data) op 0 0 o.result
    else finish s op 0 o.info o.result
def execChainOperationDone (op : Nat) (s : State) : Host.Outcome State Fault Refusal := .next (keepLog s (chainDone op s))

end Sys2Proof.Machine
end

