-- ==== Sys2Proof/Machine/Debug.lean ====
section
/-! DEFINITION. The debugger (R91 to R93, R530) and the reset of a core on a hardware fault (R495). -/
namespace Sys2Proof.Machine

/-- What the debugger may change. -/
def keepDbg (s t : State) : State :=
  { s with dbg := t.dbg, krn := t.krn, evt := t.evt, fab := { s.fab with epoch := t.fab.epoch }
           regs := { s.regs with w := t.regs.w }, boot := { s.boot with work := t.boot.work }
           trust := { s.trust with everAttached := t.trust.everAttached } }
/-- The PF's DBG_ block answers (R517, R530). -/
def dbgUp (s : State) : Bool := fnLive s 0 && answers s 0 0x100000
/-- The selected core and group may be reached: the block answers and the partition is not confidential and LOCKED (R91). -/
def dbgReach (s : State) : Bool := dbgUp s && !sealed s (dbgPart s)
def parts8 (mask : Nat) : List Nat := (List.range 8).filter (bit mask)

/-! Attach and detach (R91, R93). -/
def attach1 (s : State) (p : Nat) : State :=
  if sealed s p then { s with dbg := { s.dbg with denied := true } }
  else { s with dbg := { s.dbg with attach := setBit s.dbg.attach p true }
                trust := { s.trust with everAttached := setBit s.trust.everAttached p true } }
def debugAttach (mask : Nat) (s : State) : State := if dbgUp s then (parts8 mask).foldl attach1 s else s
def execDebugAttach (mask : Nat) (s : State) : Host.Outcome State Fault Refusal := .next (keepDbg s (debugAttach mask s))
/-- A halted group on detachment: one halted by the debugger resumes; one halted by a trap ends its launch with that trap, as
of the time it was raised. -/
def letGo (s : State) (core slot : Nat) (g : Grp) : State :=
  match g.halt with
  | none => updGrp s core slot (fun g => { g with haltReq := false, stepping := false, stepBlocked := false })
  | some c =>
    if c ≥ 0x10 then
      settleOf (updGrp s core slot (fun g => { g with halt := none, haltReq := false, stepping := false, stepBlocked := false })) core slot
    else endLaunch (updGrp s core slot (fun g => { g with halt := none, haltReq := false })) g.trapAt core slot c g.trapImm g.trapFmt g
def detach1 (s : State) (p : Nat) : State :=
  if !attached s p then s
  else
    let s := { s with dbg := { s.dbg with attach := setBit s.dbg.attach p false } }
    (s.krn.cores.filter (fun c => partOfCore s c.1 == p)).foldl (fun s c =>
      c.2.grps.foldl (fun s g => letGo s c.1 g.1 g.2) s) s
def debugDetach (mask : Nat) (s : State) : State := if dbgUp s then (parts8 mask).foldl detach1 s else s
def execDebugDetach (mask : Nat) (s : State) : Host.Outcome State Fault Refusal := .next (keepDbg s (debugDetach mask s))

/-! Halt, step and resume (R92). -/
/-- DBG_CTL acts on an attached partition. -/
def dbgOn (s : State) : Bool := dbgReach s && attached s (dbgPart s)
/-- A halt request; one for a halted group has no effect (R93). -/
def askHalt (g : Grp) : Grp := if g.halt.isSome then g else { g with haltReq := true }
def dbgHalt (s : State) : State := if dbgOn s then updGrp s (dbgCore s) (dbgSlot s) askHalt else s
def execDbgHalt (s : State) : Host.Outcome State Fault Refusal := .next (keepDbg s (dbgHalt s))
def dbgHaltCore (s : State) : State :=
  if dbgOn s then
    let c := coreOf s (dbgCore s)
    setCore s (dbgCore s) { c with grps := c.grps.map (fun g => (g.1, askHalt g.2)) }
  else s
def execDbgHaltCore (s : State) : Host.Outcome State Fault Refusal := .next (keepDbg s (dbgHaltCore s))
/-- The halt takes effect when the group's outstanding memory requests have completed; during a step, when the step ends. -/
def haltNow (core slot : Nat) (s : State) : State :=
  match grpOf s core slot with
  | none => s
  | some g =>
    if !g.haltReq || g.stepping || (coreOf s core).outst.any (fun o => o.slot == slot) then s
    else setGrp s core slot { g with halt := some 0x12, haltReq := false }
def execHaltTakesEffect (core slot : Nat) (s : State) : Host.Outcome State Fault Refusal := .next (keepDbg s (haltNow core slot s))
/-- STEP with OTHERS_RUN: the halted group may issue one instruction. -/
def dbgStep (others : Bool) (s : State) : State :=
  if !dbgOn s then s
  else
    let s := putReg s 0x100008 0 0x100 0 (if others then 0x100 else 0)
    updGrp s (dbgCore s) (dbgSlot s) (fun g =>
      if g.halt.isSome then { g with halt := none, stepping := true, stepBlocked := false } else g)
def execDbgStep (othersRun : Bool) (s : State) : Host.Outcome State Fault Refusal := .next (keepDbg s (dbgStep othersRun s))
def dbgResume (s : State) : State :=
  if dbgOn s then settleOf (updGrp s (dbgCore s) (dbgSlot s) (fun g =>
    if g.halt.isSome then { g with halt := none, haltReq := false, stepBlocked := false } else g)) (dbgCore s) (dbgSlot s) else s
def execDbgResume (s : State) : Host.Outcome State Fault Refusal := .next (keepDbg s (dbgResume s))
/-- RESET_CORE: the per-core reset of R454. -/
def dbgResetCore (s : State) : State := if dbgOn s then coreReset s (dbgCore s) else s
def execDbgResetCore (s : State) : Host.Outcome State Fault Refusal := .next (keepDbg s (dbgResetCore s))

/-! Access to a halted group (R92, R93). -/
/-- The selected group if it is halted; an access otherwise is ignored and sets REJECT. -/
def withHalted (s : State) (f : Grp → State) : State :=
  if !dbgReach s then s
  else match dbgGrp s with
    | some g => if g.halt.isSome then f g else { s with dbg := { s.dbg with reject := true } }
    | none => { s with dbg := { s.dbg with reject := true } }
def dbgLane (s : State) : Nat := selVal s 0 0x100018 % 32
def dbgReg (s : State) : Nat := bits (selVal s 0 0x100018) 8 8
/-- DBG_REG_DATA: a write sets the register clean; a read changes nothing. -/
def dbgRegData (write : Option Word) (s : State) : State :=
  withHalted s (fun g => match write with
    | some w => setGrp s (dbgCore s) (dbgSlot s) (putLane g (dbgLane s) (dbgReg s) w false)
    | none => s)
def execDbgRegData (write : Option Word) (s : State) : Host.Outcome State Fault Refusal := .next (keepDbg s (dbgRegData write s))
def dbgLsAddr (s : State) : Nat := rawReg s 0x100020 0 0
/-- DBG_LS_DATA: a word of the core's local store; either access advances DBG_LS_ADDR by 4. -/
def dbgLsData (write : Option Word) (s : State) : State :=
  withHalted s (fun _ =>
    let k := dbgCore s
    let c := coreOf s k
    let a := dbgLsAddr s
    let s := match write with
      | some w => if a + 4 ≤ lsBytes c.split then setCore s k (lsWrite k c a (le 4 w.toNat) false) else s
      | none => s
    putReg s 0x100020 0 0x1FFFFC 0 (a + 4))
def execDbgLsData (write : Option Word) (s : State) : Host.Outcome State Fault Refusal := .next (keepDbg s (dbgLsData write s))
/-- DBG_PC and DBG_MASK of a halted group. -/
def dbgPut (off v : Nat) (s : State) : State :=
  withHalted s (fun g => setGrp s (dbgCore s) (dbgSlot s)
    (if off = 0x100010 then { g with pc := v } else { g with active := BitVec.ofNat 32 v &&& g.live }))

/-! Core hardware faults (R495). -/
/-- Firmware resets a core; a physical core reset so twice in a start joins Ledger section 7. -/
def coreFault (core : Nat) (s : State) : State :=
  if !isOpen s then s
  else
    let s := coreReset (detect s 0x202 2 (partOfCore s core) core 0 []) core
    let c := coreOf s core
    let s := setCore s core { c with faults := c.faults + 1 }
    if c.faults + 1 = 2 then
      recordDefect s (.core (core / 64) (core / 8 % 8) (tget s.dev.physOf 0 core)) else s
def execCoreFaultReset (core : Nat) (s : State) : Host.Outcome State Fault Refusal := .next (keepDbg s (coreFault core s))

end Sys2Proof.Machine
end

