-- ==== Sys2Proof/Machine/Functions.lean ====
section
/-! DEFINITION. The functions of the host link: BAR4, virtual functions, function resets, D3hot, MSI-X, answers to the
device's own reads, ATS and TDISP (R290 to R306). -/
namespace Sys2Proof.Machine

/-- What a host access to BAR4 and answers to host reads may change. -/
def keepHost (s t : State) : State := keepWork s t

/-! BAR4 (R292, R293, R306). -/
def bar4Size (s : State) (fn : Nat) : Nat := 2 ^ (tget s.link.bar4 0 (if fn = 0 then 0 else 1)) * 2 ^ 30
/-- Why an access is not served: 1 Unsupported Request, also after a FATAL event of the partition (R481), 2 Completer Abort; none
where it is. -/
def bar4Bad (s : State) (fn offset len : Nat) : Option Nat :=
  let p := partOfFn s fn
  let a := bar4Base s p + offset
  if !isOpen s || !barOk s fn || !partExists s p || partConf s p || s.evt.failed.contains p then some 1
  else if (linesIn a len).any (fun l => !ownHbm s p l || inReserve s p l 128 || outOfService s l) ||
      routeDown s 8 (tentAt a) || routeDown s (tentAt a) 8 then some 2
  else none
/-- The host's access waits at its bucket: an older one waits there, or the tokens do not reach (R278, R279). -/
def hostWaits (s : State) (p n : Nat) : Bool :=
  let key := portKey 3 p 2
  let b := bucketAt s key
  hasLimit s key && (b.held != [] || refill b (bktCfg s p 3 2) s.tick < 64 * up64 n)
def hostHold (s : State) (p : Nat) (c : Instr) : State :=
  let key := portKey 3 p 2
  let b := bucketAt s key
  { s with fab := { s.fab with bkt := tset s.fab.bkt key { b with held := b.held ++ [.host c] } } }
/-- A read is served by the lines' home slices; a marked half gives EP with zero bytes, in BUS_ERROR mode Completer Abort. -/
def bar4Read (fn offset len : Nat) (how : Arrival) (s : State) : State :=
  if !s.link.cfgReady || offset + len > bar4Size s fn || len = 0 then s
  else match bar4Bad s fn offset len with
    | some st => barRefuse s fn st true
    | none =>
      let p := partOfFn s fn
      let a := bar4Base s p + offset
      if hostWaits s p len then hostHold s p (.bar4Read fn offset len how)
      else
      let r := peek s a len
      let s := noteReads (latFree s 3 p 2 len) 3 0 a len
      match r with
      | none => barRefuse s fn 2 true
      | some b =>
        let s := if anyPois b then detect s 0x512 2 p fn 0 (tlpLog 2 fn offset len) else s
        hostReply s (.completion fn 0 (if anyPois b then zeros len else bytesOf b) (anyPois b))
def execBar4Read (fn offset len : Nat) (how : Arrival) (s : State) : Host.Outcome State Fault Refusal :=
  .next (barEntry keepHost fn true true how (bar4Read fn offset len how) s)
/-- A write; with EP it marks every half it touches, in BUS_ERROR mode it is discarded. -/
def bar4Write (fn offset : Nat) (data : Bytes) (ep : Bool) (how : Arrival) (s : State) : State :=
  if !s.link.cfgReady || offset + data.length > bar4Size s fn || data = [] then s
  else match bar4Bad s fn offset data.length with
    | some st => barRefuse s fn st false
    | none =>
      let p := partOfFn s fn
      let a := bar4Base s p + offset
      if hostWaits s p data.length then hostHold s p (.bar4Write fn offset data ep how)
      else
      let s := if ep then aer s fn 3 else s
      if ep && busMode s p then s
      else
        let s := if ep then detect s 0x511 1 p fn 0 (tlpLog 0 fn offset data.length) else s
        (writeMem (latFree s 3 p 2 data.length) 3 0 a (data.map (fun x => (x, ep)))).1
def execBar4Write (fn offset : Nat) (data : Bytes) (ep : Bool) (how : Arrival) (s : State) : Host.Outcome State Fault Refusal :=
  .next (barEntry keepHost fn false true how (bar4Write fn offset data ep how) s)

/-! Virtual functions (R295 to R297, R455). -/
/-- A per-partition reset; one that a teardown has under way absorbs it, and a LOCKED TDI enters ERROR (R305, R455). -/
def resetPart (s : State) (p : Nat) : State :=
  if lockedTdi s p then tdiError s p else if (downOf s p).isSome || !partExists s p then s else partitionReset s p
/-- VF Enable set: at once, or latched while the VFs are being shut down. -/
def vfEnable (num : Nat) (s : State) : State :=
  if !s.link.cfgReady || num = 0 || num > 8 then s
  else if s.link.vfShut then { s with link := { s.link with vfPend := some num } }
  else if s.link.numVfs = 0 then { s with link := { s.link with numVfs := num } } else s
def execVfEnable (num : Nat) (s : State) : Host.Outcome State Fault Refusal := .next { s with link := (vfEnable num s).link }
def msgFn : HostMsg → Nat
  | .write f _ _ _ _ | .interrupt f _ | .completion f _ _ _ | .retry f | .read _ f _ _ | .invalidated f _ _ | .doe f _ => f
/-- What a virtual function held leaves with it. -/
def dropVfs (l : Link) : Link :=
  { l with numVfs := 0, vfShut := true, d3 := l.d3.filter (· = 0), memSpace := l.memSpace.filter (· = 0), ats := l.ats.filter (· = 0)
           unmasked := l.unmasked.filter (· < 64), pba := l.pba.filter (· < 64), atc := l.atc.filter (fun e => e.1 = 0), inval := l.inval.filter (fun e => e.1 = 0)
           msix := l.msix.filter (fun e => e.1 < 64), held := l.held.filter (fun m => msgFn m = 0) }
/-- VF Enable cleared: a pending enable is cancelled; else every VF's partition is reset. -/
def vfDisable (s : State) : State :=
  if s.link.vfPend.isSome then { s with link := { s.link with vfPend := none } }
  else if s.link.numVfs = 0 then s
  else
    let t := if single s then s else (List.range s.link.numVfs).foldl resetPart s
    { t with link := dropVfs t.link }
def execVfDisable (s : State) : Host.Outcome State Fault Refusal := .next (vfDisable s)
/-- The shutdown has finished; the pending enable is carried out. -/
def vfShutDone (s : State) : State :=
  if !s.link.vfShut then s
  else { s with link := { s.link with vfShut := false, numVfs := s.link.vfPend.getD 0, vfPend := none } }
def execVfShutdownDone (s : State) : Host.Outcome State Fault Refusal := .next { s with link := (vfShutDone s).link }
/-- A Function Level Reset of a VF. -/
def vfFlr (vf : Nat) (s : State) : State :=
  if vf = 0 || vf > s.link.numVfs || single s then s else resetPart s (vf - 1)
def execVfFlr (vf : Nat) (s : State) : Host.Outcome State Fault Refusal := .next (vfFlr vf s)
/-- A Function Level Reset of the PF: its rings, event ring, MSI-X state and ATS cache; in single-partition mode also its
partition. -/
def pfFlr (s : State) : State :=
  if !s.link.cfgReady then s
  else
    let s := if single s then resetPart s ((parts s).headD 0) else s
    let own := (List.range 256).filter (fun r => !vfOwned s r)
    let s := (own.filter (fun r => (ringOf s r).st != 0)).foldl (fun s r => abortOps (disableRing s r) r) s
    let s := own.foldl (fun s r => resetRingRegs (setRing s r {}) r) s
    let s := resetEvt s 0
    { s with
      dev := { s.dev with commitOp := s.dev.commitOp.filter (fun id => (opOf s id).isSome) }
      link := { s.link with unmasked := s.link.unmasked.filter (64 ≤ ·), pba := s.link.pba.filter (64 ≤ ·)
                            msix := s.link.msix.filter (fun e => 64 ≤ e.1), atc := s.link.atc.filter (fun e => e.1 != 0)
                            inval := s.link.inval.filter (fun e => e.1 != 0) } }
def execPfFlr (s : State) : Host.Outcome State Fault Refusal := .next (pfFlr s)

/-! Power states and interrupts (R298, R299). -/
def d3Entry (fn : Nat) (s : State) : State :=
  if fnThere s fn then { s with link := { s.link with d3 := sadd s.link.d3 fn } } else s
def execD3hotEntry (fn : Nat) (s : State) : Host.Outcome State Fault Refusal := .next { s with link := (d3Entry fn s).link }
/-- D0: what was held leaves in order, and copies go on. -/
def d0Return (fn : Nat) (s : State) : State :=
  if !d3 s fn then s
  else
    let mine := s.link.held.filter (fun m => msgFn m == fn)
    let s := { s with link := { s.link with d3 := sdel s.link.d3 fn, out := s.link.out ++ mine
                                            held := s.link.held.filter (fun m => msgFn m != fn) } }
    (s.rng.ops.filter (fun o => o.code == 8 && o.stage == 1 && opFn s o == fn)).foldl (fun s o => copyOn s o.id) s
def execD0Return (fn : Nat) (s : State) : Host.Outcome State Fault Refusal := .next (keepHost s (d0Return fn s))
/-- A vector is unmasked; its pending message is sent. -/
def msixUnmask (fn v : Nat) (s : State) : State :=
  let k := 64 * fn + v
  if !fnThere s fn || v ≥ 64 then s
  else
    let s := { s with link := { s.link with unmasked := sadd s.link.unmasked k } }
    if s.link.pba.contains k then
      hostOut { s with link := { s.link with pba := sdel s.link.pba k } } fn (.interrupt fn v) else s
def execMsixUnmask (fn vector : Nat) (s : State) : Host.Outcome State Fault Refusal := .next { s with link := (msixUnmask fn vector s).link }

/-! Answers to the device's reads (R300, R306). -/
/-- A core's load of host memory is answered. -/
def coreArrive (s : State) (core id base : Nat) (d : Nat ⊕ (Bytes × Bool)) : State :=
  let c := coreOf s core
  match outstOf c id with
  | none => s
  | some o =>
    let s := arriveHost (setCore s core { c with outst := c.outst.filter (fun x => x.id != id) }) id
    match d with
    | .inr (b, ep) => updGrp s core o.slot (fun g => o.lanes.foldl (fun g x =>
        deliver g x.1 o.dst o.width (slice b (x.2 - base) o.width) ep) g)
    | .inl st =>
      let s := updGrp s core o.slot (fun g => { g with busy := o.lanes.foldl (fun b x =>
        (List.range (cdiv o.width 4)).foldl (fun b i => sdel b (256 * x.1 + o.dst + i)) b) g.busy })
      raise s core o.slot st
/-- Pages of an Invalidate Request. -/
def invalHits (x : Nat × Nat × Nat) (fn a : Nat) : Bool :=
  x.1 == fn && x.2.1 / 4096 ≤ a / 4096 && a / 4096 ≤ (x.2.1 + x.2.2 - 1) / 4096
/-- An Invalidate Request completes once every read that uses its pages has been performed; until then it waits (R301). -/
def invalOne (s : State) (x : Nat × Nat × Nat) : State :=
  if s.link.reads.any (fun r => invalHits x r.fn r.addr) then { s with link := { s.link with inval := s.link.inval ++ [x] } }
  else hostReply { s with link := { s.link with atc := s.link.atc.filter (fun e => !invalHits x e.1 (4096 * e.2)) } } (.invalidated x.1 x.2.1 x.2.2)
/-- The waiting Invalidate Requests are looked at again, oldest first. -/
def invalGo (s : State) : State := s.link.inval.foldl invalOne { s with link := { s.link with inval := [] } }
/-- A read of the device is answered, or times out (`.timeout`): what it brings goes to its requester. -/
def hostAnswer (r : HostOut) (res : HostRead) (s : State) : State :=
  match r.why with
  | .core core id =>
    let d := takeRead s (partOfCore s core) res r.addr r.len
    coreArrive d.1 core id r.addr d.2
  | .copy op dst _ =>
    let p := ((opOf s op).map (opPart s)).getD (partOfFn s r.fn)
    let d := takeRead s p res r.addr r.len
    copyArrive d.1 op dst d.2
/-- The read is over, and an Invalidate Request that waited for it completes. -/
def hostArrive (tag : Nat) (res : HostRead) (s : State) : State :=
  match s.link.reads.find? (fun r => r.tag == tag) with
  | none => s
  | some r => invalGo (hostAnswer r res { s with link := { s.link with reads := s.link.reads.filter (fun x => x.tag != tag) } })
def execHostReadCompletion (tag : Nat) (res : HostRead) (s : State) : Host.Outcome State Fault Refusal :=
  .next (keepHost s (hostArrive tag res s))
/-- A read unanswered for the Completion Timeout Value (R300). -/
def hostLate (tag : Nat) (s : State) : State :=
  if s.link.reads.any (fun r => r.tag == tag && r.at_ + s.link.cplTimeout ≤ s.tick) then hostArrive tag .timeout s else s
def execHostCompletionTimeout (tag : Nat) (s : State) : Host.Outcome State Fault Refusal := .next (keepHost s (hostLate tag s))
def atsInvalidate (fn addr len : Nat) (s : State) : State :=
  if !fnThere s fn || len = 0 then s else invalOne s (fn, addr, len)
def execAtsInvalidateRequest (fn addr len : Nat) (s : State) : Host.Outcome State Fault Refusal :=
  .next { s with link := (atsInvalidate fn addr len s).link }

/-! TDISP (R303 to R305, R389, R391). -/
def setTdi (s : State) (p v : Nat) : State := { s with trust := { s.trust with tdi := tset s.trust.tdi p v } }
/-- LOCK_INTERFACE_REQUEST: for a confidential partition in CONFIG_UNLOCKED; refused while a test access port is open or
the partition is being torn down. A debugger is detached at once (R91). -/
def tdiLock (vf : Nat) (s : State) : State :=
  let p := vf - 1
  if vf = 0 || vf > s.link.numVfs || single s || !partExists s p || !partConf s p || tget s.trust.tdi 0 p != 0 ||
      s.trust.tapOpen || (downOf s p).isSome then s
  else setTdi (detach1 s p) p 1
def execLockInterfaceRequest (vf : Nat) (s : State) : Host.Outcome State Fault Refusal := .next (tdiLock vf s)
def tdiStart (vf : Nat) (s : State) : State :=
  if vf = 0 || tget s.trust.tdi 0 (vf - 1) != 1 || (downOf s (vf - 1)).isSome then s else setTdi s (vf - 1) 2
def execStartInterfaceRequest (vf : Nat) (s : State) : Host.Outcome State Fault Refusal := .next { s with trust := (tdiStart vf s).trust }
/-- STOP_INTERFACE_REQUEST: the teardown, at whose end the TDI is CONFIG_UNLOCKED. -/
def tdiStop (vf : Nat) (s : State) : State :=
  if vf = 0 || tget s.trust.tdi 0 (vf - 1) = 0 then s else teardownStart s (vf - 1) true true
def execStopInterfaceRequest (vf : Nat) (s : State) : Host.Outcome State Fault Refusal := .next (tdiStop vf s)

end Sys2Proof.Machine
end

