-- ==== Sys2Proof/Machine/HostLink.lean ====
section
/-! DEFINITION. The host link comes up and goes down: release of PERST_N, configuration space, training and the
conventional resets (R285 to R287, R454). -/
namespace Sys2Proof.Machine

/-- What bringing the link up may change. -/
def keepLink (s t : State) : State := { s with dev := t.dev, boot := t.boot, link := t.link, pwr := t.pwr, evt := t.evt, tick := t.tick }
/-- PERST_N released with power good: STOWED to PITCHING; TSCLK starts, PCIE_SRIS is read, the boot ROM reconstructs the
UDS (R287, R373, R497), and the trip cause is latched from auxiliary storage (R524). -/
def perstRelease (sris pufOk : Bool) (s : State) : State :=
  if s.dev.st == .stowed && s.pwr.running then
    { s with tick := 0, dev := { s.dev with st := .pitching }, boot := { s.boot with pufOk := pufOk }
             link := { s.link with sris := sris }, pwr := { s.pwr with latched := s.pwr.trip, thermtrip := false } }
  else s
def execPerstNRelease (sris pufOk : Bool) (s : State) : Host.Outcome State Fault Refusal :=
  .next (keepLink s (perstRelease sris pufOk s))

/-- Configuration space ready: phase WAIT_PACKAGE, or FAILED with IDENTITY_FAIL when the UDS was not reconstructed (R287,
R373, R433, R444). -/
def configReady (s : State) : State :=
  if s.dev.st == .pitching && !s.link.cfgReady then
    { s with link := { s.link with cfgReady := true }
             boot := if s.boot.pufOk then { s.boot with phase := 0 } else { s.boot with phase := 5, result := 8 } }
  else s
def execConfigSpaceReady (s : State) : Host.Outcome State Fault Refusal := .next (keepLink s (configReady s))

/-- A configuration request before that point is answered with Configuration Request Retry Status (R287). -/
def cfgRetry (fn : Nat) (s : State) : State :=
  if s.dev.st == .pitching && !s.link.cfgReady then hostReply s (.retry fn) else s
def execConfigurationRequestRetry (fn : Nat) (s : State) : Host.Outcome State Fault Refusal := .next (keepLink s (cfgRetry fn s))

/-- PERST_N, a hot reset or a link-down reset takes any state to STOWED at once (R454). The latter two need a link. -/
def convReset (k : ConvReset) (s : State) : State :=
  match k with
  | .perst => stow s
  | .hot | .linkDown => if s.link.up then stow s else s
def execConventionalReset (kind : ConvReset) (s : State) : Host.Outcome State Fault Refusal := .next (convReset kind s)

def linkRates : List Nat := [25, 50, 80, 160, 320, 640, 1280]
def linkWidths : List Nat := [1, 2, 4, 8, 16]
/-- The port trains to a rate and a width of R285, in flit mode where that is required or the partner supports it; below
128 GT/s x16 it posts EV_PCIE_LINK_DEGRADED (R286). -/
def linkTrained (rate10 width : Nat) (flit : Bool) (s : State) : State :=
  if (s.dev.st == .stowed || s.dev.st == .tripped) || !linkRates.contains rate10 || !linkWidths.contains width then s
  else
    let s := { s with link := { s.link with up := true, rate10 := rate10, width := width, flit := flit || rate10 ≥ 640, active := width } }
    if rate10 < 1280 || width < 16 then detect s 0x510 0 8 0 0 [] else s
/-- The link partner's L0p request is honoured in flit mode, at a width up to the trained one (R285). -/
def linkL0p (width : Nat) (s : State) : State :=
  if s.link.up && s.link.flit && linkWidths.contains width && width ≤ s.link.width then
    { s with link := { s.link with active := width } } else s
def linkChange (rate10 width : Nat) (how : LinkEvent) (s : State) : State :=
  match how with
  | .trained flit => linkTrained rate10 width flit s
  | .l0p => linkL0p width s
def execLinkTraining (rate10 width : Nat) (s : State) (how : LinkEvent := .trained false) : Host.Outcome State Fault Refusal :=
  .next (keepLink s (linkChange rate10 width how s))

end Sys2Proof.Machine
end

