-- ==== Sys2Proof/Machine/ConfigSpace.lean ====
section
/-! DEFINITION. What the host sees of the functions: identity, BARs, capabilities and MSI-X (R285, R288 to R291, R299), and the
configuration writes that change it. Where a field stands within its capability is PRESUMED from the PCI Express Base
Specification (log entry 80). -/
namespace Sys2Proof.Machine

/-! Capabilities (R289): offset and identifier, in the order of their list. -/
def stdCaps (fn : Nat) : List (Nat × Nat) := (if fn = 0 then [(0x40, 0x01)] else []) ++ [(0x50, 0x10), (0x90, 0x11)]
def extCaps (fn : Nat) : List (Nat × Nat) :=
  if fn = 0 then
    [(0x100, 0x01), (0x140, 0x0E), (0x150, 0x10), (0x190, 0x0F), (0x1A0, 0x15), (0x1B0, 0x24), (0x1C0, 0x19), (0x200, 0x25),
     (0x210, 0x26), (0x240, 0x2A), (0x270, 0x31), (0x2A0, Config.capPhy128), (0x2E0, 0x27), (0x320, 0x32), (0x360, 0x2E), (0x3A0, 0x30)]
  else [(0x100, 0x01), (0x140, 0x0E), (0x190, 0x0F)]
/-- The header of a capability with the offset of the next one, 0 for the last. -/
def capHead (l : List (Nat × Nat)) (off shift : Nat) : Option Nat :=
  match l with
  | [] => none
  | (a, c) :: r => if a = off then some (c + (if shift = 20 then 0x10000 else 0) + 2 ^ shift * (r.map (·.1)).headD 0) else capHead r off shift

/-! BARs (R290). -/
/-- Bytes of a function's BAR. -/
def barSize (s : State) (fn n : Nat) : Nat :=
  if n = 0 then (if fn = 0 then 0x2000000 else 0x100000)
  else if n = 2 then (if fn = 0 then 0x200000 else 0x40000) else if n = 4 then bar4Size s fn else 0
/-- Key of a BAR's base: the PF's own, or the VFs' in the SR-IOV capability. -/
def barKey (vf : Bool) (n : Nat) : Nat := if vf then 8 + n else n
/-- A base address takes the bits that the BAR's size leaves. -/
def putBar (s : State) (vf : Bool) (n addr : Nat) : State :=
  let size := barSize s (b2n vf) n
  if size = 0 then s
  else { s with link := { s.link with bars := tset s.link.bars (barKey vf n) (addr % 2 ^ 64 - addr % size) } }
/-- Low and high word of a 64-bit memory BAR; BAR4 alone is prefetchable. -/
def barWord (s : State) (vf : Bool) (i : Nat) : Nat :=
  let n := i / 2 * 2
  let base := tget s.link.bars 0 (barKey vf n)
  if n > 4 then 0 else if i % 2 = 1 then base / 2 ^ 32 else base % 2 ^ 32 + 4 + if n = 4 then 8 else 0

/-! Reading configuration space (R285, R288, R289). -/
/-- Code of a link rate in 0.1 GT/s. -/
def rateCode (r : Nat) : Nat := (linkRates.findIdx (· == r)) % 7 + 1
def memOn (s : State) (fn : Nat) : Nat := 2 * b2n (s.link.memSpace.contains fn)
def sizeCode (s : State) (fn : Nat) : Nat := tget s.link.bar4 0 (if fn = 0 then 0 else 1)
/-- A word inside a capability. -/
def capWord (s : State) (fn off : Nat) : Nat :=
  if off = 0x44 && fn = 0 then 8 + (if d3 s 0 then 3 else 0)
  else if off = 0x54 then 0x10000022
  else if off = 0x58 then
    if fn = 0 then 0x100 + 16 * b2n s.link.relaxed + 0x20 * s.link.mps + 0x1000 * s.link.mrrs else 0
  else if off = 0x60 then 0x10000 * (if s.link.up then rateCode s.link.rate10 + 16 * s.link.active else 0)
  else if off = 0x74 then 0x30000
  else if off = 0x78 then if fn = 0 then 0x1000 * b2n s.link.tag10 else 0
  else if off = 0x94 then (if fn = 0 then 0x100000 else 0x20000) + 2
  else if off = 0x98 then (if fn = 0 then 0x101000 else 0x21000) + 2
  else if off = 0x118 then 0xA0 + 0x40 * b2n s.link.ecrcGen + 0x100 * b2n s.link.ecrcChk
  else if off = 0x144 then 0
  else if off = 0x158 && fn = 0 then b2n (s.link.numVfs != 0 || s.link.vfPend.isSome)
  else if off = 0x15C && fn = 0 then 0x80008
  else if off = 0x160 && fn = 0 then s.link.vfPend.getD s.link.numVfs
  else if off = 0x164 && fn = 0 then 0x10001
  else if off = 0x168 && fn = 0 then 0x030A0000
  else if 0x174 ≤ off && off < 0x18C && fn = 0 then barWord s true ((off - 0x174) / 4)
  else if off = 0x194 then 0x20 + 0x80000000 * b2n (s.link.ats.contains fn)
  else if (off = 0x1A4 || off = 0x1B4) && fn = 0 then 0x7F0 * 2 ^ 10
  else if off = 0x1A8 && fn = 0 then 4 + 0x20 + 0x100 * (sizeCode s 0 + 10)
  else if off = 0x1B8 && fn = 0 then 4 + 0x20 + 0x100 * (sizeCode s 1 + 10)
  else 0
/-- One aligned word of a function's configuration space. -/
def cfgRead (s : State) (fn off : Nat) : Nat :=
  if off = 0 then (if fn = 0 then Config.vendorId.toNat + 0x10000 * 0x0309 else 0xFFFFFFFF)
  else if off = 4 then memOn s fn + 0x100000
  else if off = 8 then 0x12000001
  else if 0x10 ≤ off && off < 0x28 then (if fn = 0 then barWord s false ((off - 0x10) / 4) else 0)
  else if off = 0x34 then ((stdCaps fn).headD (0, 0)).1
  else if off < 0x100 then
    match capHead (stdCaps fn) off 8 with
    | some h => if off = 0x90 then h + 0x3F0000 else h
    | none => capWord s fn off
  else (capHead (extCaps fn) off 20).getD (capWord s fn off)

/-! MSI-X (R291, R299). BAR2 offsets. -/
def msixAt (fn : Nat) : Nat := if fn = 0 then 0x100000 else 0x20000
def msixWord (s : State) (fn i : Nat) : Nat :=
  let k := 64 * fn + i / 4
  let e := tget s.link.msix (0, 0) k
  if i % 4 = 0 then e.1 % 2 ^ 32 else if i % 4 = 1 then e.1 / 2 ^ 32 else if i % 4 = 2 then e.2 else b2n (!s.link.unmasked.contains k)
/-- Bits of the pending-bit array from vector `v` on. -/
def pbaWord (s : State) (fn v : Nat) : Nat := suml ((List.range 32).map (fun i => b2n (s.link.pba.contains (64 * fn + v + i)) * 2 ^ i))
/-- A read of BAR2: the doorbells' last accepted values, the MSI-X table and the pending-bit array; 0 elsewhere. -/
def bar2Read (s : State) (fn off : Nat) : Nat :=
  let m := msixAt fn
  if off % 4 != 0 then 0
  else if m ≤ off && off < m + 1024 then msixWord s fn ((off - m) / 4)
  else if m + 4096 ≤ off && off < m + 4104 then pbaWord s fn (8 * (off - m - 4096))
  else match (pageRing fn (off / 4096)).filter (pageOwned s fn) with
    | some r => if off % 4096 = 0 then (ringOf s r).sqTail else if off % 4096 = 4 then (ringOf s r).cqHead else 0
    | none => 0
/-- A vector masked; unmasked, its pending message leaves. -/
def setMask (fn v : Nat) (on : Bool) (s : State) : State :=
  if on then { s with link := { s.link with unmasked := sdel s.link.unmasked (64 * fn + v) } } else msixUnmask fn v s
/-- A word of the MSI-X table written. The address and the data of a LOCKED function's entry are locked by its report (log entry
80): their change takes its TDI to ERROR (R305). -/
def msixWrite (fn i v : Nat) (s : State) : State :=
  let k := 64 * fn + i / 4
  let e := tget s.link.msix (0, 0) k
  let put (e : Nat × Nat) : State :=
    let t := { s with link := { s.link with msix := tset s.link.msix k e } }
    if fn = 0 then t else tdiError t (fn - 1)
  if i % 4 = 0 then put (e.1 / 2 ^ 32 * 2 ^ 32 + v, e.2)
  else if i % 4 = 1 then put (e.1 % 2 ^ 32 + 2 ^ 32 * v, e.2)
  else if i % 4 = 2 then put (e.1, v) else setMask fn (i / 4) (bit v 0) s
/-- A 4-byte write of BAR2 outside the doorbells. -/
def bar2Write (fn off v n : Nat) (s : State) : State :=
  let m := msixAt fn
  if n = 4 && off % 4 = 0 && m ≤ off && off < m + 1024 then msixWrite fn ((off - m) / 4) v s else s

/-! Configuration writes (R285, R290, R293, R296, R300, R301, R305). -/
/-- A write of a function that is there. The VFs' fields of R285 and their BARs are the PF's. -/
def cfgPut (fn : Nat) (w : CfgWrite) (s : State) : State :=
  let pf (l : Link) : State := if fn = 0 then { s with link := l } else s
  match w with
  | .memSpace on => { s with link := { s.link with memSpace := sput s.link.memSpace fn on } }
  | .ats on => { s with link := { s.link with ats := sput s.link.ats fn on, atc := if on then s.link.atc else s.link.atc.filter (fun e => e.1 != fn) } }
  | .resizeBar4 k => if k ≤ 6 then pf { s.link with bar4 := tset s.link.bar4 0 k } else s
  | .resizeVfBar4 k => if k ≤ 6 then pf { s.link with bar4 := tset s.link.bar4 1 k } else s
  | .bar n a => pf (putBar s false n a).link
  | .vfBar n a => pf (putBar s true n a).link
  | .maxPayload k => pf { s.link with mps := Nat.min k 2 }
  | .maxRead k => pf { s.link with mrrs := Nat.min k 5 }
  | .tag10 on => pf { s.link with tag10 := on }
  | .relaxed on => pf { s.link with relaxed := on }
  | .ecrc g c => pf { s.link with ecrcGen := g, ecrcChk := c }
  | .completionTimeout t => pf { s.link with cplTimeout := t }
  | .lockedField => if fn = 0 then s else tdiError s (fn - 1)
/-- A configuration write is answered: Retry Status before the configuration space is ready (R287), Unsupported Request of a
virtual function that is shut down or pending (R296). -/
def cfgWrite (fn : Nat) (w : CfgWrite) (s : State) : State :=
  if s.dev.st == .stowed || s.dev.st == .tripped then s
  else if !s.link.cfgReady then hostReply s (.retry fn)
  else if !fnThere s fn then hostReply (aer s fn 1) (.completion fn 1 [] false)
  else hostReply (cfgPut fn w s) (.completion fn 0 [] false)
def execConfigurationWrite (fn : Nat) (w : CfgWrite) (s : State) : Host.Outcome State Fault Refusal := .next (cfgWrite fn w s)

end Sys2Proof.Machine
end

