-- ==== Sys2Proof/Machine/Registers.lean ====
section
/-! DEFINITION. Writes and reads of set-up registers that have no command of their own (R513 to R518, R524, R529). Accessors:
0 the PF, 1 to 8 the VFs, 16 + core, 1,024 + control core. Offsets from 2^25 on are those of BAR2 (log entry 80). -/
namespace Sys2Proof.Machine

def keepRegs (s t : State) : State :=
  { s with regs := t.regs, dbg := t.dbg, krn := t.krn, dev := { s.dev with cfgWriteLost := t.dev.cfgWriteLost, strikeRefused := t.dev.strikeRefused }
           boot := { s.boot with busy := t.boot.busy }, rng := t.rng, evt := { s.evt with ring := t.evt.ring }
           pwr := { s.pwr with vmin := t.pwr.vmin }, link := t.link }
/-- An accessor reaches BAR0 or, as a core or control core, device register space. -/
def accOk (s : State) (acc : Nat) : Bool := if acc ≤ 8 then barOk s acc else isOpen s
/-- The PF offset of an access that some block answers. -/
def regAt (s : State) (acc off : Nat) : Option Nat :=
  if !accOk s acc || off % 4 != 0 then none
  else (mapOff s acc off).filter (fun o => answers s acc o && !(0x100000 ≤ o && acc != 0))

/-- PWR_VMIN_CTL.CLEAR: the record of the rail that the accessor selects restarts from the next sample (R403, R524). -/
def vminClear (acc : Nat) (s : State) : State :=
  { s with pwr := { s.pwr with vmin := tdel s.pwr.vmin (selVal s acc 0x80020) } }
def execPwrVminCtlClear (s : State) : Host.Outcome State Fault Refusal :=
  .next (keepRegs s (if regOk s 0 0x80000 then vminClear 0 s else s))

/-- Writing 1 to W1C bits; a bit that hardware sets in the same cycle stays (R516). -/
def w1c (fn off set now : Nat) (s : State) : State :=
  match regAt s fn off with
  | none => s
  | some o =>
    let c (i : Nat) : Bool := bit set i && !bit now i
    if o = 0x108 then
      { s with dev := { s.dev with cfgWriteLost := s.dev.cfgWriteLost && !c 0, strikeRefused := s.dev.strikeRefused && !c 2 } }
    else if o = 0x10010 then { s with boot := { s.boot with busy := s.boot.busy && !c 8 } }
    else if 0x20000 ≤ o && o < 0x24000 && o % 0x40 = 0x18 then
      let r := (o - 0x20000) / 0x40
      let g := ringOf s r
      setRing s r { g with dbErr := g.dbErr && !c 4 }
    else if o = 0xE0010 then
      let r := evRing s fn
      setEvRing s fn { r with overflow := r.overflow && !c 0, writeFail := r.writeFail && !c 2, lost := if c 0 || c 2 then 0 else r.lost }
    else if o = 0x10000C && !sealed s (dbgPart s) then
      { s with dbg := { s.dbg with reject := s.dbg.reject && !c 2, denied := s.dbg.denied && !c 3 } }
    else s
def execW1cClear (fn offset bits setNow : Nat) (s : State) (how : Arrival := {}) : Host.Outcome State Fault Refusal :=
  .next (barEntry keepRegs fn false false how (w1c fn offset bits setNow) s)

/-- What a read changes: the low word of a 64-bit value latches its high word for the same accessor's next read of it (R514); DBG_LS_DATA advances
DBG_LS_ADDR, and a debugger's access to a group that is not halted sets REJECT (R92, R93). -/
def lowRead (acc off : Nat) (s : State) : State :=
  match regAt s acc off with
  | none => s
  | some o =>
    if o = 0x100024 then dbgLsData none s
    else if isDbgData o then dbgRegData none s
    else
    let high : Option Nat :=
      if roLowWord o then some (wide s acc o / 2 ^ 32 % 2 ^ 32)
      else if lowWord o then some (rawReg s (o + 4) (instOf s acc o) 0) else none
    match high with
    | some h => { s with regs := { s.regs with latch := tset s.regs.latch (rkey (o + 4) acc) (BitVec.ofNat 32 h) } }
    | none => { s with regs := { s.regs with latch := tdel s.regs.latch (rkey o acc) } }
/-- What the host reads at an offset of BAR0, or from 2^25 on of BAR2. -/
def barRead (s : State) (fn off : Nat) : Nat := if off < 2 ^ 25 then (readReg s fn off).toNat else bar2Read s fn (off - 2 ^ 25)
/-- The host's naturally aligned read of 4 or 8 bytes is answered with the value, of 8 bytes with the register at the lower
offset first (R513). -/
def hostRegRead (fn off n : Nat) (s : State) : State :=
  let t := lowRead fn off s
  if n = 8 then
    hostReply (lowRead fn (off + 4) t) (.completion fn 0 (le 4 (barRead s fn off) ++ le 4 (barRead t fn (off + 4))) false)
  else hostReply t (.completion fn 0 (le 4 (barRead s fn off)) false)
def coreRegRead (acc off n : Nat) (s : State) : State :=
  if n = 8 then lowRead acc (off + 4) (lowRead acc off s) else lowRead acc off s
def execLowWordRead (accessor offset : Nat) (s : State) (bytes : Nat := 4) (how : Arrival := {}) : Host.Outcome State Fault Refusal :=
  .next (if accessor ≤ 8 then barEntry keepRegs accessor true false how (hostRegRead accessor offset bytes) s
         else keepRegs s (coreRegRead accessor offset bytes s))

/-- More than one of bits [4:0]. -/
def manyCtl (v : Nat) : Bool := ((List.range 5).filter (bit v)).length > 1
/-- A naturally aligned 4-byte write (R513). Control bits with a command of their own act through it. -/
def regWrite (acc off v n : Nat) (s : State) : State :=
  if n != 4 then s
  else match regAt s acc off with
  | none => s
  | some o =>
    if o = 0x1000C && v % 4 = 3 then { s with boot := { s.boot with busy := true } }
    else if o = 0x80030 && bit v 0 then vminClear acc s
    else if 0x100008 ≤ o && sealed s (dbgPart s) then s
    else if o = 0x100008 && manyCtl v then { s with dbg := { s.dbg with reject := true } }
    else if o = 0x100010 || o = 0x100014 then dbgPut o v s
    else plainWrite s acc o v
def keepAll (_ t : State) : State := t
def execRegisterWrite (accessor offset : Nat) (value : Word) (bytes : Nat) (s : State) (how : Arrival := {}) :
    Host.Outcome State Fault Refusal :=
  .next (if accessor > 8 then keepRegs s (regWrite accessor offset value.toNat bytes s)
         else if offset < 2 ^ 25 then barEntry keepRegs accessor false false how (regWrite accessor offset value.toNat bytes) s
         else barEntry keepAll accessor false false how (bar2Write accessor (offset - 2 ^ 25) value.toNat bytes) s)

end Sys2Proof.Machine
end

