-- ==== Sys2Proof/Machine/Kernel.lean ====
section
/-! DEFINITION. The instructions of a thread group (R57 to R74): one command issues the next instruction of one group for
its active threads. A command that the issue stage would not choose (the group is not ready) changes nothing. -/
namespace Sys2Proof.Machine

/-- What an instruction may change. -/
def keepKrn (s t : State) : State :=
  { s with krn := t.krn, mem := t.mem, hbm := t.hbm, fab := t.fab, evt := t.evt, free := t.free, regs := t.regs, link := t.link
           dbg := t.dbg, dev := { s.dev with cfgWriteLost := t.dev.cfgWriteLost }, boot := { s.boot with busy := t.boot.busy } }

/-! Issue (R57, R92). -/
/-- What an instruction comes to: it stays waiting, it raises a trap, the group goes on behind it, or it has set the pc. -/
inductive Eff where
  | wait
  | trap (s : State) (code : Nat) (imm : Nat := 0) (fmt : Bool := false)
  | next (s : State)
  | jump (s : State)
  deriving DecidableEq, Repr
/-- A debugger's step ends: the group halts with SINGLE_STEP, or stays parked with STEP_BLOCKED (R92). -/
def stepOver (g : Grp) : Grp :=
  if !g.stepping then g
  else if g.active = 0 && g.live != 0 then { g with stepBlocked := true }
  else { g with halt := some 0x11, stepping := false, stepBlocked := false, haltReq := false }
/-- The group behind an instruction of `len` bytes. -/
def advance (len : Nat) (g : Grp) : Grp := stepOver (settlePaths { g with pc := g.pc + len })
/-- The group has threads to run and is not halted; while another group of its core steps, OTHERS_RUN decides (R92). -/
def grpRuns (s : State) (core slot : Nat) (g : Grp) : Bool :=
  let step := (coreOf s core).grps.any (fun x => x.1 != slot && x.2.stepping)
  g.active != 0 &&
  (g.stepping || (if step then bit (rawReg s 0x100008 0 0) 8 && (g.halt.elim (!g.haltReq) (fun c => decide (c ≥ 0x10)))
                  else g.halt.isNone && !g.haltReq))
/-- The bytes of the instruction are read from the code reserve: the trap that reading them raises (R82, R88, R487). -/
def fetchTrap (s : State) (l : Launch) (core pc len : Nat) : Option Nat :=
  match s.krn.bundles.find? (fun b => b.handle == l.bundle) with
  | none => some 1
  | some b =>
    if pc + len > b.codeLen then some 1
    else match peekFrom s (core / 64) (b.base + b.codeOff + pc) len with
      | none => some 6
      | some m => if anyPois m then some 5 else none
/-- The group that may issue now, with its launch and its set: the launch runs, the core is powered, none of the registers
the instruction names awaits a load. -/
def issuable (s : State) (i : Iss) (rs : List Nat) : Option (Launch × GSet × Grp) :=
  match grpOf s i.core i.slot with
  | none => none
  | some g =>
    match launchOf s g.launch, setOf (coreOf s i.core) i.slot with
    | some l, some t =>
      if l.ended || !grpRuns s i.core i.slot g || busyAny g rs || (domOf s i.core).st != 2 then none else some (l, t, g)
    | _, _ => none
/-- An instruction's effect brought about. -/
def settle (s : State) (i : Iss) : Eff → State
  | .wait => s
  | .trap u c imm fmt => raise u i.core i.slot c imm fmt
  | .next u => updGrp u i.core i.slot (advance i.len)
  | .jump u => updGrp u i.core i.slot stepOver
def issue (s : State) (i : Iss) (rs : List Nat) (f : Launch → GSet → Grp → Eff) : State :=
  match issuable s i rs with
  | none => s
  | some (l, t, g) =>
    settle s i (match fetchTrap s l i.core g.pc i.len with
      | some c => .trap s c
      | none => f l t g)

/-! Branches and EXIT (R59 to R61). -/
/-- A push beyond the 32nd pending entry (R60). An entry that has been popped to run its path is pending no more. -/
def stackFull (g : Grp) (n : Nat) : Bool :=
  (g.stack.filter (fun f => match f with
    | .pend .. => true
    | .join .. => false)).length + n > 32
/-- A call: every thread that goes to the target holds the address behind the instruction in the link register (R62; log entry 76). -/
def putLink (i : Iss) (link : Option Nat) (m : Word) (g : Grp) : Grp :=
  match link with
  | none => g
  | some r => (lanesOf m).foldl (fun h x => putLane h x r (BitVec.ofNat 32 (g.pc + i.len)) false) g
def branch (i : Iss) (cond target reconv : Nat) (link : Option Nat) (s : State) : State :=
  issue s i (cond :: link.toList) (fun _ _ g =>
    let act := actives g
    if act.any (fun x => regPois g x cond) then .trap s 5
    else
      let taken := maskOf (act.filter (fun x => truth (regVal i.core g x cond)))
      if taken = g.active then .jump (setGrp s i.core i.slot (settlePaths { putLink i link taken g with pc := target }))
      else if taken = 0 then .next s
      else if stackFull g 1 then .trap s 0xC
      else .jump (setGrp s i.core i.slot (settlePaths
        { putLink i link taken g with
          stack := .pend target taken reconv :: g.stack, active := g.active &&& ~~~taken, pc := g.pc + i.len })))
def execBranch (at_ : Iss) (cond target reconv : Nat) (s : State) (link : Option Nat := none) : Host.Outcome State Fault Refusal :=
  .next (keepKrn s (branch at_ cond target reconv link s))
/-- Targets run in ascending order, each pending one on the stack. -/
def indirect (i : Iss) (r reconv : Nat) (link : Option Nat) (s : State) : State :=
  issue s i (r :: link.toList) (fun _ _ g =>
    let act := actives g
    let tgt (x : Nat) : Nat := (regVal i.core g x r).toNat
    if act.any (fun x => regPois g x r) then .trap s 5
    else match (distinct (act.map tgt)).map (fun a => (a, maskOf (act.filter (fun x => tgt x == a)))) with
      | [] => .next s
      | (a, m) :: rest =>
        if stackFull g rest.length then .trap s 0xC
        else .jump (setGrp s i.core i.slot (settlePaths
          { putLink i link g.active g with
            stack := rest.map (fun p => Frame.pend p.1 p.2 reconv) ++ g.stack, active := m, pc := a })))
def execIndirectBranch (at_ : Iss) (target reconv : Nat) (s : State) (link : Option Nat := none) : Host.Outcome State Fault Refusal :=
  .next (keepKrn s (indirect at_ target reconv link s))

/-! EXIT and JOIN (R61, R65 to R67). -/
def exitThreads (i : Iss) (s : State) : State :=
  issue s i [] (fun _ t g =>
    let act := actives g
    if act.any (fun x => g.locks.any (fun k => k.1 == x)) then .trap s 0xA
    else
      let gone (b : Bar) : Bar := if b.n = 0 then b else { b with exited := b.exited + act.length }
      let s := updSet s i.core t.launch t.idx (fun t => { t with bars := t.bars.map (fun b => (b.1, gone b.2)) })
      let s := setGrp s i.core i.slot (settlePaths { g with live := g.live &&& ~~~g.active, active := 0, spin := false })
      .jump (settleSet s i.core t.launch t.idx))
def execExit (at_ : Iss) (s : State) : Host.Outcome State Fault Refusal := .next (keepKrn s (exitThreads at_ s))
/-- JOIN: the barrier must be declared; the count of its first arrival holds for the use. -/
def joinBar (i : Iss) (b n : Nat) (s : State) : State :=
  issue s i [] (fun l t g =>
    if b ≥ l.entry.barriers then .trap s 1
    else
      let act := actives g
      let arrive (o : Option Bar) : Bar := match o with
        | some x => { x with arrived := x.arrived + act.length }
        | none => { n, arrived := act.length, exited := 0 }
      let s := updSet s i.core t.launch t.idx (fun t => { t with bars := tset t.bars b (arrive (tfind t.bars b)) })
      let ps := act.map (fun x => { lane := x, why := .barrier b, since := s.krn.order, pc := g.pc + i.len : Park })
      let s := { s with krn := { s.krn with order := s.krn.order + 1 } }
      .jump (settleSet (setGrp s i.core i.slot (settlePaths { g with parked := g.parked ++ ps, active := 0 })) i.core t.launch t.idx))
def execJoin (at_ : Iss) (barrier n : Nat) (s : State) : Host.Outcome State Fault Refusal :=
  .next (keepKrn s (joinBar at_ barrier n s))

/-! Locks (R68 to R70). -/
/-- The first trap of the active lanes' lock addresses. -/
def lockBad (t : GSet) (core : Nat) (g : Grp) (r : Nat) : Option Nat :=
  (actives g).findSome? (fun x =>
    let a := (regVal core g x r).toNat
    if regPois g x r then some 5 else if a % 8 != 0 then some 0xA else if a + 8 > t.lsLen then some 3 else none)
def putLock (s : State) (core : Nat) (t : GSet) (a v : Nat) : State :=
  setCore s core (lsWrite core (coreOf s core) (t.lsBase + a) (le 8 v) false)
/-- One lock word: the lowest lane takes a free lock, the others park. Answers the failing lanes with it. -/
def acquire1 (i : Iss) (t : GSet) (acc : State × List (Nat × Nat)) (a : Nat) (ls : List Nat) : State × List (Nat × Nat) :=
  let s := acc.1
  match ls with
  | [] => acc
  | x :: rest =>
    if lsWord s i.core (t.lsBase + a) = 0 then
      (updGrp (putLock s i.core t a (lockWord i.slot x)) i.core i.slot (fun g => { g with locks := g.locks ++ [(x, a)], spin := false }),
       acc.2 ++ rest.map (fun y => (y, a)))
    else (s, acc.2 ++ ls.map (fun y => (y, a)))
def lockAcq (i : Iss) (r : Nat) (s : State) : State :=
  issue s i [r] (fun _ t g =>
    match lockBad t i.core g r with
    | some c => .trap s c
    | none =>
      let act := actives g
      let tgt (x : Nat) : Nat := (regVal i.core g x r).toNat
      let q := (distinct (act.map tgt)).foldl (fun acc a => acquire1 i t acc a (act.filter (fun x => tgt x == a))) (s, [])
      let ps := q.2.map (fun f => { lane := f.1, why := .lock f.2, since := s.krn.order, pc := g.pc + i.len : Park })
      let u := { q.1 with krn := { q.1.krn with order := s.krn.order + 1 } }
      let u := updGrp u i.core i.slot (fun g => settlePaths
        { g with pc := g.pc + i.len, parked := g.parked ++ ps, active := g.active &&& ~~~(maskOf (q.2.map (·.1))) })
      .jump (settleSet u i.core t.launch t.idx))
def execLockAcq (at_ : Iss) (addr : Nat) (s : State) : Host.Outcome State Fault Refusal := .next (keepKrn s (lockAcq at_ addr s))
/-- One lock word released: it passes to its longest-waiting thread, which resumes, or becomes free. -/
def release1 (i : Iss) (t : GSet) (s : State) (a : Nat) : State :=
  let s := updGrp s i.core i.slot (fun g => { g with locks := g.locks.filter (fun k => k.2 != a) })
  match earliest (waiters s i.core t (.lock a)) with
  | none => putLock s i.core t a 0
  | some (_, sl, ln) =>
    updGrp (putLock s i.core t a (lockWord sl ln)) i.core sl (fun g =>
      release { g with locks := g.locks ++ [(ln, a)], spin := false } ((parkedAt (.lock a) g).filter (fun p => p.lane == ln)))
def lockRel (i : Iss) (r : Nat) (s : State) : State :=
  issue s i [r] (fun _ t g =>
    let act := actives g
    let tgt (x : Nat) : Nat := (regVal i.core g x r).toNat
    match lockBad t i.core g r with
    | some c => .trap s c
    | none =>
      if act.any (fun x => lsWord s i.core (t.lsBase + tgt x) != lockWord i.slot x) then .trap s 0xA
      else
        let u := updGrp s i.core i.slot (fun g => settlePaths { g with pc := g.pc + i.len })
        .jump (settleSet ((distinct (act.map tgt)).foldl (release1 i t) u) i.core t.launch t.idx))
def execLockRel (at_ : Iss) (addr : Nat) (s : State) : Host.Outcome State Fault Refusal := .next (keepKrn s (lockRel at_ addr s))
/-- The spin count has reached its bound; 0xFFFF disables it (R71). -/
def spinTimeout (core slot : Nat) (s : State) : State :=
  match grpOf s core slot with
  | none => s
  | some g =>
    match launchOf s g.launch with
    | none => s
    | some l => if g.spin && l.spin != 0xFFFF && !l.ended && grpRuns s core slot g then raise s core slot 0xB else s
def execSpinTimeout (core slot : Nat) (s : State) : Host.Outcome State Fault Refusal := .next (keepKrn s (spinTimeout core slot s))

/-! Vector instructions (R36 to R38, R48, R52, R58, R62, R486). -/
/-- An operation on the three operands in a number type: exact real and integer meanings. -/
def arith (f : Num → Num → Num → Num) (h : Int → Int → Int → Int) (t : VTy) (a b c : Nat) : Nat :=
  let num (k : FF) (x y z : Nat) : Nat := roundF k (f (decodeF k x) (decodeF k y) (decodeF k z))
  let pair (k : FF) : Nat := num k (a % 65536) (b % 65536) (c % 65536) + 65536 * num k (a / 65536) (b / 65536) (c / 65536)
  match t with
  | .fp32 => num ffp32 a b c
  | .fp16x2 => pair ffp16
  | .bf16x2 => pair fbf16
  | .int32 => ofS 32 (h (toS 32 a) (toS 32 b) (toS 32 c))
  | .int64 => ofS 64 (h (toS 64 a) (toS 64 b) (toS 64 c))
/-- A compare: 1 or 0, for a pair in each half. -/
def compare2 (k : Cmp) (t : VTy) (a b : Nat) : Nat :=
  let num (f : FF) (x y : Nat) : Nat := b2n (cmpNum k (decodeF f x) (decodeF f y))
  match t with
  | .fp32 => num ffp32 a b
  | .fp16x2 => num ffp16 (a % 65536) (b % 65536) + 65536 * num ffp16 (a / 65536) (b / 65536)
  | .bf16x2 => num fbf16 (a % 65536) (b % 65536) + 65536 * num fbf16 (a / 65536) (b / 65536)
  | .int32 => b2n (cmpInt k (toS 32 a) (toS 32 b))
  | .int64 => b2n (cmpInt k (toS 64 a) (toS 64 b))
/-- The type of an operation whose operands are 64 bits wide. -/
def vopTy : VOp → Option VTy
  | .add t | .sub t | .mul t | .fma t | .min t | .max t | .cmp t _ => some t
  | _ => none
def isWide (op : VOp) : Bool := vopTy op == some .int64
/-- The result takes a register pair. -/
def wideRes (op : VOp) : Bool := isWide op && (match op with
  | .cmp _ _ => false
  | _ => true)
/-- A format whose elements have a scale. -/
def scaled (f : Nat) : Bool := (fmD f).sc != .none
/-- Sources of an operation. A conversion takes the element, then the scale of its source and that of its target where they
have one (log entry 76). -/
def vopArity : VOp → Nat
  | .sreg _ => 0
  | .mov | .not => 1
  | .cvt s d _ => 1 + b2n (scaled s) + b2n (scaled d)
  | .fma _ | .sel => 3
  | _ => 2
/-- The value of a scale word in a format's scale type (R40 to R43); 1 where it has none. -/
def scaleNum (f w : Nat) : Num :=
  match (fmD f).sc with
  | .none => .fin false 1 0
  | .e8m0 => e8m0 (w % 256)
  | .chan => decodeF ffp32 w
  | .bf16 => decodeF fbf16 w
  | .fp16 => decodeF ffp16 w
/-- A T64 element in a register is its digit (R43); another value decodes as 0, as an encoding fault does (R44). -/
def elemIn (f x : Nat) : Num := if f = 13 then t64Digit (if x < 3 then x else 243) 0 else elemNum (fmD f).el x
/-- An element under its scale brought to an element format: special values and the exact quotient (R52, R54). -/
def underScale (special : Num → Conv) (quot : Bool → Nat → Nat → Conv) (s x : Num) : Conv :=
  match x, s with
  | .nan, _ | _, .nan | .inf _, .inf _ => special .nan
  | .inf n, .fin k _ _ => special (.inf (n != k))
  | .fin n _ _, .inf k => quot (n != k) 0 1
  | .fin n m _, .fin k l _ =>
    if l != 0 then quot (n != k) (x.frac.1 * s.frac.2) (x.frac.2 * s.frac.1)
    else if m = 0 then special .nan else special (.inf (n != k))
/-- Element conversion under R48's control (R49 to R55); none for a reserved format or control. `ss` and `ds` are the scales of
source and target. A scaled element to FP32 is widening. A value outside INT32, and a NaN to a format without one, are stated
nowhere: `Config.cvtInt` and a free value. -/
def cvtVal (src dst ctl x ss ds n : Nat) : Option Nat :=
  if ctl % 4 > 1 || ctl > 7 || src > 14 || dst > 14 then none
  else
    let v := if scaled src then mulN (elemIn src x) (scaleNum src ss) else elemIn src x
    let wide := scaled src && dst = 0
    let c : Ctl := { rnd := ctl % 4 == 1 && !wide, ovf := bit ctl 2 || wide, r := (Config.vecRandom n).toNat }
    let s := scaleNum dst ds
    some (match (fmD dst).el with
      | .fl f =>
        if f.nan.isNone && (v = .nan || s = .nan) then (Config.freeValue n).toNat % 2 ^ f.w
        else if scaled dst then (underScale (convF f c) (convQ f c) s v).code else (convF f c v).code
      | .int w fr =>
        if w = 32 then
          let k := convI 34 c v
          let i := toS 34 k.code
          if v = .nan || k.clip || i < -2147483648 || i > 2147483647 then (Config.cvtInt (BitVec.ofNat 32 x)).toNat else ofS 32 i
        else (underScale (convI w c) (fun g p d => convIQ w c g (p * 2 ^ fr) d) s v).code
      | .t64 => if s.isZero then 1 else ((t64Elem (fdivN v s)).1 + 1).toNat)
/-- Special registers (R62): the set's coordinates follow R86. -/
def sregVal (s : State) (core : Nat) (l : Launch) (g : Grp) (lane : Nat) : SReg → Nat
  | .lane => lane
  | .group => g.idx
  | .setX => g.set % l.grid.1
  | .setY => g.set / l.grid.1 % l.grid.2.1
  | .setZ => g.set / l.grid.1 / l.grid.2.1
  | .coreIdx => core
  | .tscLo => s.tick % 2 ^ 32
  | .tscHi => s.tick / 2 ^ 32 % 2 ^ 32
/-- A shift; by the width or more its result is stated nowhere and is a free value. -/
def shiftVal (k : Nat) (f : Nat → Nat) (n : Nat) : Nat := if k < 32 then f k else (Config.freeValue n).toNat
/-- A lane's result and its mark: operands `x` with their marks, the free value's number `n`. -/
def vecVal (s : State) (core : Nat) (l : Launch) (g : Grp) (lane : Nat) (op : VOp) (x : Nat → Nat × Bool) (n : Nat) : Option (Nat × Bool) :=
  let a := (x 0).1
  let b := (x 1).1
  let c := (x 2).1
  let all := (List.range (vopArity op)).any (fun i => (x i).2)
  match op with
  | .mov => some (a, all)
  | .add t => some (arith (fun p q _ => addN p q) (fun p q _ => p + q) t a b c, all)
  | .sub t => some (arith (fun p q _ => addN p (negN q)) (fun p q _ => p - q) t a b c, all)
  | .mul t => some (arith (fun p q _ => mulN p q) (fun p q _ => p * q) t a b c, all)
  | .fma t => some (arith (fun p q r => addN (mulN p q) r) (fun p q r => p * q + r) t a b c, all)
  | .min t => some (arith (fun p q _ => minN p q) (fun p q _ => if q < p then q else p) t a b c, all)
  | .max t => some (arith (fun p q _ => maxN p q) (fun p q _ => if p < q then q else p) t a b c, all)
  | .and => some (a &&& b, all)
  | .or => some (a ||| b, all)
  | .xor => some (a ^^^ b, all)
  | .not => some (2 ^ 32 - 1 - a, all)
  | .shl => some (shiftVal b (fun k => a * 2 ^ k % 2 ^ 32) n, all)
  | .shr => some (shiftVal b (fun k => a / 2 ^ k) n, all)
  | .sar => some (shiftVal b (fun k => ofS 32 (toS 32 a / (2 ^ k : Nat))) n, all)
  | .cmp t k => some (compare2 k t a b, all)
  | .sel => some (if a != 0 then (b, (x 0).2 || (x 1).2) else (c, (x 0).2 || (x 2).2))
  | .cvt src dst ctl => (cvtVal src dst ctl a b (if scaled src then c else b) n).map (fun v => (v, all))
  | .sreg r => some (sregVal s core l g lane r, all)
/-- Results of all active lanes written, each read before any is written. -/
def putLanes (g : Grp) (dst : Nat) (wide : Bool) (rs : List (Nat × Nat × Bool)) : Grp :=
  rs.foldl (fun g r => if wide then put64 g r.1 dst r.2.1 r.2.2 else putLane g r.1 dst (BitVec.ofNat 32 r.2.1) r.2.2) g
def vecRes (s : State) (i : Iss) (l : Launch) (g : Grp) (op : VOp) (srcs : List Src) : Option (List (Nat × Nat × Bool)) :=
  (actives g).mapM (fun ln => (vecVal s i.core l g ln op (fun k =>
    let o := srcs.getD k (.imm 0)
    if isWide op then src64 i.core g ln o else let v := srcVal i.core g ln o; (v.1.toNat, v.2)) (s.free + ln)).map (fun r => (ln, r)))
def vector (i : Iss) (op : VOp) (dst : Nat) (srcs : List Src) (s : State) : State :=
  issue s i (dst :: (dst + 1) :: srcs.flatMap srcRegs) (fun l _ g =>
    if srcs.length != vopArity op then .trap s 1
    else match vecRes s i l g op srcs with
      | none => .trap s 1
      | some rs => .next (setGrp { s with free := s.free + 32 } i.core i.slot (putLanes g dst (wideRes op) rs)))
def execVectorInstruction (at_ : Iss) (op : VOp) (dst : Nat) (srcs : List Src) (s : State) : Host.Outcome State Fault Refusal :=
  .next (keepKrn s (vector at_ op dst srcs s))
def special (i : Iss) (f : SpecialFn) (dst : Nat) (src : Src) (s : State) : State :=
  issue s i (dst :: (srcRegs src).take 1) (fun _ _ g =>
    .next (setGrp s i.core i.slot (putLanes g dst false ((actives g).map (fun ln =>
      let v := srcVal i.core g ln src
      (ln, (specialVal f v.1).toNat, v.2))))))
def execSpecialFunction (at_ : Iss) (fn : SpecialFn) (dst : Nat) (src : Src) (s : State) : Host.Outcome State Fault Refusal :=
  .next (keepKrn s (special at_ fn dst src s))

/-! Lane exchanges and tallies (R63, R64). -/
def lanePair (g : Grp) (dst flag : Nat) (rs : List (Nat × (Word × Bool) × Option (Bool × Bool))) : Grp :=
  rs.foldl (fun g r =>
    let g := putLane g r.1 dst r.2.1.1 r.2.1.2
    match r.2.2 with
    | some f => putLane g r.1 flag (flagW f.1) f.2
    | none => g) g
def xlnRes (i : Iss) (g : Grp) (k : XlnKind) (src sel fill : Src) (span ln : Nat) : (Word × Bool) × Bool × Bool :=
  let q := srcVal i.core g ln sel
  match (xlnLane k ln q.1.toNat span).filter (fun j => g.active.getLsbD j) with
  | some j => let v := srcVal i.core g j src; ((v.1, v.2 || q.2), true, q.2)
  | none => let v := srcVal i.core g ln fill; ((v.1, v.2 || q.2), false, q.2)
def xln (i : Iss) (k : XlnKind) (dst flag : Nat) (src sel fill : Src) (span : Nat) (s : State) : State :=
  issue s i (dst :: flag :: [src, sel, fill].flatMap (fun x => (srcRegs x).take 1)) (fun _ _ g =>
    if !([2, 4, 8, 16, 32].contains span) then .trap s 1
    else .next (setGrp s i.core i.slot (lanePair g dst flag ((actives g).map (fun ln =>
      let r := xlnRes i g k src sel fill span ln
      (ln, r.1, some r.2))))))
def execXln (at_ : Iss) (kind : XlnKind) (dst flag : Nat) (src sel fill : Src) (span : Nat) (s : State) : Host.Outcome State Fault Refusal :=
  .next (keepKrn s (xln at_ kind dst flag src sel fill span s))
/-- A tally; the exchange flag is a result of SAME alone. -/
def tally (i : Iss) (k : TallyKind) (dst flag : Nat) (src : Src) (s : State) : State :=
  issue s i (dst :: flag :: (srcRegs src).take 1) (fun _ _ g =>
    let act := actives g
    let bad := act.any (fun ln => (srcVal i.core g ln src).2)
    .next (setGrp s i.core i.slot (lanePair g dst flag (act.map (fun ln =>
      let r := tallyOf k act (fun x => (srcVal i.core g x src).1) ln
      (ln, (r.1, bad), if k = .same then some (r.2, bad) else none))))))
def execTally (at_ : Iss) (kind : TallyKind) (dst flag : Nat) (src : Src) (s : State) : Host.Outcome State Fault Refusal :=
  .next (keepKrn s (tally at_ kind dst flag src s))

/-! Memory instructions (R62, R73, R274, R487). -/
/-- Where a lane's access goes. -/
inductive Tgt where
  | ls (a : Nat)
  | mem (pa : Nat)
  | host (a : Nat)
  | regs (off : Nat)
  | foreign (a : Nat)
  | bad (code : Nat)
  deriving DecidableEq, Repr
def laneAddr (core : Nat) (g : Grp) (sp : Space) (lane r off : Nat) : Nat × Bool :=
  match sp with
  | .virt => ((reg64 core g lane r + off) % 2 ^ 64, pois64 g lane r)
  | _ => (((regVal core g lane r).toNat + off) % 2 ^ 32, regPois g lane r)
/-- A virtual or physical target, or the trap. -/
def virtTgt (s : State) (l : Launch) (va : Nat) (write : Bool) : Tgt :=
  match translate s l.ctx va write with
  | .pa a => if backed s a then .mem a else .bad 6
  | .host a => .host a
  | .regs o => .regs o
  | .foreign a => .foreign a
  | .fault => .bad 4
def tgtAt (s : State) (l : Launch) (t : GSet) (sp : Space) (write : Bool) (n : Nat) (x : Nat × Bool) : Tgt :=
  if x.2 then .bad 5
  else if x.1 % n != 0 then .bad 2
  else match sp with
    | .local_ => if x.1 + n ≤ t.lsLen then .ls (t.lsBase + x.1) else .bad 3
    | .virt => virtTgt s l x.1 write
    | .const => match s.krn.bundles.find? (fun b => b.handle == l.bundle) with
      | some b =>
        let pa := b.base + b.roOff + x.1
        if write then .bad 1 else if x.1 + n > b.roLen then .bad 3 else if backed s pa then .mem pa else .bad 6
      | none => .bad 3
/-- An access to host memory goes to Vestibule 0; a route down in service ends it with a bus error (R270). -/
def reachHost (s : State) (core : Nat) (t : Tgt) : Tgt :=
  match t with
  | .host a => if cutOff s (core / 64) 8 then .bad 6 else .host a
  | t => t
/-- Host memory and register space take no atomics; register space is read by 4 or 8 bytes (R513). -/
def noWindow (t : Tgt) (host : Bool) (n : Nat) : Tgt :=
  match t with
  | .host _ => if host then t else .bad 6
  | .regs _ => if host && (n = 4 || n = 8) then t else .bad 6
  | t => t
/-- The lowest lane whose access cannot be made decides the trap; nothing is then accessed. -/
def accessTrap (s : State) (core : Nat) (l : Launch) (ts : List (Nat × Tgt)) : Option Eff :=
  ts.findSome? (fun x => match x.2 with
    | .bad c => some (.trap s c)
    | .foreign a => some (.trap (foreignEvent s l.part a 0 core) 6)
    | _ => none)
/-- A FENCE holds the group's next memory access while requests it covers are outstanding. -/
def fenced (s : State) (i : Iss) (g : Grp) : Bool :=
  g.fencing && (coreOf s i.core).outst.any (fun o => o.slot == i.slot || o.kind == 1)
/-- The class a memory instruction travels in: lowered to BULK or SCAVENGE, never raised. -/
def accessCls (l : Launch) (c : Option Nat) : Nat := match c with
  | some k => if k ≥ 2 && k > l.cls then k else l.cls
  | none => l.cls
def markBusy (lane dst n : Nat) (g : Grp) : Grp :=
  { g with busy := (List.range (cdiv n 4)).foldl (fun b k => sadd b (256 * lane + dst + k)) g.busy }
def setMem (pa n : Nat) (b : Bytes) : List (Nat × Byte) := (List.range n).map (fun k => (pa % 128 + k, b.getD k 0))

/-! Loads. -/
def lsDeliver (core : Nat) (c : Core) (a n lane dst : Nat) (g : Grp) : Grp :=
  (List.range (cdiv n 4)).foldl (fun g k =>
    let m := Nat.min 4 n
    putLane g lane (dst + k) (BitVec.ofNat 32 (unle (lsRead core c (a + 4 * k) m))) (lsMarked c (a + 4 * k) m)) g
/-- A load of host memory leaves its port: it takes its tokens, and its response is counted (R277, R279). -/
def hostLoad (s : State) (i : Iss) (l : Launch) (lane a n dst cls : Nat) : State :=
  let id := s.mem.nextReq
  let c := coreOf s i.core
  let key := portKey 0 i.core cls
  let s := charge s key n
  let s := { s with mem := { s.mem with nextReq := id + 1 }
                    fab := { s.fab with inflight := tset s.fab.inflight id (key, units s.tick, false) } }
  let s := setCore s i.core { c with
    outst := c.outst ++ [{ id, slot := i.slot, launch := l.op, lanes := [(lane, a)], width := n, dst, kind := 0 }] }
  issueRead (updGrp s i.core i.slot (markBusy lane dst n)) (fnOf s l.part) a n (.core i.core id)
def regLoad (s : State) (i : Iss) (lane off n dst : Nat) : State :=
  (List.range (n / 4)).foldl (fun s k =>
    let v := readReg s (16 + i.core) (off + 4 * k)
    updGrp (lowRead (16 + i.core) (off + 4 * k) s) i.core i.slot (fun g => putLane g lane (dst + k) v false)) s
/-- The L1 holds every byte, and no atomic of the core on the line is under way. -/
def l1Hit (c : Core) (pa n : Nat) : Option L1Line :=
  (l1Find c (lineOf pa)).filter (fun e => (List.range n).all (fun k => e.bytes.any (fun b => b.1 == pa % 128 + k)) &&
    !c.outst.any (fun o => o.kind ≥ 2 && o.lanes.any (fun x => lineOf x.2 == lineOf pa)))
/-- The dirty bytes of a core's line go to its slice; `drop` removes the line. -/
def l1Clean (s : State) (i : Iss) (line part cls : Nat) (drop : Bool) : State :=
  match l1Find (coreOf s i.core) line with
  | none => s
  | some e =>
    let s := l1WriteBack s i.core i.slot e part cls
    let c := coreOf s i.core
    setCore s i.core { c with l1 := c.l1.filterMap (fun m =>
      if m.addr != line then some m else if drop then none else some { m with dirty := [] }) }
def loadHit (i : Iss) (n dst : Nat) (s : State) (x : Nat × Nat) : State :=
  match l1Hit (coreOf s i.core) x.2 n with
  | some e => updGrp s i.core i.slot (fun g =>
      deliver g x.1 dst n ((List.range n).map (fun k => tget e.bytes 0 (x.2 % 128 + k))) (bit e.pois (x.2 % 128 / 64)))
  | none => s
/-- The lanes of one line: those the L1 can serve, and one request for the rest. -/
def loadLine (i : Iss) (l : Launch) (n dst cls : Nat) (xs : List (Nat × Nat)) (s : State) (line : Nat) : State :=
  let mine := xs.filter (fun x => lineOf x.2 == line)
  let rest := mine.filter (fun x => (l1Hit (coreOf s i.core) x.2 n).isNone)
  let s := mine.foldl (loadHit i n dst) s
  if rest.isEmpty then s
  else
    let s := l1Clean s i line l.part cls false
    let s := updGrp s i.core i.slot (fun g => rest.foldl (fun g x => markBusy x.1 dst n g) g)
    sendOut s i.core { id := 0, slot := i.slot, launch := l.op, lanes := rest, width := n, dst, kind := 0 } cls line .read l.part
def memTgts (ts : List (Nat × Tgt)) : List (Nat × Nat) := ts.filterMap (fun x => match x.2 with
  | .mem a => some (x.1, a)
  | _ => none)
def hostTgts (ts : List (Nat × Tgt)) : Nat := (ts.filter (fun x => match x.2 with
  | .host _ => true
  | _ => false)).length
def loadOne (i : Iss) (l : Launch) (n dst cls : Nat) (s : State) (x : Nat × Tgt) : State :=
  match x.2 with
  | .ls a => updGrp s i.core i.slot (lsDeliver i.core (coreOf s i.core) a n x.1 dst)
  | .host a => hostLoad s i l x.1 a n dst cls
  | .regs o => regLoad s i x.1 o n dst
  | _ => s
/-- A load: registers, local store and L1 hits answer at once; a host read leaves while its function has a tag (R300). -/
def loadAll (i : Iss) (l : Launch) (a : LsArgs) (ts : List (Nat × Tgt)) (s : State) : Eff :=
  if hostTgts ts != 0 && readsOf s (fnOf s l.part) + hostTgts ts > tagLimit s then .wait
  else
    let cls := accessCls l a.cls
    let s := ts.foldl (loadOne i l a.width a.data cls) s
    let xs := memTgts ts
    .next ((distinct (xs.map (fun x => lineOf x.2))).foldl (loadLine i l a.width a.data cls xs) s)

/-! Stores. -/
/-- The words a lane stores with their marks. -/
def storeWords (core : Nat) (g : Grp) (lane r n : Nat) : List (Word × Bool) :=
  (List.range (cdiv n 4)).map (fun k => (regVal core g lane (r + k), regPois g lane (r + k)))
def storeLs (core a n : Nat) (ws : List (Word × Bool)) (c : Core) : Core :=
  ws.zipIdx.foldl (fun c w => lsWrite core c (a + 4 * w.2) (le (Nat.min 4 n) w.1.1.toNat) w.1.2) c
def storeOne (i : Iss) (l : Launch) (g : Grp) (a : LsArgs) (s : State) (x : Nat × Tgt) : State :=
  let ws := storeWords i.core g x.1 a.data a.width
  let b := (ws.flatMap (fun w => le 4 w.1.toNat)).take a.width
  let p := ws.any (·.2)
  match x.2 with
  | .ls y => setCore s i.core (storeLs i.core y a.width ws (coreOf s i.core))
  | .mem y => l1Put s i.core i.slot (lineOf y) (setMem y a.width b) true (if p then 2 ^ (y % 128 / 64) else 0) l.part (accessCls l a.cls)
  | .host y =>
    let w := hostData (charge s (portKey 0 i.core (accessCls l a.cls)) a.width) l.part y (b.map (fun v => (v, p)))
    if w.2 = 4 then raise w.1 i.core i.slot 4 else w.1
  | .regs o => if p then s else regWrite (16 + i.core) o (unle b) a.width s
  | _ => s
/-- A store, lanes in ascending order; poisoned data leaving the core traps after the stores (R487). -/
def storeAll (i : Iss) (l : Launch) (g : Grp) (a : LsArgs) (ts : List (Nat × Tgt)) (s : State) : Eff :=
  let eaten := ts.any (fun x => (match x.2 with
    | .ls _ => false
    | _ => true) && (storeWords i.core g x.1 a.data a.width).any (·.2))
  let s := updGrp (ts.foldl (storeOne i l g a) s) i.core i.slot (fun g => { g with spin := false })
  if eaten then .trap s 5 else .next s
def pairRegs (sp : Space) (r : Nat) : List Nat := if sp = .virt then [r, r + 1] else [r]
def loadStore (i : Iss) (a : LsArgs) (s : State) : State :=
  issue s i (pairRegs a.space a.addr ++ (List.range (cdiv a.width 4)).map (· + a.data)) (fun l t g =>
    if fenced s i g then .wait
    else
      let s := updGrp s i.core i.slot (fun g => { g with fencing := false })
      let ts := (actives g).map (fun x =>
        let tgt := reachHost s i.core (tgtAt s l t a.space a.store a.width (laneAddr i.core g a.space x a.addr a.off))
        (x, if a.store then tgt else noWindow tgt true a.width))
      match accessTrap s i.core l ts with
      | some e => e
      | none => if a.store then storeAll i l g a ts s else loadAll i l a ts s)
def execLoadStore (at_ : Iss) (args : LsArgs) (s : State) : Host.Outcome State Fault Refusal := .next (keepKrn s (loadStore at_ args s))

/-! Atomics and reductions (R62, R217). -/
def atomBytes : AtomKind → Nat
  | .ret _ w64 _ => if w64 then 8 else 4
  | .red op ty => redBytes op ty
/-- CADD takes FP32 alone. -/
def atomOk : AtomKind → Bool
  | .ret .. => true
  | .red op ty => op != .cadd || ty == .fp32
/-- Source, comparand and their mark in one lane. -/
def atomArgs (core : Nat) (g : Grp) (a : AtomArgs) (lane : Nat) : Nat × Nat × Bool :=
  match a.kind with
  | .ret op w64 _ =>
    let c := op == .cas
    if w64 then (reg64 core g lane a.src, reg64 core g lane a.cmp, pois64 g lane a.src || (c && pois64 g lane a.cmp))
    else ((regVal core g lane a.src).toNat, (regVal core g lane a.cmp).toNat, regPois g lane a.src || (c && regPois g lane a.cmp))
  | .red _ ty =>
    if ty = .int64 then (reg64 core g lane a.src, 0, pois64 g lane a.src) else ((regVal core g lane a.src).toNat, 0, regPois g lane a.src)
def atomNew (k : AtomKind) (old x c : Nat) : Nat :=
  match k with
  | .ret op w64 _ => let n := if w64 then 64 else 32; atomVal op n old (x % 2 ^ n) (c % 2 ^ n)
  | .red op ty => redVal op ty old x
/-- Local store: performed in the core (the spin count runs on where no lane changes memory, R71), the old value's mark carried unless it is exchanged away. -/
def atomLs (i : Iss) (g : Grp) (a : AtomArgs) (s : State) (lane y : Nat) : State :=
  let c := coreOf s i.core
  let n := atomBytes a.kind
  let old := unle (lsRead i.core c y n)
  let q := atomArgs i.core g a lane
  let new := atomNew a.kind old q.1 q.2.1
  let m := lsMarked c y n
  let keep := match a.kind with
    | .ret .exch _ _ => false
    | _ => m
  let s := setCore s i.core (lsWrite i.core c y (le n new) (q.2.2 || keep))
  updGrp s i.core i.slot (fun g =>
    let g := { g with spin := g.spin && new == old }
    match a.kind with
    | .ret _ w64 dst => if w64 then put64 g lane dst old m else putLane g lane dst (BitVec.ofNat 32 old) m
    | .red _ _ => g)
/-- An atomic that returns a value at a virtual address: sent to the line's home slice, the core's copy of the line written back
and dropped first. -/
def atomMem (i : Iss) (l : Launch) (g : Grp) (a : AtomArgs) (op : AtomOp) (w64 : Bool) (dst : Nat) (s : State) (x : Nat × Nat) : State :=
  let cls := accessCls l a.cls
  let s := l1Clean s i (lineOf x.2) l.part cls true
  let q := atomArgs i.core g a x.1
  let s := updGrp s i.core i.slot (markBusy x.1 dst (atomBytes a.kind))
  sendOut s i.core { id := 0, slot := i.slot, launch := l.op, lanes := [x], width := atomBytes a.kind, dst, kind := 2 }
    cls (lineOf x.2) (.atom op w64 (x.2 % 128) q.1 q.2.1 q.2.2) l.part
/-- The lanes of one line in requests: each carries the next operand of every element (R217). -/
def redRounds (xs : List (Nat × Nat)) : List (List (Nat × Nat)) :=
  ((List.range xs.length).map (fun k => xs.filter (fun x => (xs.filter (fun y => y.2 == x.2 && y.1 < x.1)).length == k))).filter
    (fun r => !r.isEmpty)
/-- A reduction's operands on one line go to its home slice, up to 128 bytes in a request. -/
def redSend (i : Iss) (l : Launch) (g : Grp) (a : AtomArgs) (op : RedOp) (ty : RedTy) (line : Nat) (s : State) (xs : List (Nat × Nat)) : State :=
  let cls := accessCls l a.cls
  let q (x : Nat × Nat) : Nat × Nat × Bool := atomArgs i.core g a x.1
  let pois := xs.foldl (fun p x => if (q x).2.2 then setBit p (x.2 % 128 / 64) true else p) 0
  sendOut (l1Clean s i line l.part cls true) i.core
    { id := 0, slot := i.slot, launch := l.op, lanes := xs, width := atomBytes a.kind, dst := 256, kind := 3 }
    cls line (.red op ty (xs.map (fun x => (x.2 % 128, (q x).1))) pois) l.part
def atomLsOne (i : Iss) (g : Grp) (a : AtomArgs) (s : State) (x : Nat × Tgt) : State :=
  match x.2 with
  | .ls y => atomLs i g a s x.1 y
  | _ => s
/-- The lanes' atomics, in ascending order; at virtual addresses a reduction goes line by line. -/
def atomAll (i : Iss) (l : Launch) (g : Grp) (a : AtomArgs) (ts : List (Nat × Tgt)) (s : State) : State :=
  let s := ts.foldl (atomLsOne i g a) s
  let xs := memTgts ts
  match a.kind with
  | .ret op w64 dst => xs.foldl (atomMem i l g a op w64 dst) s
  | .red op ty => (distinct (xs.map (fun x => lineOf x.2))).foldl (fun s line =>
      (redRounds (xs.filter (fun x => lineOf x.2 == line))).foldl (redSend i l g a op ty line) s) s
def atomRegs (a : AtomArgs) : List Nat :=
  pairRegs a.space a.addr ++ [a.src, a.src + 1, a.cmp, a.cmp + 1] ++ (match a.kind with
    | .ret _ w64 d => if w64 then [d, d + 1] else [d]
    | .red _ _ => [])
def atomic (i : Iss) (a : AtomArgs) (s : State) : State :=
  issue s i (atomRegs a) (fun l t g =>
    if fenced s i g then .wait
    else if !atomOk a.kind then .trap s 1
    else
      let s := updGrp s i.core i.slot (fun g => { g with fencing := false })
      let ts := (actives g).map (fun x =>
        (x, noWindow (tgtAt s l t a.space true (atomBytes a.kind) (laneAddr i.core g a.space x a.addr a.off)) false 0))
      match accessTrap s i.core l ts with
      | some e => e
      | none =>
        let u := atomAll i l g a ts (updGrp s i.core i.slot (fun g => { g with spin := g.spin || a.space == .local_ }))
        if a.space != .local_ && ts.any (fun x => (atomArgs i.core g a x.1).2.2) then .trap u 5 else .next u)
def execAtomic (at_ : Iss) (args : AtomArgs) (s : State) : Host.Outcome State Fault Refusal := .next (keepKrn s (atomic at_ args s))

/-! FENCE, TRAP and BRK (R73, R74). -/
/-- FENCE: beyond CORE scope the core's dirty lines go to their slices and its copies are given up. -/
def fence (i : Iss) (sc : Scope) (s : State) : State :=
  issue s i [] (fun l _ g =>
    if fenced s i g then .wait
    else
      let s := updGrp s i.core i.slot (fun g => { g with fencing := true })
      .next (if sc = .core then s
             else ((coreOf s i.core).l1.map (·.addr)).foldl (fun s line => l1Clean s i line l.part l.cls true) s))
def execFence (at_ : Iss) (scope : Scope) (s : State) : Host.Outcome State Fault Refusal := .next (keepKrn s (fence at_ scope s))
def trapInstr (i : Iss) (imm : BitVec 16) (s : State) : State := issue s i [] (fun _ _ _ => .trap s 0xE imm.toNat)
def execTrap (at_ : Iss) (imm : BitVec 16) (s : State) : Host.Outcome State Fault Refusal := .next (keepKrn s (trapInstr at_ imm s))
/-- BRK halts the group while a debugger is attached, and is counted otherwise. -/
def brk (i : Iss) (s : State) : State :=
  issue s i [] (fun l _ g =>
    if attached s l.part then
      .jump (setGrp s i.core i.slot { g with halt := some 0x10, haltReq := false, stepping := false, stepBlocked := false })
    else
      let c := coreOf s i.core
      .next (setCore s i.core { c with brks := c.brks + 1 }))
def execBrk (at_ : Iss) (s : State) : Host.Outcome State Fault Refusal := .next (keepKrn s (brk at_ s))

end Sys2Proof.Machine
end

