-- ==== Sys2Proof/Machine/Epilogue.lean ====
section
/-! DEFINITION. The epilogue (R120 to R128, R137, R138, R144, R151, R155 to R157): its descriptor's checks, the stages, the
write of a tile, top-k lists and the counts it sends to the guard. -/
namespace Sys2Proof.Machine

/-! Fields of the epilogue descriptor (R121). -/
def eOut (e : Bytes) : Nat := fld e 0 1
def eConv (e : Bytes) : Nat := fld e 1 1
def eAct (e : Bytes) : Nat := fld e 2 1
def eTensor (e : Bytes) : Bool := bit (fld e 3 1) 0
def eRowSc (e : Bytes) : Bool := bit (fld e 3 1) 1
def eColSc (e : Bytes) : Bool := bit (fld e 3 1) 2
def eBias (e : Bytes) : Nat := fld e 4 1 % 4
def ePlain (e : Bytes) : Bool := bit (fld e 4 1) 2
def eDest (e : Bytes) : Nat := fld e 5 1 % 4
def eOrd (e : Bytes) : Nat := fld e 6 1
def eTopk (e : Bytes) : Nat := fld e 7 1
def eAddr (e : Bytes) : Nat := fld e 8 8
def eScAddr (e : Bytes) : Nat := fld e 16 8
def eScratch (e : Bytes) : Nat := fld e 24 8
def eStride (e : Bytes) : Nat := fld e 32 4
def eScStride (e : Bytes) : Nat := fld e 36 4
def eFac (e : Bytes) : Nat := fld e 40 4
def eBiasPtr (e : Bytes) : Nat := fld e 44 4
def eRowBase (e : Bytes) : Nat := fld e 48 4
def eColBase (e : Bytes) : Nat := fld e 52 4
def eSplit (e : Bytes) : Nat := fld e 56 2
def eCount (e : Bytes) : Nat := fld e 58 2
def eHome (e : Bytes) : Nat := fld e 60 1
def rowsOf (mask : Nat) : List Nat := (List.range 32).filter (bit mask)
def inLs (len a n : Nat) : Bool := n = 0 || a + n ≤ len
/-- Destination with R131's rule: a split job of one split is one with DEST 0b01. -/
def eDest' (e : Bytes) : Nat := if eDest e = 2 && eCount e = 1 then 1 else eDest e
/-- The job word of a scratch region (R129). -/
def jobWord (e : Bytes) : Nat := eScratch e + 32768 * eCount e
/-- MXFP4 or INT4 output to local store: under COUNT and PROMOTE a guarded activation (R145), under PROMOTE in the room
layout (R156). -/
def fourBit (f : Nat) : Bool := f == 9 || f == 12
def actOut (e : Bytes) (mode : Nat) : Bool := fourBit (eOut e) && eDest e == 0 && mode != 0
def roomOut (e : Bytes) (mode : Nat) : Bool := fourBit (eOut e) && eDest e == 0 && mode == 2
def promo (f : Nat) : Nat := if f = 9 then 5 else if f = 12 then 10 else f

/-! Checks 7 to 10 (R122, R157). -/
def epiBad7 (e : Bytes) : Bool :=
  eConv e % 4 > 1 || eConv e > 7 || eAct e > 7 || fld e 3 1 > 7 || fld e 4 1 > 7 || eBias e = 3 || fld e 5 1 > 3 || fld e 61 3 != 0
def epiBad8 (formats : Nat) (int : Bool) (e : Bytes) : Bool :=
  !outOk (eOut e) || !bit formats (eOut e) ||
  (eOut e = 14 && (!int || fld e 3 1 != 0 || eBias e != 0 || eAct e != 0 || eDest e = 3)) || (eDest e = 3 && eOut e > 1)
def epiBad9 (mode len n mask : Nat) (e : Bytes) : Bool :=
  let f := eOut e
  let rows := rowsOf mask
  let rowB := if roomOut e mode then 32 * cdiv n 32 else elemBytes f n
  eStride e % 16 != 0 || eScStride e % 8 != 0 || eFac e % 16 != 0 || eBiasPtr e % 16 != 0 ||
  (eDest e ≥ 2 && eScratch e % 128 != 0) || (blkLen f != 1 && eColBase e % blkLen f != 0) ||
  (roomOut e mode && eStride e < rowB) ||
  (eDest e = 0 && rows.any (fun i => !inLs len (eAddr e + i * eStride e) rowB || !inLs len (eScAddr e + i * eScStride e) (scaleBytes f n))) ||
  (eTensor e && !inLs len (eFac e) 4) || (eRowSc e && !inLs len (eFac e + 16) 128) ||
  (eColSc e && !inLs len (eFac e + 144) (4 * n)) || (f = 11 && !inLs len (eFac e + 1168) 128) ||
  (eBias e != 0 && !inLs len (eBiasPtr e) (2 * n * eBias e))
def epiBad10 (tents : Nat) (e : Bytes) : Bool :=
  if eDest e ≥ 2 then
    eCount e = 0 || eCount e > 4096 || eSplit e ≥ eCount e || eHome e ≥ 64 || !bit tents (eHome e / 8) ||
    (if eDest e = 3 then eTopk e = 0 || eTopk e > 64 else eTopk e != 0)
  else eSplit e != 0 || eCount e != 0 || eHome e != 0 || eTopk e != 0
/-- The first failing check: some true is a format fault. -/
def epiCheck (formats mode len tents : Nat) (int : Bool) (n mask : Nat) (e : Bytes) : Option Bool :=
  if epiBad7 e then some false
  else if epiBad8 formats int e then some true
  else if epiBad9 mode len n mask e || epiBad10 tents e then some false else none

/-! Stages 1 to 4 (R123 to R125). -/
def absW (w : Word) : Word := w &&& 0x7FFFFFFF#32
def relu (v : Word) : Word := if ltI (.fin false 0 0) (ofFp32 v) then v else 0
/-- Activation functions; 3 to 7 are fixed functions of their input within 4 ulp, with R125's values at the infinities. -/
def actFn (k : Nat) (v : Word) : Word :=
  match ofFp32 v with
  | .nan => nanW
  | x =>
    if k = 0 then v
    else if k = 1 then relu v
    else if k = 2 then fmul (relu v) (relu v)
    else match x with
      | .inf true => if k = 7 then 0xBF800000#32 else if k = 6 then 0 else 0x80000000#32
      | .inf false => if k ≥ 6 then 0x3F800000#32 else v
      | _ => actVal k v (Config.activation k v)
/-- A value with its poison mark. -/
abbrev MWord := Word × Bool
def lsF32 (core : Nat) (c : Core) (a : Nat) : MWord := (BitVec.ofNat 32 (unle (lsRead core c a 4)), lsMarked c a 4)
def scaleBy (on : Bool) (k x : MWord) : MWord := if on then (fmul x.1 k.1, x.2 || k.2) else x
/-- Bias j: BF16 widened exactly, or FP32. -/
def biasAt (core : Nat) (c : Core) (base : Nat) (e : Bytes) (j : Nat) : MWord :=
  if eBias e = 1 then
    let a := base + eBiasPtr e + 2 * j
    (BitVec.ofNat 32 (unle (lsRead core c a 2) * 65536), lsMarked c a 2)
  else lsF32 core c (base + eBiasPtr e + 4 * j)
def stages (core : Nat) (c : Core) (base : Nat) (e : Bytes) (int : Bool) (i j : Nat) (x : MWord) : MWord :=
  if eOut e = 14 then x
  else
    let f := base + eFac e
    let v := if int then (i2f x.1, x.2) else x
    let v := scaleBy (eTensor e) (lsF32 core c f) v
    let v := scaleBy (eRowSc e) (lsF32 core c (f + 16 + 4 * i)) v
    let v := scaleBy (eColSc e) (lsF32 core c (f + 144 + 4 * j)) v
    let b := biasAt core c base e j
    let v := if eBias e = 0 then v else (fadd v.1 b.1, v.2 || b.2)
    (actFn (eAct e) v.1, v.2)

/-! Stage 5: one row in blocks (R45, R52 to R55, R126 to R128). -/
/-- A block as written: its quantisation, whether it is poisoned, its packed elements with marks, and the values it holds. -/
structure Blk where
  q : Quant
  p : Bool
  elems : List MByte
  len : Nat
  deriving DecidableEq, Repr
/-- Codes of one block in a format; `q` is INT8's output scale. -/
def quantBlk (f : Nat) (ctl : Nat → Ctl) (ovf : Bool) (q : Num) (xs : List Num) : Quant :=
  match (fmD f).sc with
  | .e8m0 => quantMx f ctl xs
  | .bf16 => quantI4 ctl xs
  | .fp16 => quantT64 ovf xs
  | .chan => quantOf (xs.zipIdx.map (fun x => quantI8 (ctl x.2) q x.1)) []
  | .none => quantOf (xs.zipIdx.map (fun x => convElem f (ctl x.2) x.1)) []
/-- Marks of the packed elements: a block's poison is whole; an unscaled element's is its own (R128). -/
def packBlk (f : Nat) (xs : List MWord) (q : Quant) : Blk :=
  let p := xs.any (·.2)
  if blkLen f = 1 then
    let w := (fmD f).bits / 8
    { q, p, len := xs.length, elems := (q.codes.zip xs).flatMap (fun x => (le w x.1).map (fun b => (b, x.2.2))) }
  else
    let codes := q.codes ++ List.replicate (blkLen f - q.codes.length) (if f = 13 then 1 else 0)
    { q, p, len := xs.length, elems := (packCodes f codes).map (fun b => (b, p)) }
def rowNums (f : Nat) (xs : List MWord) : List Num := xs.map (fun x => if f = 14 then intNum (toS 32 x.1.toNat) else ofFp32 x.1)
/-- A row cut into its blocks, each converted; `ctl` is indexed by column. -/
def rowBlks (f : Nat) (ctl : Nat → Ctl) (ovf : Bool) (q : MWord) (xs : List MWord) : List Blk :=
  let n := if blkLen f = 1 then xs.length else blkLen f
  (List.range (cdiv xs.length n)).map (fun m =>
    let b := (xs.drop (n * m)).take n
    let b := if f = 11 then b.map (fun x => (x.1, x.2 || q.2)) else b
    packBlk f b (if f = 14 then { codes := b.map (fun x => x.1.toNat) } else quantBlk f (fun k => ctl (n * m + k)) ovf (ofFp32 q.1) (rowNums f b)))
/-- The control of column j of row i with its random word (R51, R127, R156). -/
def rowCtl (e : Bytes) (mode seed i j : Nat) : Ctl :=
  let w := if roomOut e mode then eStride e else eStride e * 8 / (fmD (eOut e)).bits
  let idx := (eRowBase e + i) * w + eColBase e + j
  { rnd := bit (eConv e) 0, ovf := bit (eConv e) 2, r := philox seed (idx % 2 ^ 32) (idx / 2 ^ 32 % 2 ^ 32) (eOrd e) 0 }
/-- Where a row's elements and scales go, from the row's start: pieces of bytes. In the room layout a block has a 32-byte
slot, and a promoted group's scale is padded to the descriptor format's (R156). -/
def elemPieces (room : Bool) (bs : List Blk) : List (Nat × List MByte) :=
  if room then bs.zipIdx.map (fun b => (32 * b.2, b.1.elems)) else [(0, bs.flatMap (·.elems))]
def scaleBytesOf (f : Nat) (bs : List Blk) : List MByte :=
  bs.flatMap (fun b => (b.q.scale ++ zeros (sclBytes f - b.q.scale.length)).map (fun x => (x, b.p)))

/-! Counts and the shadow (R144 to R146, R151). -/
def addCounts (a b : Counts) : Counts :=
  { a with actElems := a.actElems + b.actElems, actClip := a.actClip + b.actClip, actFlush := a.actFlush + b.actFlush
           othClip := a.othClip + b.othClip, othFlush := a.othFlush + b.othFlush, nonfinite := a.nonfinite + b.nonfinite }
/-- A block's outcomes; poisoned blocks are left out. -/
def blkCounts (act : Bool) (b : Blk) : Counts :=
  if b.p then {}
  else if act then { actElems := b.len, actClip := b.q.clip, actFlush := b.q.flush, nonfinite := b.q.nonfinite }
  else { othClip := b.q.clip, othFlush := b.q.flush, nonfinite := b.q.nonfinite }
/-- The decoded values of a block. -/
def blkVals (f : Nat) (b : Blk) : List Word :=
  (List.range b.len).map (fun k => toFp32 (valAt f (b.elems.map (·.1)) b.q.scale k))
/-- ERR and REF over one pair of blocks. -/
def shadowBlk (f : Nat) (a : Word × Word) (x : Blk × Blk) : Word × Word :=
  if x.1.p || x.1.q.nonfinite != 0 || x.2.q.nonfinite != 0 then a
  else ((blkVals f x.1).zip (blkVals (promo f) x.2)).foldl (fun a v =>
    (fadd a.1 (absW (fsub v.1 v.2)), fadd a.2 (absW v.2))) a
/-- ERR × 2^shift > REF with REF > 0. -/
def overThreshold (shift : Nat) (a : Word × Word) : Bool :=
  shift != 0 && ltI (.fin false 0 0) (ofFp32 a.2) && ltI (ofFp32 a.2) (mulN (ofFp32 a.1) (.fin false (2 ^ shift) 0))
def shadowErr (a : Word × Word) : Word := if a.2 = 0 then 0 else fdivN (ofFp32 a.1) (ofFp32 a.2)

/-! Writing (R119, R126, R158). -/
/-- Marked bytes to local store: each word takes its bytes' mark. -/
def lsPut (core : Nat) (c : Core) (a : Nat) (b : List MByte) : Core :=
  (List.range (cdiv (a % 4 + b.length) 4)).foldl (fun c k =>
    let lo := if k = 0 then 0 else 4 * k - a % 4
    let seg := (b.drop lo).take (4 * (k + 1) - a % 4 - lo)
    lsWrite core c (a + lo) (bytesOf seg) (anyPois seg)) c
def setMarks (c : Core) (a n : Nat) : Core := { c with marks := (List.range (cdiv n 16)).foldl (fun l k => sadd l (a / 16 + k)) c.marks }
/-- A tile that leaves stage 4: its place, its core's set base, the launch's mode and seed, whether it is promoted, and the
port that writes it. -/
structure TileOut where
  core : Nat
  base : Nat
  ctx : Nat
  mode : Nat
  seed : Nat
  promoted : Bool
  kind : Nat
  idx : Nat
  /-- Writes go to local store. -/
  loc : Bool
  deriving DecidableEq, Repr
/-- The core's L1 gives up its copy of bytes that its own epilogue has written at their slices: the writes are performed at CORE
scope (R73). -/
def l1Forget (core pa n : Nat) (s : State) : State :=
  let c := coreOf s core
  let gone (l : L1Line) (o : Nat) : Bool := pa ≤ l.addr + o && l.addr + o < pa + n
  setCore s core { c with l1 := c.l1.map (fun l =>
    { l with bytes := l.bytes.filter (fun b => !gone l b.1), dirty := l.dirty.filter (fun o => !gone l o) }) }
def coreSees (s : State) (ctx core va n : Nat) : State :=
  (pieces va n).foldl (fun s x => match translate s ctx x.1 true with
    | .pa a => l1Forget core a x.2 s
    | _ => s) s
/-- One run of bytes; the code is the trap of a failed write, and 5 for poison that leaves the core. -/
def putPiece (t : TileOut) (mark : Bool) (acc : State × Nat) (a : Nat) (b : List MByte) : State × Nat :=
  if b.isEmpty || acc.2 == 4 || acc.2 == 6 then acc
  else if t.loc then
    let c := lsPut t.core (coreOf acc.1 t.core) (t.base + a) b
    (setCore acc.1 t.core (if mark then setMarks c (t.base + a) b.length else c), acc.2)
  else
    let w := vwrite acc.1 t.ctx a b t.kind t.idx
    (coreSees w.1 t.ctx t.core a b.length, if w.2 != 0 then w.2 else if anyPois b then 5 else acc.2)
/-- One row written; answers its blocks. -/
def putRow (t : TileOut) (e : Bytes) (i : Nat) (xs : List MWord) (acc : State × Nat) : (State × Nat) × List Blk :=
  let f := if t.promoted then promo (eOut e) else eOut e
  let room := t.loc && roomOut e t.mode
  let q := lsF32 t.core (coreOf acc.1 t.core) (t.base + eFac e + 1168 + 4 * i)
  let bs := rowBlks f (rowCtl e t.mode t.seed i) (bit (eConv e) 2) q xs
  let r := (elemPieces room bs).foldl (fun a p => putPiece t t.promoted a (eAddr e + i * eStride e + p.1) p.2) acc
  (putPiece t false r (eScAddr e + i * eScStride e) (scaleBytesOf (eOut e) bs), bs)
/-- The second quantisation of a sampled row. -/
def shadowRow (t : TileOut) (e : Bytes) (i : Nat) (xs : List MWord) (bs : List Blk) (a : Word × Word) : Word × Word :=
  (bs.zip (rowBlks (promo (eOut e)) (rowCtl e t.mode t.seed i) (bit (eConv e) 2) (0, false) xs)).foldl (shadowBlk (eOut e)) a
structure TileRes where
  acc : State × Nat
  counts : Counts
  shadow : Word × Word
/-- Stages 5 and 6 over the fed rows; `v` gives stage 4's values. -/
def putTile (t : TileOut) (e : Bytes) (rows : List Nat) (n : Nat) (sampled : Bool) (v : Nat → Nat → MWord) (s : State) : TileRes :=
  rows.foldl (fun r i =>
    let xs := (List.range n).map (v i)
    let w := putRow t e i xs r.acc
    { acc := w.1
      counts := if fourBit (eOut e) || eOut e = 13 then w.2.foldl (fun c b => addCounts c (blkCounts (t.loc && actOut e t.mode) b)) r.counts else r.counts
      shadow := if sampled then shadowRow t e i xs w.2 r.shadow else r.shadow })
    { acc := (s, 0), counts := {}, shadow := (0, 0) }

/-! Top-k (R137, R138). -/
/-- Entry x ranks before entry y. -/
def ranks (x y : Word × Nat) : Bool :=
  let a := ofFp32 x.1
  let b := ofFp32 y.1
  if a = .nan then b = .nan && x.2 < y.2
  else if b = .nan then true
  else if ltN b a then true else if ltN a b then false else x.2 < y.2
def insRank (x : Word × Nat) : List (Word × Nat) → List (Word × Nat)
  | [] => [x]
  | y :: r => if ranks x y then x :: y :: r else y :: insRank x r
def sentinel : Word × Nat := (nanW, 0xFFFFFFFF)
def bestOf (k : Nat) (l : List (Word × Nat)) : List (Word × Nat) :=
  ((l.foldr insRank []) ++ List.replicate k sentinel).take k
/-- A list with the mark that any candidate gives it. -/
abbrev TopList := List (Word × Nat) × Bool
def topRow (e : Bytes) (xs : List MWord) : TopList :=
  (bestOf (eTopk e) (xs.zipIdx.map (fun x => (x.1.1, eColBase e + x.2))), xs.any (·.2))
def topMerge (k : Nat) (a b : TopList) : TopList := (bestOf k (a.1 ++ b.1), a.2 || b.2)
/-- A final list written: values in OUT_FMT, indices as UINT32. -/
def putTop (t : TileOut) (e : Bytes) (i : Nat) (l : TopList) (acc : State × Nat) : State × Nat :=
  let ctl (k : Nat) : Ctl :=
    let idx := (eRowBase e + i) * eTopk e + k
    { rnd := bit (eConv e) 0, ovf := bit (eConv e) 2, r := philox t.seed (idx % 2 ^ 32) (idx / 2 ^ 32 % 2 ^ 32) (eOrd e) 0 }
  let w := if eOut e = 1 then 2 else 4
  let vals := l.1.zipIdx.flatMap (fun x => (le w (convElem (eOut e) (ctl x.2) (ofFp32 x.1.1)).code).map (fun b => (b, l.2)))
  let idxs := l.1.flatMap (fun x => (le 4 x.2).map (fun b => (b, l.2)))
  putPiece t false (putPiece t false acc (eAddr e + i * eStride e) vals) (eScAddr e + i * eScStride e) idxs
/-- A partial list as a record's row holds it. -/
def topBytes (l : TopList) : List MByte := l.1.flatMap (fun x => (le 4 x.1.toNat ++ le 4 x.2).map (fun b => (b, l.2)))
def topOf (k : Nat) (b : List MByte) : TopList :=
  ((List.range k).map (fun i => (BitVec.ofNat 32 (fld (bytesOf b) (8 * i) 4), fld (bytesOf b) (8 * i + 4) 4)), anyPois b)

end Sys2Proof.Machine
end

