-- ==== Sys2Proof/Machine/Matrix.lean ====
section
/-! DEFINITION. The outer-product arrays and the reduction units (R94 to R119, R129 to R136), and the Scruple guard's tally
(R144 to R164). An operation's operands are read, and its products accumulated, within MATRIX_OPERATION_START. -/
namespace Sys2Proof.Machine

/-- What the arrays, the reduction units and the guard may change. -/
def keepMat (s t : State) : State :=
  { s with krn := t.krn, mem := t.mem, hbm := t.hbm, fab := t.fab, evt := t.evt, free := t.free, link := t.link }

/-! Fields of the matrix descriptor (R97). -/
def dA (d : Bytes) : Nat := fld d 0 1
def dW (d : Bytes) : Nat := fld d 1 1
def dSrc (d : Bytes) : Nat := fld d 2 1 % 4
def dBank (d : Bytes) : Nat := fld d 3 1 % 4
def dClear (d : Bytes) : Bool := bit (fld d 3 1) 2
def dDrain (d : Bytes) : Bool := bit (fld d 3 1) 3
def dK (d : Bytes) : Nat := fld d 4 4
def dN (d : Bytes) : Nat := fld d 8 2
def dLayer (d : Bytes) : Nat := fld d 10 2
def dMask (d : Bytes) : Nat := fld d 12 4
def dAaddr (d : Bytes) : Nat := fld d 16 4
def dAstride (d : Bytes) : Nat := fld d 20 4
def dAscale (d : Bytes) : Nat := fld d 24 4
def dWstride (d : Bytes) : Nat := fld d 28 4
def dWaddr (d : Bytes) : Nat := fld d 32 8
def dWscale (d : Bytes) : Nat := fld d 40 8
def dWscStride (d : Bytes) : Nat := fld d 48 4
def dEpi (d : Bytes) : Nat := fld d 52 4
def dTile (d : Bytes) : Nat := fld d 60 4
/-- Both operands are INT8 (R34). -/
def dInt (d : Bytes) : Bool := dA d == 11 && dW d == 11
/-- A 4-bit activation of a launch under PROMOTE is read by its marks in the room layout (R156, R158). -/
def dRoom (d : Bytes) (mode : Nat) : Bool := mode == 2 && fourBit (dA d)
/-- K is a multiple of a scaled operand's block length. -/
def wholeBlks (k f : Nat) : Bool := k % blkLen f == 0

/-! Checks 1 to 6 (R101, R157): the trap code and whether it is a format fault. -/
def mmaBad5 (d : Bytes) (mode : Nat) : Bool :=
  let u := if dSrc d = 0 then 16 else 128
  let aSc := scaleBytes (dA d) (dK d)
  let wSc := scaleBytes (dW d) (dK d)
  dAaddr d % 16 != 0 || dAstride d % 16 != 0 || dAstride d < (if dRoom d mode then dK d else elemBytes (dA d) (dK d)) ||
  (aSc != 0 && dAscale d % 8 != 0) || dWstride d % u != 0 || dWstride d < elemBytes (dW d) (dK d) || dWaddr d % u != 0 ||
  dWscStride d % 8 != 0 || dWscStride d < wSc || (wSc != 0 && dWscale d % 8 != 0) || (dDrain d && dEpi d % 64 != 0)
def mmaBad6 (d : Bytes) (mode len : Nat) : Bool :=
  let rows := rowsOf (dMask d)
  let k := dK d
  (rows.any (fun i => !inLs len (dAaddr d + i * dAstride d) (if dRoom d mode then k else elemBytes (dA d) k) ||
     !inLs len (dAscale d + i * scaleBytes (dA d) k) (scaleBytes (dA d) k))) ||
  (dSrc d = 0 && (List.range (dN d)).any (fun j => !inLs len (dWaddr d + j * dWstride d) (elemBytes (dW d) k) ||
     !inLs len (dWscale d + j * dWscStride d) (scaleBytes (dW d) k))) ||
  (dDrain d && !inLs len (dEpi d) 64)
def mmaCheck (e : Entry) (mode len : Nat) (d : Bytes) : Option (Nat × Bool) :=
  let k := dK d
  if fld d 2 1 ≥ 3 || fld d 3 1 ≥ 16 || fld d 56 4 != 0 then some (0xF, false)
  else if !pairOk (dA d) (dW d) || !bit e.formats (dA d) || !bit e.formats (dW d) then some (0xF, true)
  else if dBank d ≥ e.accBanks then some (1, false)
  else if k = 0 || k > 16777215 || !wholeBlks k (dA d) || !wholeBlks k (dW d) || dN d = 0 || dN d > 256 then some (0xF, false)
  else if mmaBad5 d mode || mmaBad6 d mode len then some (0xF, false) else none

/-! Issue and wait (R72, R100 to R103). -/
def outstanding (g : Grp) : Nat := (g.toks.filter (fun k => !k.done && k.failed = 0)).length
/-- A backward attention operation (R182). -/
def isBack (m : MatOp) : Bool := m.att && fld m.desc 0 1 == 3
/-- The operation is queued or owns the arrays: a backward one to its end, also between its tiles (R165). -/
def inArrays (m : MatOp) : Bool := m.stage < 2 || (isBack m && m.stage != 6)
/-- Entries of the queue. -/
def queued (c : Core) : Nat := (c.mq.filter inArrays).length
/-- What a descriptor in local store comes to: copies of it and of its epilogue descriptor, or a trap. -/
abbrev Issued := (Bytes × Bytes) ⊕ (Nat × Bool)
/-- The descriptor's bytes, or the trap of reading them. -/
def readDesc (core : Nat) (c : Core) (t : GSet) (a n : Nat) : Bytes ⊕ (Nat × Bool) :=
  if a % 64 != 0 then .inr (0xF, false)
  else if a + n > t.lsLen then .inr (3, false)
  else if lsMarked c (t.lsBase + a) n then .inr (5, false)
  else .inl (lsRead core c (t.lsBase + a) n)
/-- One token for the group, in every active thread; the operation joins the core's queue. -/
def pushOp (s : State) (i : Iss) (l : Launch) (t : GSet) (g : Grp) (dst : Nat) (att : Bool) (d e : Bytes) : State :=
  let k := g.nextTok
  let g := { g with nextTok := if k = 0xFFFF then 1 else k + 1, toks := g.toks.filter (fun x => x.t != k) ++ [{ t := k }] }
  let s := setGrp s i.core i.slot (putLanes g dst false ((actives g).map (fun x => (x, k, false))))
  let c := coreOf s i.core
  setCore s i.core { c with mq := c.mq ++ [{ launch := l.op, slot := i.slot, tok := k, set := t.idx, desc := d, epi := e, att }] }
def issueMat (i : Iss) (dst r : Nat) (att : Bool) (f : State → Launch → GSet → Nat → Issued) (s : State) : State :=
  issue s i [dst, r] (fun l t g =>
    let act := actives g
    if act.any (fun x => regPois g x r) then .trap s 5
    else match distinct (act.map (fun x => (regVal i.core g x r).toNat)) with
      | [a] =>
        if outstanding g ≥ 8 || queued (coreOf s i.core) ≥ 16 then .wait
        else match f s l t a with
          | .inr x => .trap s x.1 0 x.2
          | .inl x => .next (pushOp s i l t g dst att x.1 x.2)
      | _ => .trap s 7)
/-- MMA.ISSUE: checks 1 to 6, then the epilogue descriptor's. -/
def mmaDesc (core : Nat) (s : State) (l : Launch) (t : GSet) (a : Nat) : Issued :=
  let c := coreOf s core
  match readDesc core c t a 64 with
  | .inr x => .inr x
  | .inl d =>
    match mmaCheck l.entry l.policy.mode t.lsLen d with
    | some x => .inr x
    | none =>
      if !dDrain d then .inl (d, [])
      else match readDesc core c t (dEpi d) 64 with
        | .inr x => .inr x
        | .inl e =>
          match epiCheck l.entry.formats l.policy.mode t.lsLen (partMask s l.part) (dInt d) (dN d) (dMask d) e with
          | some b => .inr (0xF, b)
          | none => .inl (d, e)
def execMmaIssue (at_ : Iss) (dst addr : Nat) (s : State) : Host.Outcome State Fault Refusal :=
  .next (keepKrn s (issueMat at_ dst addr false (mmaDesc at_.core) s))
/-- MMA.WAIT on the token of the lowest active thread: it returns, raises the failed operation's trap again, or waits. -/
def mmaWait (i : Iss) (r : Nat) (s : State) : State :=
  issue s i [r] (fun _ _ g =>
    let k := (regVal i.core g ((actives g).headD 0) r).toNat % 65536
    match g.toks.find? (fun x => x.t == k) with
    | none => .trap s 8
    | some x =>
      if x.failed != 0 then .trap s x.failed
      else if x.done then .next (setGrp s i.core i.slot { g with spin := false }) else .wait)
def execMmaWait (at_ : Iss) (token : Nat) (s : State) : Host.Outcome State Fault Refusal := .next (keepKrn s (mmaWait at_ token s))

/-! Operands (R98, R105, R108, R118, R144, R158). -/
/-- K-steps that a cell takes in one cycle, 1 for the quarter rate (R95, R96). -/
def rateOf (a w : Nat) : Nat :=
  let n (b : Nat) : Nat := if b ≥ 16 then 1 else if b ≥ 6 then 2 else 4
  if w = 13 then (if (fmD a).bits = 4 then 8 else 4) else n (Nat.max (fmD a).bits (fmD w).bits)
/-- The steps of the cycles of a run of K. -/
def kGroups (s k : Nat) : List Nat := List.replicate (k / s) s ++ (if k % s = 0 then [] else [k % s])
structure ARow where
  vals : List Num
  p : Bool
  /-- Promoted blocks of the room layout. -/
  prom : List Bool
  deriving DecidableEq, Repr
/-- One block of the room layout, by the mark of its slot's first granule. -/
def roomBlk (core : Nat) (c : Core) (base : Nat) (d : Bytes) (i m : Nat) : List Num × Bool × Bool :=
  let a := base + dAaddr d + i * dAstride d + 32 * m
  let w := sclBytes (dA d)
  let sa := base + dAscale d + i * scaleBytes (dA d) (dK d) + w * m
  let prom := c.marks.contains (a / 16)
  let n := if prom then 32 else 16
  let f := if prom then promo (dA d) else dA d
  let sb := lsRead core c sa (if prom then 1 else w)
  ((List.range 32).map (valAt f (lsRead core c a n) sb), lsMarked c a n || lsMarked c sa sb.length, prom)
def actRow (core : Nat) (c : Core) (base mode : Nat) (d : Bytes) (i : Nat) : ARow :=
  if dRoom d mode then
    let bs := (List.range (dK d / 32)).map (roomBlk core c base d i)
    { vals := bs.flatMap (·.1), p := bs.any (·.2.1), prom := bs.map (·.2.2) }
  else
    let n := elemBytes (dA d) (dK d)
    let m := scaleBytes (dA d) (dK d)
    let a := base + dAaddr d + i * dAstride d
    let sa := base + dAscale d + i * m
    { vals := (List.range (dK d)).map (valAt (dA d) (lsRead core c a n) (lsRead core c sa m)), p := lsMarked c a n || lsMarked c sa m, prom := [] }
/-- Bytes that a weight feeder reads, or the trap of the failure. DESIGN CHOICE: a W_SRC 0b10 line in a Plot window is read as usual
(log entry 79). -/
def feed (s : State) (core base ctx src a n : Nat) : List MByte ⊕ Nat :=
  let c := coreOf s core
  if n = 0 then .inl []
  else if src = 0 then
    let x := base + a
    if c.marks.any (fun m => 16 * m < x + n && x < 16 * m + 16) then .inr 0xF
    else .inl ((List.range n).map (fun k => (lsByte core c (x + k), lsMarked c (x + k) 1)))
  else
    let stray := (pieces a n).findSome? (fun x => match translate s ctx x.1 false with
      | .pa p => if src = 1 && !inPlot p then some 0xF else none
      | .fault => some 4
      | .foreign _ => some 6
      | _ => some (if src = 1 then 0xF else 6))
    match stray with
    | some k => .inr k
    | none => match vpeek s ctx a n (core / 64) with
      | .ok b => .inl b
      | .fault => .inr 4
      | .bus => .inr 6
structure WCol where
  vals : List Num
  p : Bool
  faults : Nat
  deriving DecidableEq, Repr
def nonFiniteScale (f : Nat) (sc : Bytes) (m : Nat) : Bool :=
  match (fmD f).sc with
  | .e8m0 => fld sc m 1 == 255
  | .bf16 => !(decodeF fbf16 (fld sc (2 * m) 2)).isFin
  | .fp16 => !(decodeF ffp16 (fld sc (2 * m) 2)).isFin
  | _ => false
/-- Weight faults of the clean blocks of a column (R44, R146). -/
def colFaults (f : Nat) (el sc : List MByte) (k : Nat) : Nat :=
  if blkLen f = 1 then 0
  else suml ((List.range (cdiv k (blkLen f))).map (fun m =>
    let b := (el.drop (blkBytes f * m)).take (blkBytes f)
    let q := (sc.drop (sclBytes f * m)).take (sclBytes f)
    if anyPois b || anyPois q then 0
    else (if f = 13 then t64Faults (bytesOf b) else 0) + b2n (nonFiniteScale f (bytesOf sc) m)))
def wgtCol (s : State) (core base ctx : Nat) (d : Bytes) (j : Nat) : WCol ⊕ Nat :=
  let f := dW d
  let k := dK d
  match feed s core base ctx (dSrc d) (dWaddr d + j * dWstride d) (elemBytes f k),
        feed s core base ctx (dSrc d) (dWscale d + j * dWscStride d) (scaleBytes f k) with
  | .inr x, _ => .inr x
  | _, .inr x => .inr x
  | .inl el, .inl sc =>
    .inl { vals := (List.range k).map (valAt f (bytesOf el) (bytesOf sc)), p := anyPois el || anyPois sc, faults := colFaults f el sc k }
/-- A feeder's read counted and noted at its slices; a Plot in another Tent is streamed in class BULK (R108). -/
def noteFeed (s : State) (core ctx a n : Nat) : State :=
  let away := (pieces a n).any (fun x => match translate s ctx x.1 false with
    | .pa p => inPlot p && plotTent p != core / 64
    | _ => false)
  vnote (latFree s 1 core (if away then 2 else 1) n) ctx a n 1 core
/-- The columns in ascending order up to the first that fails, each read noted. -/
def readCols (s : State) (core base ctx : Nat) (d : Bytes) : State × (List WCol ⊕ Nat) :=
  (List.range (dN d)).foldl (fun acc j =>
    match acc.2 with
    | .inr _ => acc
    | .inl l =>
      let s := if dSrc d = 0 then acc.1 else
        let n := scaleBytes (dW d) (dK d)
        let t := noteFeed acc.1 core ctx (dWaddr d + j * dWstride d) (elemBytes (dW d) (dK d))
        if n = 0 then t else noteFeed t core ctx (dWscale d + j * dWscStride d) n
      match wgtCol acc.1 core base ctx d j with
      | .inl w => (s, .inl (l ++ [w]))
      | .inr x => (s, .inr x)) (s, .inl [])

/-! Accumulation (R46, R47, R99, R111, R112, R114). -/
def intOf : Num → Int
  | .fin n m e => let k : Int := (m * up e : Nat); if n then -k else k
  | _ => 0
/-- One cycle: the products added exactly to the accumulator and rounded once, or an exact saturating integer sum. -/
def accStep (int : Bool) (a : Word) (ps : List Num) : Word :=
  if int then iadd a (ps.foldl (fun t p => t + intOf p) 0) else toFp32 (sumN (ofFp32 a :: ps))
def accRun (int : Bool) : List Nat → Word → List Num → Word
  | [], a, _ => a
  | g :: gs, a, ps => accRun int gs (accStep int a (ps.take g)) (ps.drop g)
def dotRun (int : Bool) (gs : List Nat) (a : Word) (x y : List Num) : Word := accRun int gs a (List.zipWith mulN x y)
def bankAcc (b : Bank) (i j : Nat) : Acc := (tfind b.acc (256 * i + j)).getD { v := 0, pois := b.allPois }
def setFor (c : Core) (m : MatOp) : Option GSet := c.sets.find? (isSet m.launch m.set)
def baseOf (c : Core) (m : MatOp) : Nat := (setFor c m).elim 0 (·.lsBase)
/-- The physical bank of a set's bank index. -/
def physBank (c : Core) (m : MatOp) (k : Nat) : Nat := ((setFor c m).bind (fun t => t.banks[k]?)).getD 0
def bankOf (c : Core) (m : MatOp) (k : Nat) : Bank := tget c.banks {} (physBank c m k)
def setBank (s : State) (core : Nat) (m : MatOp) (k : Nat) (b : Bank) : State :=
  let c := coreOf s core
  setCore s core { c with banks := tset c.banks (physBank c m k) b }
/-- A bank that a drain still holds. -/
def drainHolds (c : Core) (m : MatOp) (k : Nat) : Bool :=
  c.mq.any (fun x => x.stage == 2 && physBank c x (dBank x.desc) == physBank c m k)
/-- The head of the queue: the operation in the arrays, or the next to enter them. -/
def headOp (c : Core) : Option MatOp := c.mq.find? inArrays
/-- The cycles' K-steps: where any fed row's block is promoted, the promoted pair's rate holds for the block (R159). -/
def opGroups (d : Bytes) (mode : Nat) (rows : List ARow) : List Nat :=
  if dRoom d mode then
    (List.range (dK d / 32)).flatMap (fun m =>
      kGroups (rateOf (if rows.any (fun r => r.prom.getD m false) then promo (dA d) else dA d) (dW d)) 32)
  else kGroups (rateOf (dA d) (dW d)) (dK d)
def accAll (d : Bytes) (gs : List Nat) (rows : List (Nat × ARow)) (cols : List WCol) (b : Bank) : Bank :=
  let acc := rows.foldl (fun t r => (cols.zipIdx).foldl (fun t c =>
    let a := if dClear d then { v := 0 } else bankAcc b r.1 c.2
    tset t (256 * r.1 + c.2) { v := dotRun (dInt d) gs a.v r.2.vals c.1.vals, pois := a.pois || r.2.p || c.1.p }) t) b.acc
  { b with acc, int := if rows.isEmpty then b.int else dInt d }
/-- A failed operation's bank (R117). DESIGN CHOICE: it keeps its type tag and its values (log entry 79). -/
def poisonBank (b : Bank) : Bank := { b with allPois := true, acc := b.acc.map (fun x => (x.1, { x.2 with pois := true })) }
/-- Counts to the launch's tally; under OFF none is kept. -/
def tallyPush (s : State) (op : Nat) (c : Counts) : State :=
  updLaunch s op (fun l => if l.policy.mode = 0 then l else { l with guard := { l.guard with queue := l.guard.queue ++ [c] } })
/-- The core has received the launch's promotion, and the operation did not stand at the head then (R154). -/
def isPromoted (l : Launch) (core : Nat) (m : MatOp) : Bool := l.guard.st == 3 && l.guard.got.contains core && !m.asIssued
/-- R150: the tile is sampled. -/
def sampleTile (l : Launch) (e : Bytes) (promoted : Bool) : Bool :=
  let k := l.policy.sampleShift
  !promoted && l.policy.mode != 0 && k != 0 && fourBit (eOut e) && eDest' e < 2 &&
  philox l.seed (eRowBase e) (eColBase e) (eOrd e) 1 % 2 ^ k == 0
/-- The head waits: for a bank in the drain (bit 0), for its rail's arbiter (bit 1). -/
def headWaits (s : State) (core : Nat) (m : MatOp) (why : Nat) : State := updMat s core m (fun m => { m with met := m.met ||| why })
/-- Cycles frozen by each cause are timing, which the model leaves free where R115's conditions let the cause hold: ACT with
a fed row or an arbiter's hold (R407), the second array's causes with columns of its own, DRN where a bank was in the drain.
TOTAL is at least the largest and at most their sum. -/
def frzDraw (s : State) (core : Nat) (act two drn : Bool) : State :=
  let on (k : Nat) : Bool := match k with
    | 0 => act
    | 1 => true
    | 2 => two
    | 3 => drn
    | _ => two && drn
  let v (k : Nat) : Nat := if on k then (Config.freeValue (s.free + k)).toNat else 0
  let fs := (List.range 5).map v
  let tot := maxl fs + (Config.freeValue (s.free + 5)).toNat % (suml fs - maxl fs + 1)
  let c := coreOf s core
  let frz := (tot :: fs).zipIdx.foldl (fun t x => tupd t 0 x.2 (fun o => (o + x.1) % 2 ^ 64)) c.frz
  setCore { s with free := s.free + 6 } core { c with frz }
def mmaFreeze (s : State) (core : Nat) (m : MatOp) : State :=
  frzDraw s core (dMask m.desc != 0 || bit m.met 1) (dN m.desc > 128) (bit m.met 0)
def mmaStart (core : Nat) (s : State) : State :=
  let c := coreOf s core
  match headOp c with
  | none => s
  | some m =>
    match launchOf s m.launch with
    | none => s
    | some l =>
      let d := m.desc
      if m.att || m.stage != 0 then s
      else if s.pwr.hold.contains (core / 8) then headWaits s core m 2
      else if drainHolds c m (dBank d) then headWaits s core m 1
      else if (bankOf c m (dBank d)).int != dInt d && !dClear d then matFail s core m 0xF
      else
        let promoted := isPromoted l core m
        let s := if promoted then updLaunch s l.op (fun l => { l with guard := { l.guard with ran := true } }) else s
        let m' := { m with stage := 1, promoted, sampled := dDrain d && sampleTile l m.epi promoted }
        let rows := (rowsOf (dMask d)).map (fun i => (i, actRow core c (baseOf c m) l.policy.mode d i))
        let r := readCols s core (baseOf c m) l.ctx d
        match r.2 with
        | .inr k => matFail (mmaFreeze (setBank r.1 core m (dBank d) (poisonBank (bankOf c m (dBank d)))) core m) core m k
        | .inl cols =>
          let w := suml (cols.map (·.faults))
          let u := setBank r.1 core m (dBank d) (accAll d (opGroups d l.policy.mode (rows.map (·.2))) rows cols (bankOf c m (dBank d)))
          let u := if w = 0 then u else tallyPush u l.op { weight := w, layer := dLayer d, tile := dTile d }
          updMat u core m (fun _ => m')
def execMatrixOperationStart (core : Nat) (s : State) : Host.Outcome State Fault Refusal := .next (keepMat s (mmaStart core s))

/-! The end of the stream, and freezes (R104, R113, R115, R116). -/
def mmaEnd (core : Nat) (s : State) : State :=
  let c := coreOf s core
  match headOp c with
  | none => s
  | some m =>
    if m.att || m.stage != 1 then s
    else if !dDrain m.desc then matDone (mmaFreeze s core m) core m
    else if (c.mq.filter (fun x => x.stage == 2)).length ≥ 2 then headWaits s core m 1
    else updMat (mmaFreeze s core m) core m (fun m => { m with stage := 2 })
def execMatrixOperationEnd (core : Nat) (s : State) : Host.Outcome State Fault Refusal := .next (keepMat s (mmaEnd core s))

/-! Drains (R113, R119 to R128, R129, R138). -/
/-- A write that must stay in memory of the device: host memory and register space are a bus error (R129). -/
def devPut (s : State) (ctx va : Nat) (b : List MByte) (kind idx : Nat) : State × Nat :=
  if (pieces va b.length).any (fun x => match translate s ctx x.1 true with
      | .host _ => true
      | _ => false) then (s, 6)
  else
    let w := vwrite s ctx va b kind idx
    (if kind = 0 then coreSees w.1 ctx idx va b.length else w.1, w.2)
/-- The operation fails where a write of its own meets a translation fault or a bus error: its bank is marked (R117, R129). -/
def writeFail (s : State) (core : Nat) (m : MatOp) (code : Nat) : State :=
  let s := if code == 4 || code == 6 then setBank s core m (dBank m.desc) (poisonBank (bankOf (coreOf s core) m (dBank m.desc))) else s
  matFail s core m code
def matEnd (s : State) (core : Nat) (m : MatOp) (code : Nat) : State := if code = 0 then matDone s core m else writeFail s core m code
/-- The rows of a record, `w` bytes apart. -/
def putRecord (s : State) (ctx a w core : Nat) (rows : List Nat) (v : Nat → List MByte) : State × Nat :=
  rows.foldl (fun acc i => if acc.2 != 0 then acc else devPut acc.1 ctx (a + w * i) (v i) 0 core) (s, 0)
def wordBytes (x : MWord) : List MByte := (le 4 x.1.toNat).map (fun b => (b, x.2))
/-- A tile's counts with its shadow. -/
def tileCounts (l : Launch) (d e : Bytes) (sampled : Bool) (r : TileRes) : Counts :=
  let exc := sampled && overThreshold l.policy.shadowShift r.shadow
  { r.counts with shadow := b2n sampled, shadowOver := b2n exc, fires := exc && eDest e == 0
                  err := if sampled then some (shadowErr r.shadow) else none, layer := dLayer d, tile := dTile d }
def drainOp (s : State) (core : Nat) (l : Launch) (m : MatOp) : State :=
  let c := coreOf s core
  let d := m.desc
  let e := m.epi
  let base := baseOf c m
  let n := dN d
  let rows := rowsOf (dMask d)
  let b := bankOf c m (dBank d)
  let raw (i j : Nat) : MWord := let a := bankAcc b i j; (a.v, a.pois)
  let v (i j : Nat) : MWord := stages core c base e (dInt d) i j (raw i j)
  let t : TileOut := { core, base, ctx := l.ctx, mode := l.policy.mode, seed := l.seed
                       promoted := m.promoted && roomOut e l.policy.mode, kind := 0, idx := core, loc := eDest e == 0 }
  let top (i : Nat) : TopList := topRow e ((List.range n).map (v i))
  let rec_ := eScratch e + 32768 * eSplit e
  let arrive (r : State × Nat) : State := if r.2 != 0 then writeFail r.1 core m r.2 else updMat r.1 core m (fun m => { m with stage := 3 })
  match eDest' e with
  | 0 | 1 =>
    let r := putTile t e rows n m.sampled v s
    let u := if fourBit (eOut e) || eOut e = 13 then tallyPush r.acc.1 l.op (tileCounts l d e m.sampled r) else r.acc.1
    matEnd u core m r.acc.2
  | 2 => arrive (putRecord s l.ctx rec_ 1024 core rows (fun i => ((List.range n).map (raw i)).flatMap wordBytes))
  | _ =>
    if eCount e = 1 then
      let r := rows.foldl (fun a i => putTop t e i (top i) a) (s, 0)
      matEnd r.1 core m r.2
    else arrive (putRecord s l.ctx rec_ 512 core rows (fun i => topBytes (top i)))
/-- The queue of the reduction unit that a request waits for is full: the drain is held (R132). -/
def combHeld (s : State) (c : Core) : Bool := c.mq.any (fun m => m.stage == 4 && (tget s.krn.combq [] (eHome m.epi)).length ≥ 32)
def bankDrain (core : Nat) (s : State) : State :=
  let c := coreOf s core
  match c.mq.find? (fun m => m.stage == 2) with
  | none => s
  | some m =>
    match launchOf s m.launch with
    | none => s
    | some l => if combHeld s c then s else drainOp s core l m
def execBankDrain (core : Nat) (s : State) : Host.Outcome State Fault Refusal := .next (keepMat s (bankDrain core s))

/-! Split arrivals and combines (R129 to R136). -/
/-- A backward operation's descriptors for its present tile: the template advanced, and N and ROW_MASK of its dQ (R184). -/
def backRows (d : Bytes) : Nat := fld d 3 1 * fld d 4 1
def headDim (d : Bytes) : Nat := 64 * 2 ^ (fld d 2 1)
def tileEpi (m : MatOp) : Bytes :=
  if !isBack m then m.epi
  else
    let e := m.epi
    let r := backRows m.desc
    let e := putAt e 56 (le 2 (fld m.desc 174 2))
    let e := putAt e 24 (le 8 (eScratch e + m.tile * fld m.desc 176 4))
    let e := putAt e 48 (le 4 (eRowBase e + m.tile * r))
    putAt e 8 (le 8 (eAddr e + m.tile * r * eStride e))
def tileDesc (m : MatOp) : Bytes :=
  if !isBack m then m.desc
  else putAt (putAt (zeros 64) 8 (le 2 (headDim m.desc))) 12 (le 4 (2 ^ backRows m.desc - 1))
/-- The operation behind a request. -/
def combOp (s : State) (q : Combine) : Option MatOp :=
  (coreOf s q.core).mq.find? (fun m => m.launch == q.launch && m.set == q.set && m.slot == q.slot && m.tok == q.tok)
/-- An operation goes on after a tile's arrival: a backward one to its next tile. -/
def afterArrival (s : State) (core : Nat) (m : MatOp) (asked : Bool) : State :=
  if isBack m then updMat s core m (fun m => { m with stage := 1, tile := m.tile + 1 })
  else if asked then updMat s core m (fun m => { m with stage := 5 }) else matDone s core m
/-- A backward operation's bank byte names no bank of its own: its failure marks the four (R117, R182). -/
def arriveFail (s : State) (core : Nat) (m : MatOp) (code : Nat) : State :=
  if isBack m then matFail ((List.range 4).foldl (fun s k => setBank s core m k (poisonBank (bankOf (coreOf s core) m k))) s) core m code
  else writeFail s core m code
/-- The atomic add on ARRIVED at the job word. A launch that has ended makes no further arrival (R136). -/
def splitArrive (core : Nat) (s : State) : State :=
  match (coreOf s core).mq.find? (fun m => m.stage == 3) with
  | none => s
  | some m =>
    match launchOf s m.launch with
    | none => s
    | some l =>
      let e := tileEpi m
      let a := jobWord e
      let s := vnote s l.ctx a 8 0 core
      if l.ended then afterArrival s core m false
      else match vpeek s l.ctx a 8 (core / 64) with
      | .fault => arriveFail s core m 4
      | .bus => arriveFail s core m 6
      | .ok b =>
        let n := fld (bytesOf b) 0 4
        if n ≥ eCount e then matFail s core m 0xF
        else
          let w := devPut s l.ctx a (plainBytes (le 4 (n + 1))) 0 core
          if w.2 != 0 then arriveFail w.1 core m w.2
          else if n + 1 = eCount e then updMat w.1 core m (fun m => { m with stage := 4 })
          else afterArrival w.1 core m false
def execSplitArrival (core : Nat) (s : State) : Host.Outcome State Fault Refusal := .next (keepMat s (splitArrive core s))
/-- A combine request reaches its reduction unit: returned when its epoch is stale or the cluster retired or shut down (R132,
R237), held while the queue is full; the rotating
pointer moves past its core (R132, R273). -/
def combineAsk (core epoch : Nat) (s : State) : State :=
  match (coreOf s core).mq.find? (fun m => m.stage == 4) with
  | none => s
  | some m =>
    match launchOf s m.launch with
    | none => s
    | some l =>
      let e := tileEpi m
      let k := eHome e
      if epoch != epochOf s (512 + k) || s.fab.cut.contains k || s.pwr.railOff.contains k then matFail (staleReturn s (512 + k) l.part) core m 6
      else if (tget s.krn.combq [] k).length ≥ 32 || (tget s.fab.epoch {} (512 + k)).wait != 0 then s
      else
        let q : Combine := { core, slot := m.slot, tok := m.tok, launch := m.launch, set := m.set, part := l.part, ctx := l.ctx
                             desc := tileDesc m, epi := e, int := !m.att && dInt m.desc, promoted := m.promoted }
        let s := { s with krn := { s.krn with combq := tupd s.krn.combq [] k (· ++ [q]), combPtr := tset s.krn.combPtr k ((core + 1) % 512) } }
        afterArrival s core m true
def execCombineRequest (core epoch : Nat) (s : State) : Host.Outcome State Fault Refusal := .next (keepMat s (combineAsk core epoch s))
/-- Row i of every record, each read noted at its slices, or the trap of the first that fails. -/
def recordRow (s : State) (q : Combine) (unit w n i : Nat) : State × (List (List MByte) ⊕ Nat) :=
  (List.range (eCount q.epi)).foldl (fun acc k =>
    match acc.2 with
    | .inr _ => acc
    | .inl l =>
      let a := eScratch q.epi + 32768 * k + w * i
      let s := vnote acc.1 q.ctx a n 6 unit
      match vpeek acc.1 q.ctx a n (unit / 8) with
      | .ok b => (s, .inl (l ++ [b]))
      | .fault => (s, .inr 4)
      | .bus => (s, .inr 6)) (s, .inl [])
def wordsOf (b : List MByte) (n : Nat) : List MWord :=
  (List.range n).map (fun j => let x := (b.drop (4 * j)).take 4; (BitVec.ofNat 32 (unle (bytesOf x)), anyPois x))
/-- One element over the records in the tree of R133. -/
def combineAt (q : Combine) (l : List MWord) : MWord :=
  (if q.int then sumInt (l.map (·.1)) else sumFp (ePlain q.epi) (l.map (·.1)), l.any (·.2))
/-- A row combined and written. DESIGN CHOICE: a record that cannot be read fails the token as an output that cannot be written does
(R135; log entry 79). -/
def combineRow (t : TileOut) (q : Combine) (n i : Nat) (acc : (State × Nat) × Counts) : (State × Nat) × Counts :=
  if acc.1.2 == 4 || acc.1.2 == 6 then acc
  else
    let top := eDest q.epi == 3
    let len := if top then 8 * eTopk q.epi else 4 * n
    let w := if top then 512 else 1024
    let r := recordRow acc.1.1 q t.idx w len i
    let s := r.1
    match r.2 with
    | .inr k => ((s, k), acc.2)
    | .inl l =>
      if top then
        (putTop t q.epi i (tree (topMerge (eTopk q.epi)) ([], false) (l.map (topOf (eTopk q.epi)))) (s, acc.1.2), acc.2)
      else
        let rs := l.map (wordsOf · n)
        let c := coreOf s q.core
        let xs := (List.range n).map (fun j => stages q.core c t.base q.epi q.int i j (combineAt q (rs.map (·.getD j (0, false)))))
        let r := putRow t q.epi i xs (s, acc.1.2)
        (r.1, if fourBit (eOut q.epi) || eOut q.epi = 13 then r.2.foldl (fun c b => addCounts c (blkCounts false b)) acc.2 else acc.2)
/-- The job word after a combine: ARRIVED 0 and the next EPOCH. -/
def jobDone (s : State) (q : Combine) (k : Nat) : State × Nat :=
  let a := jobWord q.epi
  let u := vnote s q.ctx a 8 6 k
  match vpeek s q.ctx a 8 (k / 8) with
  | .fault => (u, 4)
  | .bus => (u, 6)
  | .ok b => devPut u q.ctx a (plainBytes (le 4 0 ++ le 4 (fld (bytesOf b) 4 4 + 1))) 6 k
def combineRun (s : State) (q : Combine) (k : Nat) : State :=
  let c := coreOf s q.core
  let m := combOp s q
  let l := launchOf s q.launch
  let t : TileOut := { core := q.core, base := m.elim 0 (baseOf c), ctx := q.ctx, mode := l.elim 0 (·.policy.mode), seed := l.elim 0 (·.seed)
                       promoted := false, kind := 6, idx := k, loc := false }
  let n := dN q.desc
  let s := latFree s 6 k 1 (4 * eCount q.epi * n * (rowsOf (dMask q.desc)).length)
  let r := (rowsOf (dMask q.desc)).foldl (fun a i => combineRow t q n i a) ((s, 0), {})
  let s := if fourBit (eOut q.epi) || eOut q.epi = 13 then tallyPush r.1.1 q.launch { r.2 with layer := dLayer q.desc, tile := dTile q.desc } else r.1.1
  let code := r.1.2
  let w := if code == 4 || code == 6 then (s, code) else let j := jobDone s q k; (j.1, if j.2 != 0 then j.2 else code)
  match m with
  | none => w.1
  | some m => if w.2 != 0 then matFail w.1 q.core m w.2 else if isBack m then w.1 else matDone w.1 q.core m
/-- The oldest request of a reduction unit. -/
def combine (k : Nat) (s : State) : State :=
  match tget s.krn.combq [] k with
  | [] => s
  | q :: rest => combineRun { s with krn := { s.krn with combq := if rest.isEmpty then tdel s.krn.combq k else tset s.krn.combq k rest } } q k
def execCombine (cluster : Nat) (s : State) : Host.Outcome State Fault Refusal := .next (keepMat s (combine cluster s))

/-! The guard's tally (R146, R151 to R154, R161, R164). -/
/-- The tally after one tile's counts, every counter saturating. -/
def tallyAdd (a b : Counts) : Counts :=
  { a with actElems := sat 64 (a.actElems + b.actElems), actClip := sat 32 (a.actClip + b.actClip), actFlush := sat 32 (a.actFlush + b.actFlush)
           othClip := sat 32 (a.othClip + b.othClip), othFlush := sat 32 (a.othFlush + b.othFlush)
           nonfinite := sat 16 (a.nonfinite + b.nonfinite), weight := sat 32 (a.weight + b.weight)
           shadow := sat 16 (a.shadow + b.shadow), shadowOver := sat 16 (a.shadowOver + b.shadowOver) }
def tallySat (a b : Counts) : Bool :=
  a.actElems + b.actElems ≥ 2 ^ 64 || a.actClip + b.actClip ≥ 2 ^ 32 || a.actFlush + b.actFlush ≥ 2 ^ 32 ||
  a.othClip + b.othClip ≥ 2 ^ 32 || a.othFlush + b.othFlush ≥ 2 ^ 32 || a.nonfinite + b.nonfinite ≥ 2 ^ 16 ||
  a.weight + b.weight ≥ 2 ^ 32 || a.shadow + b.shadow ≥ 2 ^ 16 || a.shadowOver + b.shadowOver ≥ 2 ^ 16
def lowerTag (l t l' t' : Nat) : Bool := l < l' || (l == l' && t < t')
/-- The worst shadow error: the largest, then the lower tags; a NaN takes no part. -/
def worseShadow (w : Option (Word × Nat × Nat)) (c : Counts) : Option (Word × Nat × Nat) :=
  match c.err with
  | none => w
  | some e =>
    if ofFp32 e = .nan then w
    else match w with
      | none => some (e, c.layer, c.tile)
      | some (x, l, t) =>
        if ltI (ofFp32 x) (ofFp32 e) || (eqI (ofFp32 x) (ofFp32 e) && lowerTag c.layer c.tile l t) then some (e, c.layer, c.tile) else w
def worseWeight (w : Option (Nat × Nat × Nat)) (c : Counts) : Option (Nat × Nat × Nat) :=
  if c.weight = 0 then w
  else match w with
    | none => some (c.weight, c.layer, c.tile)
    | some (x, l, t) => if x < c.weight || (x == c.weight && lowerTag c.layer c.tile l t) then some (c.weight, c.layer, c.tile) else w
/-- The clip trigger in exact integer arithmetic (R152). -/
def clipFires (p : Policy) (c : Counts) : Bool :=
  p.clipShift != 0 && decide (c.actElems ≥ 2 ^ p.minShift) && decide (c.actClip * 2 ^ p.clipShift > c.actElems)
/-- The guard after one update; `age` is the number of ticks since admission. -/
def guardStep (p : Policy) (g : Guard) (c : Counts) (age : Nat) : Guard :=
  let t := tallyAdd g.c c
  let clip := clipFires p t
  let first := (clip || c.fires) && g.st == 1
  { g with c := t, saturated := g.saturated || tallySat g.c c, clipTrig := g.clipTrig || clip, shadTrig := g.shadTrig || c.fires
           ticks := if first then some (Nat.min age 0xFFFFFFFE) else g.ticks
           st := if first then (if p.mode = 2 then 3 else 2) else g.st
           worst := worseShadow g.worst c, worstW := worseWeight g.worstW c, weightPosted := g.weightPosted || c.weight != 0 }
def tallyUpdate (op : Nat) (s : State) : State :=
  match launchOf s op with
  | none => s
  | some l =>
    match l.guard.queue with
    | [] => s
    | c :: rest =>
      let age := s.tick - l.start
      let g := guardStep l.policy { l.guard with queue := rest } c age
      let post (s : State) (on : Bool) (code sev : Nat) : State :=
        if on then detect s code sev l.part 0xFFFFFFFF 0 (guardDetail l c.layer c.tile) (launchRing s op) else s
      let u := updLaunch s op (fun l => { l with guard := g })
      let u := post u (l.guard.st == 1 && g.st == 3) 0x801 0
      let u := post u (l.guard.st == 1 && g.st == 2) 0x802 0
      post u (!l.guard.weightPosted && g.weightPosted) 0x803 2
def execTallyUpdate (op : Nat) (s : State) : Host.Outcome State Fault Refusal := .next (keepMat s (tallyUpdate op s))
/-- A core of a promoted launch receives the promotion; the operation at the head of its queue runs as issued (R154). -/
def promotionReceipt (op core : Nat) (s : State) : State :=
  match launchOf s op with
  | none => s
  | some l =>
    if l.guard.st = 3 && l.cores.contains core then
      let s := match headOp (coreOf s core) with
        | some m => if m.launch = op && !l.guard.got.contains core then updMat s core m (fun m => { m with asIssued := true }) else s
        | none => s
      updLaunch s op (fun l => { l with guard := { l.guard with got := sadd l.guard.got core } }) else s
def execPromotionReceipt (op core : Nat) (s : State) : Host.Outcome State Fault Refusal := .next (keepMat s (promotionReceipt op core s))

end Sys2Proof.Machine
end

