-- ==== Sys2Proof/Machine/Attention.lean ====
section
/-! DEFINITION. ATT.ISSUE and its three operations: the length sorter (R139 to R142), forward attention (R165 to R181, R186 to
R188) and backward attention (R182 to R185). -/
namespace Sys2Proof.Machine

/-! Fields of the attention descriptor (R166). -/
def aFmt (d : Bytes) : Nat := fld d 1 1
def aGqa (d : Bytes) : Nat := fld d 3 1
def aTok (d : Bytes) : Nat := fld d 4 1
def aMask (d : Bytes) : Nat := fld d 5 1
def aRope (d : Bytes) : Nat := fld d 6 1
def aIo (d : Bytes) : Nat := fld d 7 1
def aBatch (d : Bytes) : Bool := bit (fld d 8 1) 0
def aMode (d : Bytes) : Nat := bits (fld d 8 1) 1 2
def aBuckets (d : Bytes) : Nat := fld d 9 1
def aBank (d : Bytes) : Nat := fld d 10 1
def aSeqs (d : Bytes) : Nat := fld d 12 2
def aShare (d : Bytes) : Nat := fld d 14 2
def aShares (d : Bytes) : Nat := fld d 16 2
def aWindow (d : Bytes) : Nat := fld d 20 4
def aPrefix (d : Bytes) : Nat := fld d 24 4
def aScale (d : Bytes) : Nat := fld d 28 4
def aVfac (d : Bytes) : Nat := fld d 32 4
def aRopeBase (d : Bytes) : Nat := fld d 36 4
def aRopeFac (d : Bytes) : Nat := fld d 40 4
def aBlkStride (d : Bytes) : Nat := fld d 44 4
def aKvBase (d : Bytes) : Nat := fld d 48 8
def aKvLen (d : Bytes) : Nat := fld d 56 4
def aQpos (d : Bytes) : Nat := fld d 60 4
def aQaddr (d : Bytes) : Nat := fld d 64 4
def aQstride (d : Bytes) : Nat := fld d 68 4
def aOut (d : Bytes) : Nat := fld d 72 4
def aOutStride (d : Bytes) : Nat := fld d 76 4
def aLse (d : Bytes) : Nat := fld d 80 4
def aFlag (d : Bytes) : Nat := fld d 84 4
def aTable (d : Bytes) : Nat := fld d 88 4
def aBound (d : Bytes) : Nat := fld d 92 4
def aCount (d : Bytes) : Nat := fld d 96 4
def ropeQ (d : Bytes) : Bool := bit (aRope d) 0
def ropeK (d : Bytes) : Bool := bit (aRope d) 1
def ropeKind (d : Bytes) : Nat := bits (aRope d) 2 2
def saveLse (d : Bytes) : Bool := bit (aIo d) 4
/-- Input and output element formats as R31 codes. -/
def qFmt (d : Bytes) : Nat := if aIo d % 4 = 0 then 1 else 0
def oFmt (d : Bytes) : Nat := let k := bits (aIo d) 2 2; if k = 0 then 1 else if k = 1 then 2 else 0
def elB (f : Nat) : Nat := (fmD f).bits / 8
/-- Element bytes of a token for one of K or V, and the record size (R169). -/
def tokB (d : Bytes) : Nat := elemBytes (aFmt d) (headDim d)
def recSize (d : Bytes) : Nat := 256 * tokB d + (if aFmt d = 9 then 8 * headDim d else 0)
def isFinW (n : Nat) : Bool := (decodeF ffp32 n).isFin

/-! Checks (R139, R167, R182). -/
def sortBad (len : Nat) (d : Bytes) : Bool :=
  let ctl := fld d 2 1
  let mode := bits ctl 1 2
  let k := fld d 3 1
  let n := 4 * fld d 4 4
  let a (o : Nat) : Nat := fld d o 4
  let lap (x y : Nat) : Bool := x != y && x < y + n && y < x + n
  ctl > 7 || mode = 3 || !allZero (slice d 32 32) || fld d 1 1 > 2 || n = 0 || n > 16384 ||
  (if mode = 0 then k != 0 else k = 0 || k > 16) || [8, 12, 16, 20].any (fun o => a o % 4 != 0 || !inLs len (a o) n) ||
  (mode != 0 && (a 24 % 4 != 0 || a 28 % 4 != 0 || fld d 1 1 != 0 || bit ctl 0 || !inLs len (a 24) (4 * (k - 1)) || !inLs len (a 28) 64)) ||
  lap (a 16) (a 8) || lap (a 20) (a 12)
/-- Check 1. -/
def attBad1 (d : Bytes) : Bool :=
  aMask d > 7 || aRope d > 31 || ropeKind d = 3 || aIo d > 31 || aIo d % 4 > 1 || bits (aIo d) 2 2 = 3 || fld d 8 1 > 7 || aMode d = 3 ||
  fld d 11 1 != 0 || fld d 18 2 != 0 || !allZero (slice d 100 28) || (fld d 0 1 = 3 && !allZero (slice d 180 12))
/-- Check 2. -/
def attBad2 (e : Entry) (d : Bytes) : Bool :=
  !bit e.uses 0 || (if fld d 0 1 = 1 then aBank d + 3 > e.accBanks else aBank d != 0 || e.accBanks != 4)
/-- Check 3. -/
def attBad3 (e : Entry) (d : Bytes) : Bool :=
  !(aFmt d == 1 || (fld d 0 1 == 1 && (aFmt d == 3 || aFmt d == 9))) || !bit e.formats (aFmt d)
/-- Check 4. -/
def attBad4 (d : Bytes) : Bool :=
  let used (on : Bool) (lo v : Nat) : Bool := if on then v < lo else v != 0
  fld d 2 1 > 2 || aGqa d = 0 || aGqa d > 16 || aTok d = 0 || aTok d * aGqa d > 32 ||
  used (bit (aMask d) 1) 1 (aWindow d) || used (bit (aMask d) 2) 1 (aPrefix d) ||
  !isFinW (aScale d) || !isFinW (aVfac d) ||
  (if ropeQ d || ropeK d then !isFinW (aRopeBase d) || !ltI (.fin false 1 0) (decodeF ffp32 (aRopeBase d)) else aRopeBase d != 0) ||
  (if ropeKind d != 0 then !isFinW (aRopeFac d) || ltI (decodeF ffp32 (aRopeFac d)) (.fin false 1 0) else aRopeFac d != 0) ||
  (if aBatch d then
     aSeqs d = 0 || aSeqs d > 4096 || aShares d = 0 || aShares d > 4096 || aShare d ≥ aShares d || aKvBase d != 0 || aKvLen d != 0 || aQpos d != 0 ||
     (if aMode d = 0 then aBuckets d != 0 else aBuckets d = 0 || aBuckets d > 16)
   else
     aSeqs d != 0 || aShare d != 0 || aShares d != 0 || aMode d != 0 || aBuckets d != 0 || aTable d != 0 || aBound d != 0 || aCount d != 0 ||
     aKvLen d > 16777216 || aQpos d + aTok d > 16777216) ||
  (fld d 0 1 = 3 && (aBatch d || saveLse d))
/-- Check 5. -/
def attBad5 (d : Bytes) : Bool :=
  let hd := headDim d
  aKvBase d % 4096 != 0 || aBlkStride d % 4096 != 0 || aBlkStride d < recSize d ||
  aQaddr d % 16 != 0 || aQstride d % 16 != 0 || aQstride d < hd * elB (qFmt d) ||
  aOut d % 16 != 0 || aOutStride d % 16 != 0 || aOutStride d < hd * elB (oFmt d) ||
  (saveLse d && aLse d % 4 != 0) || aFlag d % 4 != 0 || (aBatch d && aTable d % 32 != 0) ||
  (aMode d != 0 && (aBound d % 4 != 0 || aCount d % 4 != 0))
/-- Rows `r` to `r` + R − 1 lie within the set's allocation. -/
def rowsFit (len : Nat) (d : Bytes) (r : Nat) : Bool :=
  let hd := headDim d
  (List.range (backRows d)).all (fun i => inLs len (aQaddr d + (r + i) * aQstride d) (hd * elB (qFmt d)) &&
    inLs len (aOut d + (r + i) * aOutStride d) (hd * elB (oFmt d)) && (!saveLse d || inLs len (aLse d + 4 * (r + i)) 4))
/-- Check 6. -/
def attBad6 (len : Nat) (d : Bytes) : Bool :=
  if fld d 0 1 = 3 then false
  else if aBatch d then
    !inLs len (aTable d) (32 * aSeqs d) || !inLs len (aFlag d) (4 * aSeqs d) ||
    (aMode d != 0 && (!inLs len (aBound d) (4 * (aBuckets d - 1)) || !inLs len (aCount d) 64))
  else !rowsFit len d 0 || !inLs len (aFlag d) 4
/-- Check 7: the extension, with its template; some true is a format fault of the template (R32). -/
def attBad7 (e : Entry) (mode len tents : Nat) (d epi : Bytes) : Option Bool :=
  if aQaddr d != 0 || aOut d != 0 || aLse d != 0 || aFlag d != 0 ||
      [128, 136, 144, 152, 160].any (fun o => fld d o 8 % 16 != 0) || eDest epi != 2 ||
      fld d 174 2 ≥ eCount epi || fld d 176 4 % 128 != 0 || fld d 176 4 < eCount epi * 32768 + 8 ||
      fld d 172 2 = 0 || fld d 172 2 > 4096 || 32 * fld d 174 2 ≥ aKvLen d then some false
  else epiCheck e.formats mode len tents false (headDim d) (2 ^ backRows d - 1) epi
def attCheck (e : Entry) (len : Nat) (d : Bytes) : Option (Nat × Bool) :=
  if attBad1 d then some (0xF, false)
  else if attBad2 e d then some (1, false)
  else if attBad3 e d then some (0xF, true)
  else if attBad4 d || attBad5 d || attBad6 len d then some (0xF, false) else none
/-- ATT.ISSUE: a sort request, a forward or a backward descriptor. -/
def attDesc (core : Nat) (s : State) (l : Launch) (t : GSet) (a : Nat) : Issued :=
  let c := coreOf s core
  match readDesc core c t a 64 with
  | .inr x => .inr x
  | .inl h =>
    let kind := fld h 0 1
    if kind = 2 then (if sortBad t.lsLen h then .inr (0xF, false) else .inl (h, []))
    else if kind != 1 && kind != 3 then .inr (0xF, false)
    else match readDesc core c t a (if kind = 1 then 128 else 192) with
      | .inr x => .inr x
      | .inl d =>
        match attCheck l.entry t.lsLen d with
        | some x => .inr x
        | none =>
          if kind = 1 then .inl (d, [])
          else match readDesc core c t (fld d 168 4) 64 with
            | .inr x => .inr (if x.1 = 3 then (0xF, false) else x)
            | .inl e => match attBad7 l.entry l.policy.mode t.lsLen (partMask s l.part) d e with
              | some b => .inr (0xF, b)
              | none => .inl (d, e)
def execAttIssue (at_ : Iss) (dst addr : Nat) (s : State) : Host.Outcome State Fault Refusal :=
  .next (keepKrn s (issueMat at_ dst addr true (attDesc at_.core) s))

/-! The length sorter (R140, R141). -/
/-- A key with its index. -/
def keyLt (f : Nat) (desc : Bool) (x y : Nat) : Bool :=
  let lt (x y : Nat) : Bool :=
    if f = 0 then x < y
    else if f = 1 then toS 32 x < toS 32 y
    else
      let a := decodeF ffp32 x
      let b := decodeF ffp32 y
      if a = .nan then false else if b = .nan then true else ltN a b
  if desc then lt y x else lt x y
/-- Insertion behind every key that does not compare greater: equal keys keep their order. -/
def insKey (f : Nat) (desc : Bool) (x : Nat × Nat) : List (Nat × Nat) → List (Nat × Nat)
  | [] => [x]
  | y :: r => if keyLt f desc y.1 x.1 then y :: insKey f desc x r else x :: y :: r
def sortKeys (f : Nat) (desc : Bool) (ks : List Nat) : List (Nat × Nat) := ks.zipIdx.foldr (insKey f desc) []
/-- Automatic boundaries: 2^(z + m + 1). -/
def autoBounds (ks : List Nat) (n : Nat) : List Nat :=
  let z := log2 (Nat.max (ks.foldl Nat.min (ks.headD 0)) 1)
  (List.range (n - 1)).map (fun m => 2 ^ (z + m + 1))
def rising : List Nat → Bool
  | a :: b :: r => a < b && rising (b :: r)
  | _ => true
/-- The bucket of a key: the first whose boundary lies above it, else the last. -/
def bucketOf (bs : List Nat) (x : Nat) : Nat := (bs.takeWhile (fun b => b ≤ x)).length
def bucketCount (bs : List Nat) (ks : List Nat) (n m : Nat) : Nat := if m < n then (ks.filter (fun x => bucketOf bs x == m)).length else 0
def lsWords (core : Nat) (c : Core) (a n : Nat) : List MWord := (List.range n).map (fun k => lsF32 core c (a + 4 * k))
def putWords (core : Nat) (c : Core) (a : Nat) (l : List MWord) : Core := lsPut core c a (l.flatMap wordBytes)
def cleanW (n : Nat) : MWord := (BitVec.ofNat 32 n, false)
/-- Boundaries in force, or the trap of reading them: 5 poisoned, 0xF not rising. -/
def bounds (core : Nat) (c : Core) (mode a n : Nat) (ks : List Nat) : List Nat ⊕ Nat :=
  if mode = 1 then
    let w := lsWords core c a (n - 1)
    let bs := w.map (·.1.toNat)
    if w.any (·.2) then .inr 5 else if !rising bs then .inr 0xF else .inl bs
  else .inl (if mode = 2 then autoBounds ks n else [])
/-- Counts and automatic boundaries as written to local store. -/
def putBuckets (core : Nat) (c : Core) (mode bound count n : Nat) (bs ks : List Nat) : Core :=
  if mode = 0 then c
  else
    let c := if mode = 2 then putWords core c bound (bs.map (fun b => cleanW (Nat.min b 0xFFFFFFFF))) else c
    putWords core c count ((List.range 16).map (fun m => cleanW (bucketCount bs ks n m)))
def sortRun (s : State) (core : Nat) (m : MatOp) : State :=
  let d := m.desc
  let c := coreOf s core
  let base := baseOf c m
  let n := fld d 4 4
  let ctl := fld d 2 1
  let ks := lsWords core c (base + fld d 8 4) n
  let vs := lsWords core c (base + fld d 12 4) n
  let nums := ks.map (·.1.toNat)
  if ks.any (·.2) then matFail s core m 5
  else match bounds core c (bits ctl 1 2) (base + fld d 24 4) (fld d 3 1) nums with
    | .inr k => matFail s core m k
    | .inl bs =>
      let q := sortKeys (fld d 1 1) (bit ctl 0) nums
      let c := putWords core c (base + fld d 16 4) (q.map (fun x => cleanW x.1))
      let c := putWords core c (base + fld d 20 4) (q.map (fun x => vs.getD x.2 (0, false)))
      let c := putBuckets core c (bits ctl 1 2) (base + fld d 24 4) (base + fld d 28 4) (fld d 3 1) bs nums
      matDone (setCore s core c) core m
/-- The head of the queue when it is an operation of ATT.ISSUE of the kind. -/
def attHead (s : State) (core kind : Nat) : Option MatOp := 
  (headOp (coreOf s core)).filter (fun m => m.att && m.stage < 2 && fld m.desc 0 1 == kind)
def sortRequest (core : Nat) (s : State) : State :=
  match attHead s core 2 with
  | some m => sortRun s core m
  | none => s
def execSortRequest (core : Nat) (s : State) : Host.Outcome State Fault Refusal := .next (keepMat s (sortRequest core s))

/-! Numbers of the sequencer (R168, R172, R177, R178). -/
def log2e : Word := 0x3FB8AA3B#32
def ln2 : Word := 0x3F317218#32
def negInf : Word := 0xFF800000#32
def one32 : Word := 0x3F800000#32
def scoreScale (d : Bytes) : Word :=
  if aScale d != 0 then BitVec.ofNat 32 (aScale d) else if headDim d = 64 then 0x3E000000#32 else if headDim d = 128 then 0x3DB504F3#32 else 0x3D800000#32
def vFactor (d : Bytes) : Word := if aVfac d != 0 then BitVec.ofNat 32 (aVfac d) else one32
def exp2W (x : Word) : Word := specialVal .exp2 x
/-- Cosine and sine of pair i at position x. -/
def ropeAngle (d : Bytes) (i x : Nat) : Word × Word :=
  let b := BitVec.ofNat 32 (aRopeBase d)
  let k := BitVec.ofNat 32 (aRopeFac d)
  let base := if ropeKind d = 2 then fmul b k else b
  let r := toFp32 (.fin false (2 * i) (-(log2 (headDim d) : Int)))
  let f := exp2W (fsub 0x80000000#32 (fmul r (specialVal .log2 base)))
  let p := toFp32 (.fin false x 0)
  let p := if ropeKind d = 1 then fmul p (specialVal .recip k) else p
  let a := fmul p f
  (specialVal .cos a, specialVal .sin a)
/-- The pair of element n: its first and second element, and its number. -/
def pairOf (d : Bytes) (n : Nat) : Nat × Nat × Nat :=
  let h := headDim d / 2
  if bit (aRope d) 4 then (n / 2 * 2, n / 2 * 2 + 1, n / 2) else (n % h, n % h + h, n % h)
/-- A row rotated at position x, or back (R184). -/
def rotate (d : Bytes) (back : Bool) (x : Nat) (v : List MWord) : List MWord :=
  (List.range v.length).map (fun n =>
    let q := pairOf d n
    let u := v.getD q.1 (0, false)
    let w := v.getD q.2.1 (0, false)
    let a := ropeAngle d q.2.2 x
    let r := match n == q.1, back with
      | true, false => fsub (fmul u.1 a.1) (fmul w.1 a.2)
      | false, false => fadd (fmul w.1 a.1) (fmul u.1 a.2)
      | true, true => fadd (fmul u.1 a.1) (fmul w.1 a.2)
      | false, true => fsub (fmul w.1 a.1) (fmul u.1 a.2)
    (r, u.2 || w.2))
/-- The fed format: BF16, or MXFP8 E4M3 in blocks of 32, and the numbers that the arrays then consume. -/
def fedMx (v : List Num) : List Num :=
  (List.range (cdiv v.length 32)).flatMap (fun m =>
    let b := (v.drop (32 * m)).take 32
    let q := quantMx 5 (fun _ => {}) b
    (List.range b.length).map (fun k => mulN (decodeF fe4m3 (q.codes.getD k 0)) (e8m0 (fld q.scale 0 1))))
def fed (fmt : Nat) (v : List Num) : List Num :=
  if fmt = 1 then v.map (fun x => decodeF fbf16 (convF fbf16 {} x).code) else fedMx v
def kvRate (fmt : Nat) : Nat := if fmt = 1 then 1 else 2

/-! Keys and values (R169, R170, R176). -/
structure Seq where
  kv : Nat
  len : Nat
  qpos : Nat
  row : Nat
  idx : Nat
  deriving DecidableEq, Repr
def visible (d : Bytes) (len q k : Nat) : Bool :=
  let w := aWindow d
  k < len && ((bit (aMask d) 2 && q < aPrefix d && k < aPrefix d) ||
    ((!bit (aMask d) 0 || k ≤ q) && (!bit (aMask d) 1 || (q < k + w && k < q + w))))
/-- Position of row i. -/
def rowPos (d : Bytes) (qpos i : Nat) : Nat := qpos + i / aGqa d
/-- A token's elements with its scales: exact values with marks. -/
def kvToken (s : State) (core ctx : Nat) (d : Bytes) (kv pos : Nat) (value : Bool) : List (Num × Bool) ⊕ Nat :=
  let e := tokB d
  let hd := headDim d
  let r := kv + pos / 128 * aBlkStride d
  let t := pos % 128
  let a := r + (if value then 128 * e else 0) + t * e
  let sa := r + 256 * e + (if value then 4 * hd else 0) + t * (hd / 32)
  let sc : VRes := if aFmt d = 9 then vpeek s ctx sa (hd / 32) (core / 64) else .ok []
  match vpeek s ctx a e (core / 64), sc with
  | .ok b, .ok q =>
    .inl ((List.range hd).map (fun n =>
      let w := (fmD (aFmt d)).bits
      (mulN (elemAt (aFmt d) (bytesOf b) n) (if aFmt d = 9 then e8m0 (fld (bytesOf q) (n / 32) 1) else .fin false 1 0),
       (b.getD (n * w / 8) (0, false)).2 || (q.getD (n / 32) (0, false)).2)))
  | .fault, _ => .inr 4
  | _, .fault => .inr 4
  | _, _ => .inr 6
/-- Tokens `p` to `p` + n − 1 in order, or the first failure. -/
def kvRun (s : State) (core ctx : Nat) (d : Bytes) (kv p n : Nat) (value : Bool) : List (List (Num × Bool)) ⊕ Nat :=
  (List.range n).foldl (fun acc k =>
    match acc with
    | .inr _ => acc
    | .inl l => match kvToken s core ctx d kv (p + k) value with
      | .inl t => .inl (l ++ [t])
      | .inr x => .inr x) (.inl [])
/-- The reads of n tokens of a block from position p on, keys and values, noted at their slices. -/
def kvNote (s : State) (ctx : Nat) (d : Bytes) (kv p n core : Nat) : State :=
  let e := tokB d
  let t := p % 128
  let r := kv + p / 128 * aBlkStride d
  let s := vnote (vnote (latFree s 2 core 1 (2 * n * e)) ctx (r + t * e) (n * e) 2 core) ctx (r + (128 + t) * e) (n * e) 2 core
  if aFmt d = 9 then
    let w := headDim d / 32
    vnote (vnote s ctx (r + 256 * e + t * w) (n * w) 2 core) ctx (r + 256 * e + 4 * headDim d + t * w) (n * w) 2 core
  else s
/-- A key as it is fed: decoded to FP32, rotated, converted. -/
def fedKey (d : Bytes) (pos : Nat) (t : List (Num × Bool)) : List Num × Bool :=
  let v : List MWord := t.map (fun x => (toFp32 x.1, x.2))
  let v := if ropeK d then rotate d false pos v else v
  (fed (aFmt d) (v.map (fun x => ofFp32 x.1)), v.any (·.2))
def fedQuery (d : Bytes) (pos : Nat) (v : List MWord) : List Num × Bool :=
  let v := if ropeQ d then rotate d false pos v else v
  (fed (aFmt d) (v.map (fun x => ofFp32 x.1)), v.any (·.2))
/-- Elements of BF16, FP16 or FP32 as FP32 with marks. -/
def rowOf (f : Nat) (b : List MByte) : List MWord :=
  let w := elB f
  (List.range (b.length / w)).map (fun n =>
    let x := (b.drop (w * n)).take w
    (toFp32 (elemAt f (bytesOf x) 0), anyPois x))

/-! The forward pass (R172 to R175, R186). -/
structure RowSt where
  q : List Num
  pos : Nat
  m : Word := negInf
  l : Word := 0
  acc : List Word
  /-- The whole row is poisoned; poisoned output columns. -/
  p : Bool
  cols : List Bool
  deriving DecidableEq, Repr
/-- One value column of a block: the visible keys' products, in cycles of the rate; masked keys' steps are gated off. -/
def valueAcc (s : Nat) (a : Word) (ps : List (Bool × Num)) : Nat → Word
  | 0 => a
  | n + 1 => valueAcc s (let g := (ps.take s).filter (·.1); if g.isEmpty then a else toFp32 (sumN (ofFp32 a :: g.map (·.2)))) (ps.drop s) n
/-- A block's keys and values against one row. -/
def attBlock (d : Bytes) (len b : Nat) (ks : List (List Num × Bool)) (vs : List (List (Num × Bool))) (r : RowSt) : RowSt :=
  let s := kvRate (aFmt d)
  let vis (k : Nat) : Bool := visible d len r.pos (128 * b + k)
  let sc : List Word := ks.zipIdx.map (fun k =>
    if vis k.2 then fmul (dotRun false (kGroups s (headDim d)) 0 r.q k.1.1) (scoreScale d) else negInf)
  let mn := toFp32 (sc.foldl (fun a x => maxN a (ofFp32 x)) (ofFp32 r.m))
  let up := mn != r.m && r.m != negInf
  let al := exp2W (fmul (fsub r.m mn) log2e)
  let l := if up then fmul r.l al else r.l
  let acc := if up then r.acc.map (fun a => fmul a al) else r.acc
  let ps := fed (aFmt d) (sc.map (fun x => ofFp32 (if x = negInf then 0 else exp2W (fmul (fsub x mn) log2e))))
  let l := ps.foldl (fun a p => fadd a (toFp32 p)) l
  { r with
    m := mn, l
    acc := acc.zipIdx.map (fun a => valueAcc s a.1 ((ps.zip vs).zipIdx.map (fun x =>
      (vis x.2, mulN x.1.1 (x.1.2.getD a.2 (.fin false 0 0, false)).1))) (cdiv vs.length s))
    p := r.p || (ks.zipIdx).any (fun k => vis k.2 && k.1.2)
    cols := r.cols.zipIdx.map (fun c => c.1 || (vs.zipIdx).any (fun v => vis v.2 && (v.1.getD c.2 (.fin false 0 0, false)).2)) }
/-- No score above −∞ and none that is a NaN (R173, R175). -/
def rowEmpty (r : RowSt) : Bool := r.m == negInf && r.l == 0
def rowOut (d : Bytes) (r : RowSt) : List MByte :=
  let f := oFmt d
  let rc := specialVal .recip r.l
  (r.acc.zip r.cols).flatMap (fun a =>
    let v := if rowEmpty r then 0 else (convElem f {} (ofFp32 (fmul (fmul a.1 rc) (vFactor d)))).code
    (le (elB f) v).map (fun b => (b, r.p || a.2)))
def rowLse (r : RowSt) : MWord := (if rowEmpty r then negInf else fadd r.m (fmul (specialVal .log2 r.l) ln2), r.p)
/-- The blocks of one sequence in ascending order; the trap of a failed read stops it. -/
def attBlocks (ctx : Nat) (d : Bytes) (q : Seq) (core : Nat) : List Nat → State × List RowSt × Nat → State × List RowSt × Nat
  | [], a => a
  | b :: bs, (s, rows, code) =>
    if code != 0 then (s, rows, code)
    else
      let n := Nat.min 128 (q.len - 128 * b)
      let u := kvNote s ctx d q.kv (128 * b) n core
      match kvRun s core ctx d q.kv (128 * b) n false, kvRun s core ctx d q.kv (128 * b) n true with
      | .inl ks, .inl vs =>
        attBlocks ctx d q core bs (u, rows.map (attBlock d q.len b (ks.zipIdx.map (fun k => fedKey d (128 * b + k.2) k.1)) vs), 0)
      | .inr x, _ => (u, rows, x)
      | _, .inr x => (u, rows, x)
/-- One sequence: its rows run and finished; the code is the trap of a failed read, and nothing of it is then written. -/
def attSeq (ctx : Nat) (d : Bytes) (base core : Nat) (q : Seq) (acc : State × Nat) : State × Nat :=
  if acc.2 != 0 then acc
  else
    let s := acc.1
    let c := coreOf s core
    let hd := headDim d
    let rows := (List.range (backRows d)).map (fun i =>
      let a := base + aQaddr d + (q.row + i) * aQstride d
      let b := (List.range (hd * elB (qFmt d))).map (fun k => (lsByte core c (a + k), lsMarked c (a + k) 1))
      let pos := rowPos d q.qpos i
      let f := fedQuery d pos (rowOf (qFmt d) b)
      { q := f.1, pos, acc := List.replicate hd 0, p := f.2, cols := List.replicate hd false : RowSt })
    let r := attBlocks ctx d q core (List.range (cdiv q.len 128)) (s, rows, 0)
    if r.2.2 != 0 then (r.1, r.2.2)
    else
      let rs := r.2.1
      let c := coreOf r.1 core
      let c := rs.zipIdx.foldl (fun c x => lsPut core c (base + aOut d + (q.row + x.2) * aOutStride d) (rowOut d x.1)) c
      let flags := rs.zipIdx.foldl (fun a x => a + b2n (rowEmpty x.1) * 2 ^ x.2) 0
      let c := lsPut core c (base + aFlag d + 4 * q.idx) ((le 4 flags).map (fun b => (b, rs.any (·.p))))
      let c := if saveLse d then rs.zipIdx.foldl (fun c x => lsPut core c (base + aLse d + 4 * (q.row + x.2)) (wordBytes (rowLse x.1))) c else c
      (setCore r.1 core c, 0)
/-- Entries of the sequence table (R179). -/
def tableOf (core : Nat) (c : Core) (base : Nat) (d : Bytes) : List (Seq × Bool) :=
  (List.range (aSeqs d)).map (fun x =>
    let r := lsRead core c (base + aTable d + 32 * x) 32
    ({ kv := fld r 0 8, len := fld r 8 4, qpos := fld r 12 4, row := fld r 16 4, idx := x }, allZero (slice r 20 12)))
def seqOk (len : Nat) (d : Bytes) (q : Seq × Bool) : Bool :=
  q.2 && q.1.kv % 4096 == 0 && q.1.len ≤ 16777216 && q.1.qpos + aTok d ≤ 16777216 && rowsFit len d q.1.row
/-- A KV_LEN word of the table carries a mark: as a key of the sort it is consumed (R140, R180). -/
def lensPois (c : Core) (base : Nat) (d : Bytes) : Bool :=
  aMode d != 0 && (List.range (aSeqs d)).any (fun x => lsMarked c (base + aTable d + 32 * x + 8) 4)
/-- The share's sequences in the order they run (R180): in table order, or bucket by bucket in sorted order. -/
def shareOf (d : Bytes) (bs : List Nat) (l : List Seq) : List Seq :=
  if aMode d = 0 then l.filter (fun q => q.idx % aShares d == aShare d)
  else
    let sorted := (sortKeys 0 false (l.map (·.len))).filterMap (fun x => l[x.2]?)
    (List.range (aBuckets d)).flatMap (fun m =>
      ((sorted.filter (fun q => bucketOf bs q.len == m)).zipIdx.filter (fun q => q.2 % aShares d == aShare d)).map (·.1))
/-- The three banks at completion: +0, no mark, FP32. -/
def clearBanks (s : State) (core : Nat) (m : MatOp) : State :=
  (List.range 3).foldl (fun s k => setBank s core m (aBank m.desc + k) {}) s
/-- The operation fails, and its `n` banks are marked (R117, R187). -/
def banksFail (s : State) (core : Nat) (m : MatOp) (n code : Nat) : State :=
  matFail ((List.range n).foldl (fun s k => setBank s core m (aBank m.desc + k) (poisonBank (bankOf (coreOf s core) m (aBank m.desc + k)))) s) core m code
def attRun (s : State) (core : Nat) (m : MatOp) (l : Launch) (t : GSet) : State :=
  let d := m.desc
  let s := frzDraw s core true true true
  let c := coreOf s core
  let fin (r : State × Nat) : State := if r.2 != 0 then banksFail r.1 core m 3 r.2
    else matDone (clearBanks r.1 core m) core m
  if !aBatch d then fin (attSeq l.ctx d t.lsBase core { kv := aKvBase d, len := aKvLen d, qpos := aQpos d, row := 0, idx := 0 } (s, 0))
  else
    let tab := tableOf core c t.lsBase d
    let lens := tab.map (·.1.len)
    if !tab.all (seqOk t.lsLen d) then fin (s, 0xF)
    else if lensPois c t.lsBase d then fin (s, 5)
    else match bounds core c (aMode d) (t.lsBase + aBound d) (aBuckets d) lens with
      | .inr k => fin (s, k)
      | .inl bs =>
        let s := setCore s core (putBuckets core c (aMode d) (t.lsBase + aBound d) (t.lsBase + aCount d) (aBuckets d) bs lens)
        fin ((shareOf d bs (tab.map (·.1))).foldl (fun a q => attSeq l.ctx d t.lsBase core q a) (s, 0))
/-- The operation is at the head with its launch and set, no drain holds its banks, and its rail's arbiter does not hold it. -/
def attReady (s : State) (core kind n : Nat) : Option (MatOp × Launch × GSet) :=
  (attHead s core kind).bind (fun m =>
    if s.pwr.hold.contains (core / 8) || (List.range n).any (fun k => drainHolds (coreOf s core) m (aBank m.desc + k)) then none
    else (launchOf s m.launch).bind (fun l => (setFor (coreOf s core) m).map (fun t => (m, l, t))))
def attForward (core : Nat) (s : State) : State :=
  match attReady s core 1 3 with
  | some (m, l, t) => attRun s core m l t
  | none => s
def execAttentionForward (core : Nat) (s : State) : Host.Outcome State Fault Refusal := .next (keepMat s (attForward core s))

/-! The backward pass (R183 to R185). -/
/-- Rows of a virtual array, or the trap of reading them. -/
def vRows (s : State) (core ctx f a stride hd n : Nat) : List (List MWord) ⊕ Nat :=
  (List.range n).foldl (fun acc i =>
    match acc with
    | .inr _ => acc
    | .inl l => match vpeek s ctx (a + i * stride) (hd * elB f) (core / 64) with
      | .ok b => .inl (l ++ [rowOf f b])
      | .fault => .inr 4
      | .bus => .inr 6) (.inl [])
/-- A matrix of numbers with marks, fed as BF16. -/
def bf (x : MWord) : Num × Bool := (decodeF fbf16 (convF fbf16 {} (ofFp32 x.1)).code, x.2)
/-- One array pass at one K-step a cycle: activation row i against weight column j; a poisoned element of either marks the
accumulator (R118). -/
def arrPass (rows : List (List MWord)) (cols : List (List MWord)) (a0 : Nat → Nat → MWord) : List (List MWord) :=
  rows.zipIdx.map (fun r => cols.zipIdx.map (fun c =>
    let a := a0 r.2 c.2
    (dotRun false (kGroups 1 r.1.length) a.1 (r.1.map (fun x => (bf x).1)) (c.1.map (fun x => (bf x).1)), a.2 || r.1.any (·.2) || c.1.any (·.2))))
def transpose (w : Nat) (l : List (List MWord)) : List (List MWord) := (List.range w).map (fun j => l.map (fun r => r.getD j (0, false)))
/-- A tile's inputs: queries rotated, output gradients, outputs, log-sum-exp. -/
structure BackIn where
  q : List (List MWord)
  dO : List (List MWord)
  o : List (List MWord)
  lse : List MWord
def backIn (s : State) (core ctx : Nat) (d : Bytes) (j : Nat) : BackIn ⊕ Nat :=
  let r := backRows d
  let hd := headDim d
  match vRows s core ctx (qFmt d) (fld d 128 8 + j * r * aQstride d) (aQstride d) hd r,
        vRows s core ctx (qFmt d) (fld d 136 8 + j * r * aQstride d) (aQstride d) hd r,
        vRows s core ctx (oFmt d) (fld d 144 8 + j * r * aOutStride d) (aOutStride d) hd r,
        vRows s core ctx 0 (fld d 152 8 + 4 * j * r) 4 1 r with
  | .inl q, .inl g, .inl o, .inl e =>
    .inl { q := q.zipIdx.map (fun x => if ropeQ d then rotate d false (rowPos d (aQpos d + j * aTok d) x.2) x.1 else x.1)
           dO := g, o, lse := e.map (fun x => x.headD (0, false)) }
  | .inr x, _, _, _ => .inr x
  | _, .inr x, _, _ => .inr x
  | _, _, .inr x, _ => .inr x
  | _, _, _, .inr x => .inr x
/-- The 32 keys of a slice: those at or beyond the length are not read and are zero. -/
def sliceKeys (s : State) (core ctx : Nat) (d : Bytes) (value : Bool) : List (List MWord) ⊕ Nat :=
  let k0 := 32 * fld d 174 2
  match kvRun s core ctx d (aKvBase d) k0 (Nat.min 32 (aKvLen d - k0)) value with
  | .inr x => .inr x
  | .inl l =>
    let w := l.zipIdx.map (fun t =>
      let v : List MWord := t.1.map (fun x => (toFp32 x.1, x.2))
      if !value && ropeK d then rotate d false (k0 + t.2) v else v)
    .inl (w ++ List.replicate (32 - w.length) (List.replicate (headDim d) (0, false)))
/-- P and dS of key k (row of the matrices) and query row i. -/
def backP (d : Bytes) (j : Nat) (b : BackIn) (sT : List (List MWord)) (k i : Nat) : MWord :=
  let e := b.lse.getD i (0, false)
  let x := (sT.getD k []).getD i (0, false)
  let sc := fmul x.1 (scoreScale d)
  if !visible d (aKvLen d) (rowPos d (aQpos d + j * aTok d) i) (32 * fld d 174 2 + k) then (0, false)
  else (if sc = negInf || e.1 = negInf then 0 else exp2W (fmul (fsub sc e.1) log2e), x.2 || e.2)
/-- D of a row: the products of gradients and outputs in ascending order. -/
def backD (b : BackIn) (i : Nat) : MWord :=
  ((b.dO.getD i []).zip (b.o.getD i [])).foldl (fun a x => (fadd a.1 (fmul x.1.1 x.2.1), a.2 || x.1.2 || x.2.2)) (0, false)
/-- What a tile comes to: the passes' banks and the finished dQ. -/
structure BackOut where
  dP : List (List MWord)
  sT : List (List MWord)
  q : List (List MWord)
  dK : List (List MWord)
  dV : List (List MWord)
  dQ : List (List MWord)
def backTile (d : Bytes) (j : Nat) (b : BackIn) (ks vs : List (List MWord)) (dK dV : Nat → Nat → MWord) : BackOut :=
  let r := backRows d
  let hd := headDim d
  let z (_ _ : Nat) : MWord := (0, false)
  let dP := arrPass vs b.dO z
  let sT := arrPass ks b.q z
  let p := (List.range 32).map (fun k => (List.range r).map (backP d j b sT k))
  let dS := (List.range 32).map (fun k => (List.range r).map (fun i =>
    let x := (p.getD k []).getD i (0, false)
    let y := (dP.getD k []).getD i (0, false)
    let g := backD b i
    if visible d (aKvLen d) (rowPos d (aQpos d + j * aTok d) i) (32 * fld d 174 2 + k) then (fmul x.1 (fsub y.1 g.1), x.2 || y.2 || g.2)
    else (fmul x.1 (fsub y.1 g.1), false)))
  let q := arrPass (transpose r dS) (transpose hd ks) z
  let vis (k i : Nat) : Bool := visible d (aKvLen d) (rowPos d (aQpos d + j * aTok d) i) (32 * fld d 174 2 + k)
  let mark (i n : Nat) : Bool := (List.range 32).any (fun k =>
    vis k i && (((dS.getD k []).getD i (0, false)).2 || ((ks.getD k []).getD n (0, false)).2))
  let q := q.zipIdx.map (fun x => x.1.zipIdx.map (fun w => (w.1.1, mark x.2 w.2)))
  { dP, sT, q, dV := arrPass p (transpose hd b.dO) dV, dK := arrPass dS (transpose hd b.q) dK
    dQ := q.zipIdx.map (fun x =>
      let y := x.1.map (fun w => (fmul w.1 (scoreScale d), w.2))
      if ropeQ d then rotate d true (rowPos d (aQpos d + j * aTok d) x.2) y else y) }
def bankRows (b : Bank) (hd : Nat) : List (List MWord) :=
  (List.range 32).map (fun k => (List.range hd).map (fun n => let a := bankAcc b k n; (a.v, a.pois)))
/-- A pass's rows in a bank; what the pass does not feed keeps its contents (R114). -/
def rowsBank (b : Bank) (l : List (List MWord)) : Bank :=
  { b with int := false
           acc := l.zipIdx.foldl (fun t r => r.1.zipIdx.foldl (fun t x => tset t (256 * r.2 + x.2) { v := x.1.1, pois := x.1.2 }) t) b.acc }
def putRows (s : State) (core : Nat) (m : MatOp) (k : Nat) (l : List (List MWord)) : State :=
  setBank s core m k (rowsBank (bankOf (coreOf s core) m k) l)
/-- The reads of a tile noted at their slices: queries, gradients, outputs, log-sum-exp, and the slice's keys and values. -/
def backNote (s : State) (core ctx : Nat) (d : Bytes) (j : Nat) : State :=
  let r := backRows d
  let hd := headDim d
  let k0 := 32 * fld d 174 2
  let rows (s : State) (a stride n : Nat) : State := (List.range r).foldl (fun s i => vnote s ctx (a + i * stride) n 2 core) s
  let s := latFree s 2 core 1 (r * hd * (2 * elB (qFmt d) + elB (oFmt d)) + 4 * r)
  let s := rows s (fld d 128 8 + j * r * aQstride d) (aQstride d) (hd * elB (qFmt d))
  let s := rows s (fld d 136 8 + j * r * aQstride d) (aQstride d) (hd * elB (qFmt d))
  let s := rows s (fld d 144 8 + j * r * aOutStride d) (aOutStride d) (hd * elB (oFmt d))
  kvNote (rows s (fld d 152 8 + 4 * j * r) 4 4) ctx d (aKvBase d) k0 (Nat.min 32 (aKvLen d - k0)) core
/-- A backward operation fails at a write: a fault or bus error marks its banks, consumed poison does not. -/
def backFail (s : State) (core : Nat) (m : MatOp) (code : Nat) : State := if code = 5 then matFail s core m 5 else banksFail s core m 4 code
/-- The next query tile: banks 0 and 1 accumulate dK and dV, bank 3 takes dPᵀ and bank 2 Sᵀ and then the dQ partial, which goes
to its record, or with one split is finished at once, sampled as R150 says. -/
def backStep (s : State) (core : Nat) (m : MatOp) (l : Launch) (t : GSet) : State :=
  let d := m.desc
  let j := m.tile
  let u := backNote (frzDraw s core true true true) core l.ctx d j
  match backIn s core l.ctx d j, sliceKeys s core l.ctx d false, sliceKeys s core l.ctx d true with
  | .inl b, .inl ks, .inl vs =>
    let c := coreOf s core
    let at_ (k : Nat) (r n : Nat) : MWord := if j = 0 then (0, false) else let a := bankAcc (bankOf c m k) r n; (a.v, a.pois)
    let o := backTile d j b ks vs (at_ 0) (at_ 1)
    let s := putRows (putRows (putRows u core m 3 o.dP) core m 2 o.sT) core m 1 o.dV
    let s := putRows (putRows s core m 0 o.dK) core m 2 o.q
    let e := tileEpi m
    let n := headDim d
    let rows := List.range (backRows d)
    let v (i k : Nat) : MWord := (o.dQ.getD i []).getD k (0, false)
    if eCount e = 1 then
      let w : TileOut := { core, base := t.lsBase, ctx := l.ctx, mode := l.policy.mode, seed := l.seed, promoted := false, kind := 2, idx := core, loc := false }
      let sampled := sampleTile l e (isPromoted l core m)
      let r := putTile w e rows n sampled (fun i k => stages core (coreOf s core) t.lsBase e false i k (v i k)) s
      let u := if fourBit (eOut e) || eOut e = 13 then tallyPush r.acc.1 l.op (tileCounts l (zeros 64) e sampled r) else r.acc.1
      if r.acc.2 != 0 then backFail u core m r.acc.2 else updMat u core m (fun m => { m with stage := 1, tile := j + 1 })
    else
      let r := putRecord s l.ctx (eScratch e + 32768 * eSplit e) 1024 core rows (fun i => ((List.range n).map (v i)).flatMap wordBytes)
      if r.2 != 0 then backFail r.1 core m r.2 else updMat r.1 core m (fun m => { m with stage := 3 })
  | .inr x, _, _ => banksFail u core m 4 x
  | _, .inr x, _ => banksFail u core m 4 x
  | _, _, .inr x => banksFail u core m 4 x
/-- After the last tile dK and dV leave the core; the token waits for the operation's combines. -/
def backEnd (s : State) (core : Nat) (m : MatOp) (l : Launch) : State :=
  let d := m.desc
  let hd := headDim d
  let c := coreOf s core
  if s.krn.combq.any (fun q => q.2.any (fun x => x.core == core && x.launch == m.launch && x.set == m.set && x.slot == m.slot && x.tok == m.tok)) then s
  else
    let dK := (bankRows (bankOf c m 0) hd).zipIdx.map (fun r =>
      let y := r.1.map (fun w => (fmul w.1 (scoreScale d), w.2))
      if ropeK d then rotate d true (32 * fld d 174 2 + r.2) y else y)
    let dV := bankRows (bankOf c m 1) hd
    let put (acc : State × Nat) (a : Nat) (r : List MWord) : State × Nat :=
      if acc.2 == 4 || acc.2 == 6 then acc
      else
        let b := r.flatMap wordBytes
        let w := vwrite acc.1 l.ctx a b 2 core
        (coreSees w.1 l.ctx core a b.length, if w.2 != 0 then w.2 else if anyPois b then 5 else acc.2)
    let r := (dK ++ dV).zipIdx.foldl (fun a x => put a (fld d 160 8 + 4 * hd * x.2) x.1) (s, 0)
    if r.2 = 0 then matDone r.1 core m else backFail r.1 core m r.2
def attBackward (core : Nat) (s : State) : State :=
  match attReady s core 3 4 with
  | some (m, l, t) => if m.tile < fld m.desc 172 2 then backStep s core m l t else backEnd s core m l
  | none => s
def execAttentionBackward (core : Nat) (s : State) : Host.Outcome State Fault Refusal := .next (keepMat s (attBackward core s))

end Sys2Proof.Machine
end

