-- ==== Sys2Proof/Machine/Buckets.lean ====
section
/-! DEFINITION. The admission of what a token bucket holds (R278, R279). -/
namespace Sys2Proof.Machine

/-- Bytes of what a bucket holds. -/
def heldBytes (s : State) : Held → Nat
  | .mem r => reqBytes s r
  | .host (.bar4Read _ _ len _) => up64 len
  | .host (.bar4Write _ _ data _ _) => up64 data.length
  | .host _ => 0
/-- What leaves its bucket goes its way: a request to its slice, the host's access to the lines it names. -/
def letOut (s : State) (key : Nat) : Held → State
  | .mem r => depart s key r
  | .host (.bar4Read fn offset len how) => bar4Read fn offset len how s
  | .host (.bar4Write fn offset data ep how) => bar4Write fn offset data ep how s
  | .host _ => s
/-- The oldest held request leaves its port when the bucket holds its bytes; a refill comes first. -/
def admitReq (kind port cls : Nat) (s : State) : State :=
  let key := portKey kind port cls
  match tfind s.fab.bkt key with
  | none => s
  | some b =>
    let cfg := bktCfg s (keyPart s key) kind cls
    let tok := refill b cfg s.tick
    let put (b : Bucket) : State := { s with fab := { s.fab with bkt := tset s.fab.bkt key b } }
    match b.held with
    | [] => put { b with tok := tok, at_ := s.tick }
    | h :: rest =>
      let n := 64 * heldBytes s h
      if tok < n && bits cfg 0 16 != 0 then put { b with tok := tok, at_ := s.tick }
      else
        match h with
        | .mem r => depart (put { tok := tok - n, at_ := s.tick, held := rest }) key r
        | .host c =>
          let t := letOut (put { tok := tok, at_ := s.tick, held := [] }) key (.host c)
          { t with fab := { t.fab with bkt := tset t.fab.bkt key { bucketAt t key with held := rest } } }
def execBucketAdmit (kind port cls : Nat) (s : State) : Host.Outcome State Fault Refusal := .next (keepHost s (admitReq kind port cls s))

end Sys2Proof.Machine
end

