-- ==== Sys2Proof/Machine/Collectives.lean ====
section
/-! DEFINITION. Collectives and point-to-point operations (R357 to R365, R368, R369). A command records what has
arrived or been admitted; `pump` then starts the operations that may run and does all that each one is free to do. -/
namespace Sys2Proof.Machine

/-- What Span work may change. -/
def keepSpan (s t : State) : State := { keepWork s t with span := t.span, pwr := { s.pwr with doms := t.pwr.doms, wait := t.pwr.wait }, trust := { s.trust with
  log := t.trust.log, seq := t.trust.seq, chain := t.trust.chain, pchain := t.trust.pchain, logFull := t.trust.logFull } }

/-! Sizes (R360 to R362). -/
def elW (el : Nat) : Nat := if el = 1 then 2 else 4
def ranksN (o : SpanOp) : Nat := o.grp.ranks.length
/-- Q: elements of a chunk. -/
def chunkQ (p e : Nat) : Nat := cdiv (cdiv e p) 64 * 64
/-- Bytes of chunk c. -/
def chunkB (o : SpanOp) (c : Nat) : Nat :=
  let q := chunkQ (ranksN o) o.count
  (Nat.min ((c + 1) * q) o.count - Nat.min (c * q) o.count) * elW o.elem
/-- 128-byte units of a record. -/
def recU (o : SpanOp) : Nat := cdiv (chunkQ (ranksN o) o.count * elW o.elem) 128
def scratchNeed (o : SpanOp) : Nat :=
  if o.kind ≤ 1 then ranksN o * recU o * 128 else if o.kind = 3 then 4 * ranksN o * ranksN o else 0
def lenOf (o : SpanOp) (s d : Nat) : Nat := tget o.lens 0 (ranksN o * s + d)
/-- Units from DST_VA at which source s's segment starts at rank d. -/
def segAt (o : SpanOp) (s d : Nat) : Nat :=
  cdiv (8 * ranksN o) 128 + suml ((List.range s).map (fun i => cdiv (lenOf o i d) 128))
/-- Bytes of DATA expected from a rank, by key: result chunks under 256 + rank. -/
def expect (o : SpanOp) (k : Nat) : Nat :=
  if o.kind ≤ 1 then (if k < 256 then chunkB o o.grp.rank else if o.kind = 0 then chunkB o (k - 256) else 0)
  else if k ≥ 256 then 0
  else if o.kind = 2 then o.count
  else if o.kind = 3 then lenOf o k o.grp.rank
  else if o.kind = 5 && k = o.peer then o.agreed.getD 0 else 0
def gotAll (o : SpanOp) (k : Nat) : Bool := expect o k ≤ tget o.got 0 k

/-! Memory (R274, R368). -/
/-- Reduction traffic is LATENCY, other payload BULK. -/
def spanCls (o : SpanOp) : Nat := if o.kind ≤ 1 then 1 else 2
def spanPortOf (o : SpanOp) : Nat := (rankPorts o.grp ((others o).headD 0)).headD 0
/-- Bytes of the ring's context, or the status that fails the operation. -/
def spanRead (s : State) (o : SpanOp) (va n kind idx : Nat) : State × (Nat ⊕ List MByte) :=
  match vpeek s o.ctx va n (portPlace kind idx) with
  | .ok l => (vnote s o.ctx va n kind idx, if anyPois l && busMode s o.part then .inl 6 else .inr l)
  | .fault => (s, .inl 4)
  | .bus => (vnote s o.ctx va n kind idx, .inl 6)
def spanWrite (s : State) (o : SpanOp) (va : Nat) (b : List MByte) (kind idx : Nat) : State :=
  let w := vwrite s o.ctx va b kind idx
  if w.2 = 0 then w.1 else failSpan w.1 o.op w.2 o.grp.rank
/-- DATA messages of at most 4,096 bytes to a rank. -/
def dataOut (s : State) (o : SpanOp) (r off : Nat) (b : List MByte) : State :=
  (List.range (cdiv b.length 4096)).foldl (fun s i =>
    spanOut s (some o.op) (rankPorts o.grp r) (spanMsg s o r 1 0 (off + 32 * i) ((b.drop (4096 * i)).take 4096))) s
def sendRange (s : State) (o : SpanOp) (r va n off : Nat) : State :=
  if n = 0 then s
  else
    let p := (rankPorts o.grp r).headD 0
    match spanRead (latFree s 4 p (spanCls o) n) o va n 4 p with
    | (s, .inl st) => failSpan s o.op st o.grp.rank
    | (s, .inr b) => dataOut s o r off b
/-- A local move: the rank's own chunk, bytes or segment. -/
def localMove (s : State) (o : SpanOp) (src dst n : Nat) : State :=
  if n = 0 then s
  else match spanRead s o src n 4 (spanPortOf o) with
    | (s, .inl st) => failSpan s o.op st o.grp.rank
    | (s, .inr b) => spanWrite s o dst b 4 (spanPortOf o)

/-! What a running operation is free to do. -/
def withSp (s : State) (id : Nat) (f : SpanOp → State) : State :=
  match spOp s id with
  | some o => f o
  | none => s
def markSent (s : State) (id k : Nat) : State := updSp s id (fun o => { o with sent := sadd o.sent k })
/-- Send-table entry of ALL_TO_ALL for a rank: address and length. -/
def sendEntry (b : Bytes) (r : Nat) : Nat × Nat := (fld b (16 * r) 8, fld b (16 * r + 8) 4)
/-- First DATA to a rank whose READY is held; segments also wait for every GO. -/
def sendTo (s : State) (id r : Nat) : State :=
  withSp s id (fun o =>
    let free := if o.kind = 3 then o.go.length == ranksN o else true
    if !o.ready.contains r || o.sent.contains r || !free then s
    else
      let s := markSent s id r
      if o.kind ≤ 1 then sendRange s o r (o.src + r * chunkQ (ranksN o) o.count * elW o.elem) (chunkB o r) (o.grp.rank * recU o)
      else if o.kind = 2 then sendRange s o r o.src o.count (o.grp.rank * (o.count / 128))
      else match spanRead s o o.src (16 * ranksN o) 4 (spanPortOf o) with
        | (s, .inl st) => failSpan s id st o.grp.rank
        | (s, .inr t) => sendRange s o r (sendEntry (bytesOf t) r).1 (lenOf o o.grp.rank r) (segAt o o.grp.rank r))
/-- One element of the records, combined in the tree over ranks, with its mark (R134, R360). -/
def combined1 (o : SpanOp) (recs : List (List MByte)) (i : Nat) : List MByte :=
  let w := elW o.elem
  let xs := recs.map (fun r => (r.drop (w * i)).take w)
  let v := combineElem o.elem (o.red % 4) (bit o.red 2) (xs.map (fun x => unle (bytesOf x)))
  (le w v).map (fun b => (b, xs.any anyPois))
/-- The reduction units of a partition, by linear cluster index, without those of retired columns. -/
def redUnits (s : State) (part : Nat) : List Nat :=
  ((partTents s part).flatMap (fun t => (List.range 8).map (· + 8 * t))).filter (fun k => !s.fab.cut.contains k)
/-- Bytes off to off + n of every record, read by a reduction unit. -/
def readRecords (s : State) (o : SpanOp) (off n red : Nat) : State × (Nat ⊕ List (List MByte)) :=
  (List.range (ranksN o)).foldl (fun a r =>
    match a.2 with
    | .inl st => (a.1, .inl st)
    | .inr l =>
      match spanRead a.1 o (o.grp.scratch + 128 * (r * recU o) + off) n 6 red with
      | (s, .inl st) => (s, .inl st)
      | (s, .inr b) => (s, .inr (l ++ [b]))) (s, .inr [])
/-- One range of 4,096 elements, by the reduction unit whose turn it is. -/
def combineRange (s : State) (o : SpanOp) (i : Nat) : State :=
  let us := redUnits s o.part
  let red := us.getD (i % us.length) 0
  let w := elW o.elem
  let me := o.grp.rank
  let n := Nat.min (4096 * w) (chunkB o me - 4096 * w * i)
  match readRecords s o (4096 * w * i) n red with
  | (s, .inl st) => failSpan s o.op st me
  | (s, .inr l) =>
    let out := (List.range (n / w)).flatMap (combined1 o l)
    spanWrite s o ((if o.kind = 0 then o.dst + me * chunkQ (ranksN o) o.count * w else o.dst) + 4096 * w * i) out 6 red
/-- The owner combines its chunk when every record has arrived (R360 steps 2 to 5). -/
def combineStep (s : State) (id : Nat) : State :=
  withSp s id (fun o =>
    if o.kind > 1 || o.combined || !(others o).all (gotAll o) then s
    else
      let s := updSp s id (fun o => { o with combined := true })
      (List.range (cdiv (chunkB o o.grp.rank) (4096 * elW o.elem))).foldl (fun s i => withSp s id (fun o => combineRange s o i)) s)
/-- ALL_REDUCE: the owner's result chunk goes to a rank whose READY is held. -/
def sendResult (s : State) (id r : Nat) : State :=
  withSp s id (fun o =>
    if o.kind != 0 || !o.combined || !o.ready.contains r || o.sent.contains (256 + r) then s
    else
      let me := o.grp.rank
      let off := me * chunkQ (ranksN o) o.count * elW o.elem
      sendRange (markSent s id (256 + r)) o r (o.dst + off) (chunkB o me) (ranksN o * recU o + off / 128))
/-- ALL_TO_ALL phase 2: every row of lengths is held, so the space is known (R362). -/
def rowsHeld (o : SpanOp) : Bool := (List.range (ranksN o * ranksN o)).all (fun k => (tfind o.lens k).isSome)
def spaceNeed (o : SpanOp) : Nat := 128 * segAt o (ranksN o) o.grp.rank
def goStep (s : State) (id : Nat) : State :=
  withSp s id (fun o =>
    if o.kind != 3 || !rowsHeld o || o.go.contains o.grp.rank then s
    else if spaceNeed o ≤ o.count && spaceNeed o ≤ 2 ^ 39 then
      (others o).foldl (fun s r => spanSend s o r 7) (updSp s id (fun o => { o with go := sadd o.go o.grp.rank }))
    else failSpan s id 1 o.grp.rank)
/-- ALL_TO_ALL phase 3 at the receiver: the table and the rank's own segment, once every GO is held. -/
def tableStep (s : State) (id : Nat) : State :=
  withSp s id (fun o =>
    if o.kind != 3 || o.combined || o.go.length != ranksN o then s
    else
      let me := o.grp.rank
      let s := updSp s id (fun o => { o with combined := true })
      let t := (List.range (ranksN o)).flatMap (fun r => le 4 (segAt o r me) ++ le 4 (lenOf o r me))
      let s := spanWrite s o o.dst (plainBytes t) 4 (spanPortOf o)
      withSp s id (fun o =>
        match spanRead s o o.src (16 * ranksN o) 4 (spanPortOf o) with
        | (s, .inl st) => failSpan s id st me
        | (s, .inr b) => localMove s o (sendEntry (bytesOf b) me).1 (o.dst + 128 * segAt o me me) (lenOf o me me)))
/-- DONE to a rank all of whose DATA has been performed (R363). -/
def doneStep (s : State) (id r : Nat) : State :=
  withSp s id (fun o =>
    let known := if o.kind = 3 then rowsHeld o else if o.kind = 5 then o.agreed.isSome && r == o.peer else o.kind < 4
    if !known || o.doneTo.contains r || !gotAll o r || !gotAll o (256 + r) || expect o r + expect o (256 + r) = 0 then s
    else spanSend (updSp s id (fun o => { o with doneTo := sadd o.doneTo r })) o r 5)
/-- Bytes of DATA this rank sends to another. -/
def toSend (o : SpanOp) (r : Nat) : Nat :=
  if o.kind ≤ 1 then chunkB o r + (if o.kind = 0 then chunkB o o.grp.rank else 0)
  else if o.kind = 2 then o.count else if o.kind = 3 then lenOf o o.grp.rank r else 0
/-- Outputs performed, sends made and DONE held from every peer that was sent data (R363). -/
def endStep (s : State) (id : Nat) : State :=
  withSp s id (fun o =>
    let rs := others o
    let coll := o.combined && rs.all (fun r => gotAll o r && gotAll o (256 + r) && o.sent.contains r &&
      (o.kind != 0 || o.sent.contains (256 + r)) && (toSend o r = 0 || o.done.contains r))
    if o.kind ≤ 3 then
      if coll then endSpan s id (if o.kind = 3 then suml ((List.range (ranksN o)).map (fun r => lenOf o r o.grp.rank)) else 0) else s
    else if o.kind = 4 then (if o.sent.contains o.peer && o.done.contains o.peer then endSpan s id o.count else s)
    else if o.agreed.isSome && o.doneTo.contains o.peer then endSpan s id (o.agreed.getD 0) else s)
/-- SPAN_RECV takes the oldest REQ that matches (R364). -/
def matchReq (s : State) (id : Nat) : State :=
  withSp s id (fun o =>
    if o.kind != 5 || o.agreed.isSome then s
    else
      let hit (h : Nat × SpanMsg) : Bool := h.1 == o.part && h.2.group == o.grp.id && h.2.seq == o.seq && h.2.rank == o.peer
      match s.span.reqs.find? hit with
      | none => s
      | some h =>
        let n := fld h.2.payload 0 8
        let s := { s with span := { s.span with reqs := s.span.reqs.erase h } }
        let s := updSp s id (fun o => { o with agreed := some n })
        if n > o.count then failSpan s id 1 o.grp.rank else spanSend s o o.peer 4)
/-- SPAN_SEND: DATA once CLEAR is held. -/
def sendBuf (s : State) (id : Nat) : State :=
  withSp s id (fun o =>
    if o.kind != 4 || o.agreed.isNone || o.sent.contains o.peer then s
    else sendRange (markSent s id o.peer) o o.peer o.src o.count 0)
/-- Everything a running operation is free to do. -/
def progress (s : State) (id : Nat) : State :=
  match spOp s id with
  | none => s
  | some o =>
    if !o.running then s
    else
      let rs := others o
      if o.kind ≤ 3 then
        let s := tableStep (goStep s id) id
        let s := rs.foldl (fun s r => sendTo s id r) s
        let s := combineStep s id
        let s := rs.foldl (fun s r => sendResult s id r) s
        endStep (rs.foldl (fun s r => doneStep s id r) s) id
      else endStep (doneStep (sendBuf (matchReq s id) id) id o.peer) id

/-! Control messages held until their operation runs (R359). -/
def holdRoom (s : State) (p : Nat) : Bool :=
  (s.span.held.filter (fun h => h.1 == p)).length + (s.span.reqs.filter (fun h => h.1 == p)).length < 1024
/-- A rank's row of lengths, into the matrix and into scratch. -/
def takeRow (s : State) (o : SpanOp) (r : Nat) (b : Bytes) : State :=
  let n := ranksN o
  let row := (List.range n).map (fun d => fld b (4 * d) 4)
  let s := updSp s o.op (fun o => { o with lens := (row.zipIdx).foldl (fun t x => tset t (n * r + x.2) x.1) o.lens })
  spanWrite s o (o.grp.scratch + 4 * n * r) (plainBytes (row.flatMap (le 4))) 4 (spanPortOf o)
/-- A control message reaches a running operation. -/
def noteCtl (s : State) (o : SpanOp) (m : SpanMsg) : State :=
  match m.type with
  | 2 => updSp s o.op (fun o => { o with ready := sadd o.ready m.rank })
  | 4 => updSp s o.op (fun o => { o with agreed := some o.count })
  | 5 => updSp s o.op (fun o => { o with done := sadd o.done m.rank })
  | 6 => takeRow s o m.rank m.payload
  | 7 => updSp s o.op (fun o => { o with go := sadd o.go m.rank })
  | 8 => failSpan s o.op m.info m.rank
  | _ => s
def heldFor (o : SpanOp) (h : Nat × SpanMsg) : Bool :=
  h.1 == o.part && h.2.group == o.grp.id && h.2.seq == o.seq && (o.kind ≤ 3 || h.2.rank == o.peer)
/-- An operation begins to run: READY or REQ is sent, the rank's own part is moved, held messages are taken. -/
def startSp (s : State) (id : Nat) : State :=
  withSp s id (fun o =>
    let o := { o with running := true }
    let me := o.grp.rank
    let s := updSp s id (fun _ => o)
    let s :=
      if o.kind ≤ 3 then
        let s := (others o).foldl (fun s r => spanSend s o r 2) s
        if o.kind ≤ 1 then
          localMove s o (o.src + me * chunkQ (ranksN o) o.count * elW o.elem) (o.grp.scratch + 128 * (me * recU o)) (chunkB o me)
        else if o.kind = 2 then localMove (updSp s id (fun o => { o with combined := true })) o o.src (o.dst + me * o.count) o.count
        else match spanRead s o o.src (16 * ranksN o) 4 (spanPortOf o) with
          | (s, .inl st) => failSpan s id st me
          | (s, .inr b) =>
            let row := (List.range (ranksN o)).flatMap (fun r => le 4 (sendEntry (bytesOf b) r).2)
            takeRow ((others o).foldl (fun s r => spanSend s o r 6 row) s) o me row
      else if o.kind = 4 then spanSend s o o.peer 3 (le 8 o.count)
      else s
    let mine := s.span.held.filter (heldFor o)
    let s := { s with span := { s.span with held := s.span.held.filter (fun h => !heldFor o h) } }
    mine.foldl (fun s h => withSp s id (fun o => noteCtl s o h.2)) s)
/-- R359: at most 64 active operations of a partition, and one collective of a GROUP_ID at a time, in admission order. -/
def mayRun (s : State) (o : SpanOp) : Bool :=
  let mine := s.span.ops.filter (fun x => x.part == o.part)
  !o.running && (mine.filter (·.running)).length < 64 &&
  (o.kind > 3 || !mine.any (fun x => x.op < o.op && x.kind ≤ 3 && x.grp.id == o.grp.id))
def startAll (s : State) : State :=
  s.span.ops.foldl (fun s o => match spOp s o.op with
    | some o => if mayRun s o then startSp s o.op else s
    | none => s) s
/-- Starts and progress, as often as an end may let another operation run. -/
def pumpGo : Nat → State → State
  | 0, s => s
  | n + 1, s =>
    let t := startAll s
    let t := t.span.ops.foldl (fun s o => progress s o.op) t
    if t.span.ops.length = s.span.ops.length then t else pumpGo n t
def pump (s : State) : State := pumpGo (s.span.ops.length + 1) s

/-! Admission of the operations (R357, R358, R364). -/
/-- A group table of P ranks: the status that refuses it, or the group. -/
def groupTable (s : State) (o : Op) (va : Nat) : Nat ⊕ Group :=
  let get (n : Nat) : Nat ⊕ Bytes :=
    match vpeek s (opCtx s o) va n 8 with
    | .ok l => if anyPois l && busMode s (opPart s o) then .inl 6 else .inr (bytesOf l)
    | .fault => .inl 4
    | .bus => .inl 6
  match get 32 with
  | .inl st => .inl st
  | .inr h =>
    let n := fld h 4 2
    let me := fld h 6 2
    if n < 2 || n > 256 || me ≥ n || fld h 8 8 % 128 != 0 || fld h 24 8 != 0 then .inl 3
    else match get (32 + 8 * n) with
      | .inl st => .inl st
      | .inr b =>
        let e (r : Nat) : Nat × List Nat :=
          (fld b (32 + 8 * r) 2, ((List.range 4).map (fun i => fld b (34 + 8 * r + i) 1)).filter (· != 0xFF))
        let ok := (List.range n).all (fun r => (e r).1 ≤ 1023 && fld b (38 + 8 * r) 2 = 0 &&
          (e r).2.all (fun q => q < 18 && portPart s q == opPart s o) && (r != me || (e r).2 == []))
        if !ok then .inl 3
        else .inr { id := fld h 0 4, rank := me, scratch := fld h 8 8, scratchLen := fld h 16 8, ranks := (List.range n).map e }
def spanSort (l : List SpanOp) (o : SpanOp) : List SpanOp :=
  l.filter (fun x => x.op < o.op) ++ [o] ++ l.filter (fun x => o.op < x.op)
/-- The checks have passed: the operation joins the active ones. -/
def joinSpan (s : State) (x : SpanOp) : State :=
  pump (updOp { s with span := { s.span with ops := spanSort s.span.ops x } } x.op (fun o => { o with stage := 1 }))
/-- Input and output of a collective are equal or apart. -/
def apartOrSame (a n b m : Nat) : Bool := a == b || a + n ≤ b || b + m ≤ a
def collFieldsOk (o : Op) : Bool :=
  let k := o.f 16 1
  let n := o.f 48 8
  (if k ≤ 1 then (o.f 17 1 == 0 || o.f 17 1 == 1 || o.f 17 1 == 0x0E) && o.f 18 1 < 8 && o.f 18 1 % 4 != 3 && 1 ≤ n && n ≤ 2 ^ 36
   else o.f 17 1 == 0 && o.f 18 1 == 0 && (k == 3 || n % 128 == 0)) &&
  o.f 19 1 == 0 && o.f 24 8 % 64 == 0 && o.f 32 8 % 128 == 0 && o.f 40 8 % 128 == 0 && o.f 60 4 == 0
def collOp (s : State) (o : Op) (g : Group) : SpanOp :=
  { op := o.id, part := opPart s o, ctx := opCtx s o, kind := o.f 16 1, elem := o.f 17 1, red := o.f 18 1, seq := o.f 20 4
    grp := g, src := o.f 32 8, dst := o.f 40 8, count := o.f 48 8, running := false }
def collApart (x : SpanOp) : Bool :=
  let n := ranksN x
  let sl := if x.kind ≤ 1 then x.count * elW x.elem else if x.kind = 2 then x.count else 16 * n
  let dl := if x.kind = 0 then x.count * elW x.elem else if x.kind = 1 then chunkB x x.grp.rank
    else if x.kind = 2 then n * x.count else x.count
  apartOrSame x.src sl x.dst dl
/-- COLLECTIVE of one KIND (R358). -/
def collective (kind op : Nat) (s : State) : State :=
  withOp s op 0x20 0 (fun o =>
    if o.f 16 1 != kind then s
    else if !collFieldsOk o then refuse s op 3
    else match groupTable s o (o.f 24 8) with
      | .inl st => if st = 3 then refuse s op 3 else finish s op st
      | .inr g =>
        let x := collOp s o g
        if !collApart x then refuse s op 3
        else if g.scratchLen < scratchNeed x then refuse s op 1
        else joinSpan s x)
def execAllReduce (op : Nat) (s : State) : Host.Outcome State Fault Refusal := .next (keepSpan s (collective 0 op s))
def execReduceScatter (op : Nat) (s : State) : Host.Outcome State Fault Refusal := .next (keepSpan s (collective 1 op s))
def execAllGather (op : Nat) (s : State) : Host.Outcome State Fault Refusal := .next (keepSpan s (collective 2 op s))
def execAllToAll (op : Nat) (s : State) : Host.Outcome State Fault Refusal := .next (keepSpan s (collective 3 op s))
/-- SPAN_SEND (kind 4) and SPAN_RECV (kind 5). -/
def p2p (code kind op : Nat) (s : State) : State :=
  withOp s op code 0 (fun o =>
    let n := o.f 40 8
    if o.f 16 8 % 64 != 0 || o.f 26 2 != 0 || o.f 32 8 % 128 != 0 || !allZero (slice o.desc 52 12) ||
        (kind == 4 && (n < 1 || n > 2 ^ 36)) then refuse s op 3
    else match groupTable s o (o.f 16 8) with
      | .inl st => if st = 3 then refuse s op 3 else finish s op st
      | .inr g =>
        if o.f 24 2 ≥ g.ranks.length || o.f 24 2 = g.rank then refuse s op 3
        else joinSpan s { op, part := opPart s o, ctx := opCtx s o, kind, elem := 0, red := 0, seq := o.f 28 4, grp := g
                          src := o.f 32 8, dst := o.f 32 8, count := n, running := false, peer := o.f 24 2 })
def execSpanSend (op : Nat) (s : State) : Host.Outcome State Fault Refusal := .next (keepSpan s (p2p 0x21 4 op s))
def execSpanRecv (op : Nat) (s : State) : Host.Outcome State Fault Refusal := .next (keepSpan s (p2p 0x22 5 op s))
/-- TIMEOUT_MS from admission has passed (R365). -/
def spanLate (op : Nat) (s : State) : State :=
  match opOf s op, spOp s op with
  | some o, some x =>
    let ms := if x.kind ≤ 3 then o.f 56 4 else o.f 48 4
    if ms = 0 || s.tick < o.tick + 100000 * ms then s else pump (failSpan s op 8 x.grp.rank)
  | _, _ => s
def execSpanOperationTimeout (op : Nat) (s : State) : Host.Outcome State Fault Refusal := .next (keepSpan s (spanLate op s))

/-! Messages (R353 to R356, R364 to R368). -/
/-- The answer of a discarded message. -/
def nack (s : State) (n info : Nat) (m : SpanMsg) : State :=
  if m.type = 9 then s
  else sendVia s n { type := 9, info, dst := m.src, src := spanAddr s, group := m.group, seq := m.seq, rank := m.rank
                     ttl := 8, offset := 0, poison := 0, payload := [] }
/-- R356: forwarding between ports of one partition. -/
def forward (s : State) (n : Nat) (m : SpanMsg) : State :=
  let q := spanFwd s m.dst
  let drop (info : Nat) : State := nack (detect s 0x535 0 (portPart s n) n 0 []) n info m
  if m.ttl ≤ 1 then drop 3
  else if q ≥ 18 || portPart s q != portPart s n then drop 2
  else spanOut s none [q] { m with ttl := m.ttl - 1 }
/-- A message arrives: tag, epoch, address and partition are judged before it has any effect. -/
def onMsg (type : Nat) (i : SpanIn) (s : State) (k : State → Nat → State) : State :=
  let n := i.port
  let p := portPart s n
  if (portOf s n).st != 4 || i.msg.type != type then s
  else if !i.tagOk then portLeaves (detect s 0x630 2 p n 0 []) n 3 6
  else if i.epoch != epochOf s (584 + n) then staleReturn s (584 + n) p
  else
    let s := setPort s n { portOf s n with rxCount := (portOf s n).rxCount + 1 }
    if i.msg.dst != spanAddr s && type != 10 then forward s n i.msg
    else if type != 10 && ((downOf s p).isSome || s.evt.failed.contains p || !partExists s p) then nack s n 1 i.msg
    else pump (k s p)
/-- The running or waiting operation of a message: a collective by group and OP_SEQ, else point to point by rank and TAG. -/
def msgOp (s : State) (p : Nat) (m : SpanMsg) (ok : SpanOp → Bool) : Option SpanOp :=
  s.span.ops.find? (fun o => heldFor o (p, m) && ok o)
/-- A control message for a running operation acts; for one that does not run yet it is held, or answered BUSY. -/
def control (i : SpanIn) (hold : Bool) (ok : SpanOp → Bool) (s : State) (p : Nat) : State :=
  match msgOp s p i.msg (fun o => o.running && ok o) with
  | some o => noteCtl (noteUsed s (some o.op) i.port) o i.msg
  | none =>
    if hold || (msgOp s p i.msg (fun o => !o.running && ok o)).isSome then
      if holdRoom s p then { s with span := { s.span with held := s.span.held ++ [(p, i.msg)] } } else nack s i.port 4 i.msg
    else s
/-- DATA: written at its offset with its marks; in BUS_ERROR mode a poisoned message fails its operation (R368). -/
def takeData (i : SpanIn) (s : State) (p : Nat) : State :=
  let m := i.msg
  let ok (o : SpanOp) : Bool := o.running && (o.kind ≤ 3 || (o.kind == 5 && o.agreed.isSome && tget o.got 0 m.rank < o.agreed.getD 0))
  match msgOp s p m ok with
  | none => nack s i.port 1 m
  | some o =>
    let s := noteUsed (latFree s 4 i.port (spanCls o) m.payload.length) (some o.op) i.port
    if m.poison != 0 && busMode s p then failSpan s o.op 6 o.grp.rank
    else
      let recs := ranksN o * recU o
      let dst := if o.kind ≤ 1 then (if m.offset < recs then (o.grp.scratch + 128 * m.offset, m.rank)
          else (o.dst + 128 * (m.offset - recs), 256 + m.rank)) else (o.dst + 128 * m.offset, m.rank)
      let b := m.payload.zipIdx.map (fun x => (x.1, bit m.poison (x.2 / 64)))
      let s := updSp s o.op (fun o => { o with got := tupd o.got 0 dst.2 (· + m.payload.length) })
      spanWrite s o dst.1 b 4 i.port
def execSpanData (m : SpanIn) (s : State) : Host.Outcome State Fault Refusal := .next (keepSpan s (onMsg 1 m s (takeData m)))
def execSpanReady (m : SpanIn) (s : State) : Host.Outcome State Fault Refusal :=
  .next (keepSpan s (onMsg 2 m s (control m true (fun o => o.kind ≤ 3))))
/-- A REQ joins those not yet matched; it is refused only where nothing waits for it and the store is full. -/
def takeReq (i : SpanIn) (s : State) (p : Nat) : State :=
  let m := i.msg
  let wanted := (msgOp s p m (fun o => o.running && o.kind == 5 && o.agreed.isNone))
  match wanted with
  | some o => { noteUsed s (some o.op) i.port with span := { (noteUsed s (some o.op) i.port).span with reqs := s.span.reqs ++ [(p, m)] } }
  | none => if holdRoom s p then { s with span := { s.span with reqs := s.span.reqs ++ [(p, m)] } } else nack s i.port 4 m
def execSpanReq (m : SpanIn) (s : State) : Host.Outcome State Fault Refusal := .next (keepSpan s (onMsg 3 m s (takeReq m)))
def execSpanClear (m : SpanIn) (s : State) : Host.Outcome State Fault Refusal :=
  .next (keepSpan s (onMsg 4 m s (control m false (fun o => o.kind == 4 && o.agreed.isNone))))
def execSpanDone (m : SpanIn) (s : State) : Host.Outcome State Fault Refusal :=
  .next (keepSpan s (onMsg 5 m s (control m false (fun o => o.kind ≤ 3 || (o.kind == 4 && o.agreed.isSome && !o.done.contains o.peer)))))
def execSpanCounts (m : SpanIn) (s : State) : Host.Outcome State Fault Refusal :=
  .next (keepSpan s (onMsg 6 m s (control m true (fun o => o.kind == 3))))
def execSpanGo (m : SpanIn) (s : State) : Host.Outcome State Fault Refusal :=
  .next (keepSpan s (onMsg 7 m s (control m true (fun o => o.kind == 3))))
def execSpanAbort (m : SpanIn) (s : State) : Host.Outcome State Fault Refusal :=
  .next (keepSpan s (onMsg 8 m s (control m false (fun _ => true))))
/-- NACK (R365): BUSY is repeated later, NO_GROUP is STALE_ROLE, UNREACHABLE and TTL are BUS_ERROR. -/
def takeNack (i : SpanIn) (s : State) (p : Nat) : State :=
  let m := i.msg
  let from_ (o : SpanOp) : List Nat := (others o).filter (fun r => rankAddr o.grp r == m.src)
  let mine (o : SpanOp) : Bool := o.running && o.part == p && o.grp.id == m.group && o.seq == m.seq
  match s.span.ops.find? mine with
  | none => s
  | some o =>
    let r := (from_ o).headD o.grp.rank
    if m.info = 4 then updSp s o.op (fun o => { o with retry := sadd o.retry r })
    else failSpan s o.op (if m.info = 1 then 7 else 6) r
def execSpanNack (m : SpanIn) (s : State) : Host.Outcome State Fault Refusal := .next (keepSpan s (onMsg 9 m s (takeNack m)))
/-- The control messages that a rank may have refused as BUSY go to it again (R359). -/
def busyRetry (op : Nat) (s : State) : State :=
  withSp s op (fun o =>
    let s := updSp s op (fun o => { o with retry := [] })
    let row := (List.range (ranksN o)).flatMap (fun r => le 4 (lenOf o o.grp.rank r))
    o.retry.foldl (fun s r =>
      if o.kind ≤ 3 then
        let s := spanSend s o r 2
        if o.kind = 3 then
          let s := spanSend s o r 6 row
          if o.go.contains o.grp.rank then spanSend s o r 7 else s
        else s
      else if o.kind = 4 then spanSend s o r 3 (le 8 o.count) else s) s)
def execSpanBusyRetry (op : Nat) (s : State) : Host.Outcome State Fault Refusal := .next (keepSpan s (busyRetry op s))
/-- RELEASE: the port enters DETECT and the operations using it end with STALE_ROLE (R365). -/
def execSpanRelease (m : SpanIn) (s : State) : Host.Outcome State Fault Refusal :=
  .next (keepSpan s (onMsg 10 m s (fun s _ => portLeaves s m.port 1 7)))

end Sys2Proof.Machine
end

