-- ==== Sys2Proof/Machine/Management.lean ====
section
/-! DEFINITION. The management buses and the module's own checks (R466 to R470, R479, R508, R509), the carrier's
auxiliary supply (R429, R510) and the clock's alignment (R416). -/
namespace Sys2Proof.Machine

def keepMgt (s t : State) : State := { s with mgt := t.mgt, evt := t.evt, thm := { s.thm with leak := t.thm.leak, leakRun := t.thm.leakRun },
                                              gly := { s.gly with st := t.gly.st, hold := t.gly.hold, grant := t.gly.grant, next := t.gly.next } }
/-- Full service (R466): PITCHED, OPEN, and STRIKING to step 5 of the seal. -/
def mgtFull (s : State) : Bool := posting s
/-- The transport carries messages: I3C (0) with a dynamic address, PCIe (1) from configuration-space ready. -/
def transportUp (s : State) (tr : Nat) : Bool :=
  (mgtFull s || s.dev.st == .pitching) && (if tr = 0 then s.mgt.i3c.isSome else s.link.cfgReady)
/-- A message leaves in transmission units of 64 bytes (R467); transport 2 is the FRU EEPROM's own, 3 the I3C bus itself. -/
def unitsOf (tr : Nat) (b : Bytes) : List Bytes :=
  if tr ≥ 2 || b.length ≤ 64 then [b] else (List.range (cdiv b.length 64)).map (fun i => (b.drop (64 * i)).take 64)
def mgtSend (s : State) (tr req : Nat) (b : Bytes) : State :=
  { s with mgt := { s.mgt with out := s.mgt.out ++ (unitsOf tr b).map (fun x => (tr, req, x)) } }

/-- ENTDAA: a target that has no address offers its provisional ID, built from the serial, and takes the one assigned (R467). -/
def assign (addr : Nat) (s : State) : State :=
  if (mgtFull s || s.dev.st == .pitching) && s.mgt.i3c.isNone then
    mgtSend { s with mgt := { s.mgt with i3c := some addr } } 3 addr (Config.provisionalId Config.serial)
  else s
def execEntdaa (addr : Nat) (s : State) : Host.Outcome State Fault Refusal := .next (keepMgt s (assign addr s))

def mctpCode : MctpType → Nat
  | .control => 0
  | .pldm => 1
  | .spdm => 5
  | .other => 0x7F
/-- R467: control is answered at once; PLDM and SPDM go to their responders, one message of a type in flight for each
requester; any other type, and a message beyond 4,096 bytes, is dropped. Set Endpoint ID (command 1) sets the transport's
EID: PRESUMED layout of the DMTF base specification. -/
def mctp (tr req : Nat) (ty : MctpType) (body : Bytes) (s : State) : State :=
  if tr > 1 || !transportUp s tr || body.length > 4096 then s
  else match ty with
  | .other => s
  | .control =>
    let s := if fld body 0 1 = 1 then { s with mgt := { s.mgt with eid := tset s.mgt.eid tr (fld body 2 1) } } else s
    mgtSend s tr req (Config.pldmAnswer 0x100 (fld body 0 1) body)
  | _ =>
    let k := (2 * req + tr, mctpCode ty)
    if s.mgt.inflight.contains k then s else { s with mgt := { s.mgt with inflight := s.mgt.inflight ++ [k] } }
def execMctpMessage (transport requester : Nat) (type : MctpType) (body : Bytes) (s : State) : Host.Outcome State Fault Refusal :=
  .next (keepMgt s (mctp transport requester type body s))

/-- The requester of the oldest message of a type, and the state without it. -/
def takeInflight (s : State) (code : Nat) : (Nat × Nat) × State :=
  match s.mgt.inflight.find? (fun k => k.2 == code) with
  | some k => ((k.1 % 2, k.1 / 2), { s with mgt := { s.mgt with inflight := s.mgt.inflight.filter (· != k) } })
  | none => ((0, 0), s)
/-- The 1 ms running mean of input power in watts (R414, R469). -/
def inputWatts (s : State) : Nat := if s.pwr.pin = [] then 0 else suml s.pwr.pin / s.pwr.pin.length
/-- The sensor set of R469, as a signed reading. -/
def sensorVal (s : State) (id : Nat) : Option Int :=
  if id = 1 then some (s.dev.st.code : Int)
  else if id = 2 then some (s.pwr.vin / 10) else if id = 3 then some ((s.pwr.iin / 10 : Nat) : Int)
  else if id = 4 then some (inputWatts s : Int) else if id = 5 then some (s.pwr.eff : Int)
  else if id = 6 then some (s.thm.level : Int) else if id = 7 then some s.thm.lid
  else if id = 8 then some (s.thm.leak : Int) else if id = 9 then some (s.evt.alert : Int)
  else if id = 10 then some ((s.gly.st + 8 * s.gly.pos : Nat) : Int)
  else if 16 ≤ id && id < 92 then some (regionMax s (id - 16))
  else if 96 ≤ id && id < 120 then some (tget s.hbm.stk {} (id - 96)).rep
  else if 128 ≤ id && id < 136 then
    some (wearEst (wearOf s (id - 128)).bins : Int)
  else none
/-- R466, R468: Type 0 answers, Type 2 answers from PITCHED and is not ready before; every other type is invalid. A sensor
reading (GetSensorReading 0x11, GetStateSensorReadings 0x21) carries the sensor's value in the binding's own form. -/
def pldm (ty cmd : Nat) (body : Bytes) (s : State) : State :=
  if !(mgtFull s || s.dev.st == .pitching) then s
  else
    let r := takeInflight s 1
    let ans : Bytes :=
      if ty = 0 then Config.pldmAnswer 0 cmd body
      else if ty != 2 then le 1 0x20
      else if !mgtFull s then le 1 0x04
      else if cmd = 0x11 || cmd = 0x21 then match sensorVal s (fld body 0 2) with
        | some v => Config.pldmAnswer 2 cmd (slice body 0 2 ++ le 4 (ofS 32 v))
        | none => Config.pldmAnswer 2 cmd (slice body 0 2)
      else Config.pldmAnswer 2 cmd body
    mgtSend r.2 r.1.1 r.1.2 ans
def execPldmRequest (type command : Nat) (body : Bytes) (s : State) : Host.Outcome State Fault Refusal :=
  .next (keepMgt s (pldm type command body s))

/-- R470: effecter 1 clears the named alert bits; a bit set in the same SCLK cycle stays. -/
def ackAlert (eff m setAgain : Nat) (s : State) : State :=
  if eff != 1 || !mgtFull s then s
  else { s with evt := { s.evt with alert := ((s.evt.alert % 32 &&& (31 - m % 32)) ||| setAgain % 32) } }
def execSetStateEffecterStates (effecter bits setAgain : Nat) (s : State) : Host.Outcome State Fault Refusal :=
  .next (keepMgt s (ackAlert effecter bits setAgain s))

/-- R509: the FRU EEPROM answers whenever auxiliary 3.3 V is present, in every state; its 8 KiB repeat. -/
def fruBytes (off len : Nat) : Bytes := (List.range len).map (fun i => Config.fru ((off + i) % 8192))
def readFru (off len : Nat) (s : State) : State := if s.pwr.aux then mgtSend s 2 0x50 (fruBytes off len) else s
def execFruRead (offset len : Nat) (s : State) : Host.Outcome State Fault Refusal := .next (keepMgt s (readFru offset len s))

/-! Pins and the leak rope (R479, R508, R510). -/
def pinNames : List String :=
  ["I3C_SCL", "I3C_SDA", "ALERT_N", "BYPASS_HOLD", "GL_A_P", "GL_A_N", "GL_B_P", "GL_B_N", "THERMTRIP_OUT_N", "LEAK_A", "LEAK_B"]
def ascii (n : String) : Bytes := n.toList.map (fun c => BitVec.ofNat 8 c.toNat)
/-- EV_PIN_FAULT once per start and pin, with name and type. -/
def pinFault (s : State) (pin type : Nat) : State :=
  if s.mgt.pins.contains pin then s
  else detect { s with mgt := { s.mgt with pins := sadd s.mgt.pins pin } } 0x550 2 8 pin 0 (pad (ascii (pinNames.getD pin "")) 16 ++ le 1 type)
def pinCode : PinShort → Nat
  | .ok => 0
  | .toGnd => 1
  | .to3v3 => 2
/-- The check at PITCHED and every second; a shorted BYPASS_HOLD leaves the module bypassed in FAULT. -/
def checkPins (pins : List (Nat × PinShort)) (s : State) : State :=
  if !mgtFull s then s
  else pins.foldl (fun s p =>
    if pinCode p.2 = 0 || p.1 ≥ 11 then s
    else
      let s := pinFault s p.1 (pinCode p.2)
      if p.1 = 3 then { s with gly := { s.gly with st := 5, hold := false, grant := none, next := none } } else s) s
def execPinCheck (pins : List (Nat × PinShort)) (s : State) : Host.Outcome State Fault Refusal := .next (keepMgt s (checkPins pins s))
/-- Class of a rope resistance: 0 DRY, 1 LEAK, 2 OPEN. -/
def leakClass (ohms : Nat) : Nat := if ohms > 50000 then 2 else if ohms ≥ 7000 then 0 else 1
/-- R508: a state changes after three measurements that agree; OPEN posts EV_PIN_FAULT once per start with LEAK_A, type 3. -/
def leak (ohms : Nat) (s : State) : State :=
  if !mgtFull s then s
  else
    let run := (leakClass ohms :: s.thm.leakRun).take 3
    let s := { s with thm := { s.thm with leakRun := run } }
    match run with
    | [a, b, c] =>
      if a = b && b = c && a != s.thm.leak then
        let s := { s with thm := { s.thm with leak := a } }
        if a = 2 then pinFault s 9 3 else s
      else s
    | _ => s
def execLeakMeasure (ohms : Nat) (s : State) : Host.Outcome State Fault Refusal := .next (keepMgt s (leak ohms s))

/-! The clock and the carrier's own supplies. -/
def keepPwr (s t : State) : State := { s with pwr := t.pwr }
/-- R416: dies whose dividers disagree with a marker are realigned and counted. -/
def aligned (dies : List Nat) (s : State) : State :=
  if powered s then { s with pwr := { s.pwr with alignCnt := sat 16 (s.pwr.alignCnt + dies.length) } } else s
def execAlignmentMarker (disagree : List Nat) (s : State) : Host.Outcome State Fault Refusal := .next (keepPwr s (aligned disagree s))
/-- R429, R510: without auxiliary 3.3 V the trip latch, the count of trips and the automatic restart are gone. -/
def auxLost (s : State) : State := { s with pwr := { s.pwr with aux := false, trip := (0, 0, 0), trips := [] } }
def execAux3v3Absent (s : State) : Host.Outcome State Fault Refusal := .next (keepPwr s (auxLost s))
/-- R429: after 10 s without input the hold is released, and with it the latch of the trip that it followed (or whose latch
went with auxiliary 3.3 V): STOWED, as at power-on. -/
def holdRelease (secs : Nat) (s : State) : State :=
  if secs ≥ 10 && !s.pwr.running && (s.pwr.holdOff || (s.pwr.tripOff && !s.pwr.aux)) then
    let t := if s.dev.st == .tripped then stow s else s
    { t with pwr := { t.pwr with holdOff := false, tripOff := false, thermtrip := false, trips := t.pwr.trips.map (· + secs) } }
  else s
def execInputAbsentHoldRelease (secs : Nat) (s : State) : Host.Outcome State Fault Refusal := .next (holdRelease secs s)

end Sys2Proof.Machine
end

