-- ==== Sys2Proof/Machine/Guyline.lean ====
section
/-! DEFINITION. The Guyline ring (R471 to R478). -/
namespace Sys2Proof.Machine

def keepGly (s t : State) : State := { s with gly := t.gly, evt := t.evt, free := t.free }
/-- GLN_STAT.STATE between JOINING and FAULT: the module takes part in the ring. -/
def glnOn (s : State) : Bool := s.gly.hold && 2 ≤ s.gly.st && s.gly.st ≤ 4
/-- A frame of the module's own (R474). -/
def glnSend (s : State) (type : Nat) (body : List Nat) : State :=
  { s with gly := { s.gly with seq := (s.gly.seq + 1) % 2 ^ 32, out := s.gly.out ++
      [frame type 0 (if s.gly.st = 2 then 0xFFFF else s.gly.pos) s.gly.seq body] } }
/-- A frame forwarded: one more hop, and gone at 64. -/
def glnFwd (s : State) (h : GlnHead) (type : Nat) (body : List Nat) : State :=
  if h.hops + 1 ≥ 64 then s
  else { s with gly := { s.gly with out := s.gly.out ++ [frame type (h.hops + 1) h.srcPos h.seq body] } }
def crcGood (h : GlnHead) (type : Nat) (body : List Nat) : Bool := h.crc == (frame type h.hops h.srcPos h.seq body).crc
/-- A frame received: a bad CRC is counted and the frame dropped; a module outside the ring hears nothing. -/
def glnRx (h : GlnHead) (type : Nat) (body : List Nat) (f : State → State) (s : State) : State :=
  if !glnOn s then s
  else if !crcGood h type body then { s with gly := { s.gly with crc := sat 16 (s.gly.crc + 1) } } else f s
def serialNums : List Nat := (pad Config.serial 16).map (·.toNat)
/-- The module's CLAIM starts an election (R472 step 5, R474). -/
def elect (s : State) : State :=
  let s := { s with gly := { s.gly with st := 2, master := false, n := 0, pos := 0 } }
  glnSend s 1 (glnPrio s :: serialNums)

/-- R472 steps 2 to 5; with no signal at either port the module goes on listening. -/
def listened (a b ownIdle : Bool) (s : State) : State :=
  if s.gly.st != 1 || (!a && !b) then s
  else if ownIdle then detect { s with gly := { s.gly with st := 5, hold := false } } 0x543 2 8 0 0 []
  else
    let s := if !a && b then detect { s with gly := { s.gly with swapped := true } } 0x542 0 8 0 0 [] else s
    elect s
def execGuylineListenDone (aSignal bSignal ownIdle : Bool) (s : State) : Host.Outcome State Fault Refusal :=
  .next (keepGly s (listened aSignal bSignal ownIdle s))

/-- Lower of two serials, compared bytewise. -/
def lexLt : List Nat → List Nat → Bool
  | a :: x, b :: y => a < b || (a == b && lexLt x y)
  | [], _ :: _ => true
  | _, [] => false
/-- A claim ranks by higher priority, then lower serial. -/
def outranks (p1 : Nat) (s1 : List Nat) (p2 : Nat) (s2 : List Nat) : Bool := p1 > p2 || (p1 == p2 && lexLt s1 s2)
/-- R474 CLAIM: outside an election the module joins it with a claim of its own; its own claim returning makes it master at
position 0, which sends DISC, but at priority 0, which is never master; another is forwarded when it outranks the module's. -/
def onClaim (h : GlnHead) (prio : Nat) (serial : Bytes) (s : State) : State :=
  let s := if s.gly.st != 2 && !h.own then elect s else s
  if h.own then
    if s.gly.st != 2 || glnPrio s = 0 then s
    else glnSend { s with gly := { s.gly with master := true, st := 3, pos := 0, n := 1, ofs := 0, peers := [] } } 2 [0]
  else if outranks prio (serial.map (·.toNat)) (glnPrio s) serialNums then glnFwd s h 1 (prio :: serial.map (·.toNat))
  else s
def execClaim (h : GlnHead) (prio : Nat) (serial : Bytes) (s : State) : Host.Outcome State Fault Refusal :=
  .next (keepGly s (glnRx h 1 (prio :: serial.map (·.toNat)) (onClaim h prio serial) s))

/-- R474 DISC: each module takes count + 1 as its position; the master counts itself when it returns. A ring of more than 64
runs without a rack budget. A discovery after a repair posts EV_GLN_RING_UP with N and the position (R478). -/
def ringUp (s : State) : State :=
  if s.gly.upDue then detect { s with gly := { s.gly with upDue := false } } 0x540 0 8 0 0 (le 2 s.gly.n ++ le 2 s.gly.pos) else s
def onDisc (h : GlnHead) (count : Nat) (s : State) : State :=
  if h.own then
    let n := count + 1
    let s := ringUp { s with gly := { s.gly with n := n } }
    if n > 64 then detect { s with gly := { s.gly with grant := none, next := none } } 0x544 2 8 0 0 [] else s
  else ringUp (glnFwd { s with gly := { s.gly with st := 3, pos := count + 1, n := count + 2, peers := [] } } h 2 [count + 1])
def execDisc (h : GlnHead) (count : Nat) (s : State) : Host.Outcome State Fault Refusal :=
  .next (keepGly s (glnRx h 2 [count] (onDisc h count) s))

def nowNs (s : State) : Nat := 10 * s.tick
/-- R475: ring time = master time + residence + k (D − 96 N) / N. -/
def ringOffset (s : State) (masterNs residence delay : Nat) : Int :=
  let n : Int := s.gly.n
  (masterNs : Int) + residence + (s.gly.pos : Int) * ((delay : Int) - n * 96) / (if n = 0 then 1 else n) - nowNs s
def onSync (h : GlnHead) (masterNs residence delay : Nat) (s : State) : State :=
  if h.own then { s with gly := { s.gly with delay := nowNs s - s.gly.syncAt } }
  else glnFwd { s with gly := { s.gly with ofs := ringOffset s masterNs residence delay } } h 3 [masterNs, residence + 96, delay]
def execSync (h : GlnHead) (masterNs residence delay : Nat) (s : State) : Host.Outcome State Fault Refusal :=
  .next (keepGly s (glnRx h 3 [masterNs, residence, delay] (onSync h masterNs residence delay) s))

def beatBody (b : Beat) : List Nat :=
  [b.state, b.throttle, b.power10, b.demand25, ofS 16 b.regionMax, ofS 16 b.lid, b.uncorrected, b.fatal]
/-- R474 BEAT: the last of each position is kept; the highest position seen gives a module that is not master its N. -/
def onBeat (h : GlnHead) (b : Beat) (s : State) : State :=
  if h.own then s
  else glnFwd { s with gly := { s.gly with peers := tset s.gly.peers h.srcPos b
                                           n := if s.gly.master then s.gly.n else Nat.max s.gly.n (h.srcPos + 1) } } h 4 (beatBody b)
def execBeat (h : GlnHead) (b : Beat) (s : State) : Host.Outcome State Fault Refusal :=
  .next (keepGly s (glnRx h 4 (beatBody b) (onBeat h b) s))

/-- R477: a share received. A grant that waited for this round applies first; a lower one applies now, a higher one at the
next round. A module that has had none holds 1,200 W. Outside RING (CHAIN, or an election) the share is held. -/
def takeGrant (s : State) (watts : Nat) : State :=
  let cur := s.gly.next.getD (s.gly.grant.getD 1200)
  if s.gly.st != 3 then s
  else if watts ≤ cur then { s with gly := { s.gly with grant := some watts, next := none } }
  else { s with gly := { s.gly with grant := some cur, next := some watts } }
/-- R477 GRANT: for this position, or forwarded; the first round that the module hears gives it 1,200 W. -/
def onGrant (h : GlnHead) (pos watts : Nat) (s : State) : State :=
  if h.own then s
  else if pos = s.gly.pos then takeGrant s watts
  else glnFwd { s with gly := { s.gly with grant := some (s.gly.grant.getD 1200) } } h 5 [pos, watts]
def execGrant (h : GlnHead) (pos watts : Nat) (s : State) : Host.Outcome State Fault Refusal :=
  .next (keepGly s (glnRx h 5 [pos, watts] (onGrant h pos watts) s))

/-- R478: a BREAK puts the module into CHAIN and is posted with the position it carries. -/
def onBreak (h : GlnHead) (pos : Nat) (s : State) : State :=
  if h.own then s
  else
    let s := if s.gly.st != 4 then detect { s with gly := { s.gly with st := 4, next := none } } 0x541 2 8 pos 0 [] else s
    glnFwd s h 6 [pos]
def execGlnBreak (h : GlnHead) (pos : Nat) (s : State) : Host.Outcome State Fault Refusal := .next (keepGly s (glnRx h 6 [pos] (onBreak h pos) s))

/-- R474 LEAVE: the ring elects and discovers again. -/
def onLeave (h : GlnHead) (s : State) : State := if h.own then s else elect (glnFwd s h 7 [])
def execLeave (h : GlnHead) (s : State) : Host.Outcome State Fault Refusal := .next (keepGly s (glnRx h 7 [] (onLeave h) s))

/-- R476: the lower of PWR_LIMIT.WATTS and input power plus 10 %, rounded up to 25 W, at least 1,200 W. -/
def demandW (s : State) : Nat := Nat.max 1200 (cdiv (Nat.min (pwrLimit s) (cdiv (inputWatts s * 11) 10)) 25 * 25)
def ownBeat (s : State) : Beat :=
  { state := s.dev.st.code, throttle := s.thm.level, power10 := inputWatts s / 10, demand25 := demandW s / 25
    regionMax := maxInt ((List.range 76).map (regionMax s)), lid := s.thm.lid
    uncorrected := sat 8 s.evt.nUnc, fatal := sat 8 s.evt.nFatal }
/-- Every 10 ms: BEAT, and BREAK while this module breaks the ring (R474, R478). -/
def beatDue (s : State) : State :=
  if !glnOn s then s
  else
    let s := if s.gly.st = 2 then s else glnSend s 4 (beatBody (ownBeat s))
    if s.gly.breaking then glnSend s 6 [s.gly.pos] else s
def execBeatTimer (s : State) : Host.Outcome State Fault Refusal := .next (keepGly s (beatDue s))
/-- Every 1 ms the master sends SYNC (R475). -/
def syncDue (s : State) : State :=
  if !glnOn s || !s.gly.master then s
  else glnSend { s with gly := { s.gly with syncAt := nowNs s } } 3 [nowNs s, 0, s.gly.delay]
def execSyncTimer (s : State) : Host.Outcome State Fault Refusal := .next (keepGly s (syncDue s))

/-- Tokens of 25 W go one each to unmet demand in ascending position, round after round (R476 step 3). -/
def handOut : Nat → Nat → List (Nat × Nat) → List (Nat × Nat)
  | 0, _, g => g
  | fuel + 1, tok, g =>
    let r := g.foldl (fun (a : Nat × List (Nat × Nat)) x =>
      if a.1 > 0 && x.1 + 25 ≤ x.2 then (a.1 - 1, a.2 ++ [(x.1 + 25, x.2)]) else (a.1, a.2 ++ [x])) (tok, [])
    if r.1 = tok then g else handOut fuel r.1 r.2
/-- The grants of a budget over demands, by position (R476). -/
def grants (b : Nat) (demand : List Nat) : List Nat :=
  let n := demand.length
  if b < 1200 * n then demand.map (fun _ => 1200)
  else
    let rest := b - 1200 * n
    let exc := suml (demand.map (· - 1200))
    let g := demand.map (fun d => (1200 + (if exc = 0 then 0 else Nat.min (d - 1200) (rest * (d - 1200) / exc / 25 * 25)), d))
    let used := suml (g.map (·.1))
    (handOut 64 ((b - used) / 25) g).map (·.1)
/-- Every 10 ms the master grants (R476): no budget without GLN_RACK.WATTS or with more than 64 modules. -/
def grantDue (s : State) : State :=
  if !glnOn s || s.gly.st != 3 || !s.gly.master then s
  else if glnRack s = 0 || s.gly.n > 64 then { s with gly := { s.gly with grant := none, next := none } }
  else
    let demand := (List.range s.gly.n).map (fun i => if i = 0 then demandW s else (tfind s.gly.peers i).elim 1200 (fun b => 25 * b.demand25))
    let g := grants (glnRack s) demand
    let low := glnRack s < 1200 * s.gly.n
    let s := if low && !s.gly.short then detect s 0x546 0 8 0 0 [] else s
    let s := takeGrant { s with gly := { s.gly with short := low } } (g.headD 1200)
    ((g.zipIdx).drop 1).foldl (fun s x => glnSend s 5 [x.2, x.1]) s
def execGrantRound (s : State) : Host.Outcome State Fault Refusal := .next (keepGly s (grantDue s))
/-- Three BEAT periods without the master's: a new election (R474). -/
def masterGone (s : State) : State :=
  if !glnOn s || s.gly.st != 3 || s.gly.master then s else elect (detect s 0x545 0 8 0 0 [])
def execMasterLost (s : State) : Host.Outcome State Fault Refusal := .next (keepGly s (masterGone s))
/-- R478: ring-in lost: CHAIN, and BREAK with this position. -/
def inLost (s : State) : State :=
  if !glnOn s || s.gly.breaking then s
  else glnSend { s with gly := { s.gly with st := 4, breaking := true, next := none } } 6 [s.gly.pos]
def execRingInLoss (s : State) : Host.Outcome State Fault Refusal := .next (keepGly s (inLost s))
/-- R478: after 100 ms of valid frames BREAK stops and the ring elects again; EV_GLN_RING_UP follows the discovery. -/
def recovered (s : State) : State :=
  if !glnOn s || !s.gly.breaking then s else elect { s with gly := { s.gly with breaking := false, upDue := true } }
def execRingRecover (s : State) : Host.Outcome State Fault Refusal := .next (keepGly s (recovered s))
/-- The rack budget B where a stale grant falls (R477): the master's own register; no frame carries it to the other
modules, so there it is a free value. -/
def rackBudget (s : State) : Nat × State :=
  if s.gly.master then (glnRack s, s) else let r := draw s; (r.1.toNat, r.2)
/-- R477: held until 1 s, then never above max(1,200 W, B / N rounded down to 25 W). -/
def grantStale (ms : Nat) (s : State) : State :=
  if ms < 1000 then s
  else match s.gly.grant with
  | none => s
  | some g =>
    let b := rackBudget s
    let per := if s.gly.n = 0 then 0 else b.1 / s.gly.n / 25 * 25
    { b.2 with gly := { s.gly with grant := some (Nat.min g (Nat.max 1200 per)), next := none } }
def execGrantTimeout (ms : Nat) (s : State) : Host.Outcome State Fault Refusal := .next (keepGly s (grantStale ms s))

end Sys2Proof.Machine
end

