-- ==== Sys2Proof/Machine/Sheet.lean ====
section
/-! DEFINITION. Range operations (R209 to R212), dead ranges (R213 to R216), Plot mappings (R197 to R199) and role epochs
(R281, R283). -/
namespace Sys2Proof.Machine

/-! The range payload (R209). -/
def rngPhys (o : Op) : Bool := bit (o.f 32 4) 31
def rngAddr (o : Op) : Nat := o.f 16 8
def rngLen (o : Op) : Nat := o.f 24 8
/-- The status of a payload that is refused. -/
def rngBad (s : State) (o : Op) (bit0 : Bool) : Option Nat :=
  if rngAddr o % 128 != 0 || !lengthOk (rngLen o) || bits (o.f 32 4) 1 30 != 0 || (!bit0 && bit (o.f 32 4) 0) ||
      !allZero (slice o.desc 36 28) then some 3
  else if rngPhys o then physBad s o (rngAddr o) (rngLen o) else none
def rngXl (s : State) (o : Op) (a : Nat) : Xl := if rngPhys o then .pa a else translate s (opCtx s o) a false
/-- log2 of the page that a leaf maps. -/
def leafLog (s : State) (ctx va : Nat) : Nat :=
  match walk0 s (ctxKeyPart s ctx) (ctxRoot s ctx) va with
  | .leaf _ lg _ => lg
  | .fault => 16
/-- EV_GS_FOREIGN for a page, posted where the range first meets the page (R200, R210). -/
def foreignPage (s : State) (o : Op) (va x : Nat) : State :=
  if va = rngAddr o || va % 2 ^ leafLog s (opCtx s o) va = 0 then foreignEvent s (opPart s o) x 7 0 else s

/-! PREFETCH, FLUSH and INVALIDATE (R210, R211). -/
/-- An absent line of HBM3E is requested with no waiter, after a reduction forwarded to its controller (R222); a full set of
miss registers skips it. -/
def prefetchLine (s : State) (line : Nat) (ref : Bool) : State :=
  let s := if s.mem.msa.any (fun r => r.line == line) then settleLine s line else s
  if !inHbm line || outOfService s line || (resident s line).isSome || s.mem.miss.any (fun m => m.line == line) ||
      (deadAt s line).isSome || (s.mem.miss.filter (fun m => m.slice == sliceAt line)).length ≥ 256 then s
  else { s with mem := { s.mem with miss := s.mem.miss ++
    [{ slice := sliceAt line, line, merged := [], mpois := 0, waiters := [], multicast := tget s.mem.fill 0 (ownerAt s line) == 1, ref }] } }
def prefetchRun (op : Nat) (s : State) : State :=
  withOp s op 0x10 0 (fun o => match rngBad s o true with
    | some st => refuse s op st
    | none =>
      let ref := !bit (o.f 32 4) 0
      let s := (rngPages (rngAddr o) (rngLen o)).foldl (fun s x => match rngXl s o x.1 with
        | .pa a => if inPlot a then s else (linesIn a x.2).foldl (fun s l => prefetchLine s l ref) s
        | .foreign a => foreignPage s o x.1 a
        | .host _ => s
        | .regs _ => s
        | .fault => s) s
      finish s op 0)
def execPrefetch (op : Nat) (s : State) : Host.Outcome State Fault Refusal := .next (keepWork s (prefetchRun op s))
/-- One line of a FLUSH, or of an INVALIDATE, which also drops it: after what waits on it. -/
def flushLine (s : State) (line : Nat) (drop : Bool) : State :=
  if !inHbm line || outOfService s line then s
  else
    let s := writeBack (drainLine s line) line
    if drop then dropLine s line else s
def flushPages (s : State) (o : Op) (drop : Bool) : State × Nat :=
  (rngPages (rngAddr o) (rngLen o)).foldl (fun r x =>
    if r.2 != 0 then r
    else match rngXl r.1 o x.1 with
      | .pa a => (if inPlot a then r.1 else (linesIn a x.2).foldl (fun s l => flushLine s l drop) r.1, 0)
      | .foreign a => (foreignPage r.1 o x.1 a, 6)
      | .fault => (r.1, 4)
      | .host _ => r
      | .regs _ => r) (s, 0)
def flushRun (op code : Nat) (drop : Bool) (s : State) : State :=
  withOp s op code 0 (fun o => match rngBad s o false with
    | some st => refuse s op st
    | none => let r := flushPages s o drop; finish r.1 op r.2)
def execFlush (op : Nat) (s : State) : Host.Outcome State Fault Refusal := .next (keepWork s (flushRun op 0x11 false s))
def execInvalidate (op : Nat) (s : State) : Host.Outcome State Fault Refusal := .next (keepWork s (flushRun op 0x12 true s))

/-! DECLARE_DEAD (R213 to R216). -/
/-- Pages of the range with where they lead. -/
def rngLeads (s : State) (o : Op) : List (Nat × Nat × Xl) := (rngPages (rngAddr o) (rngLen o)).map (fun x => (x.1, x.2, rngXl s o x.1))
/-- A run joins a list of runs in ascending order, merging where they touch within a Tent region. -/
def joinRun (r : Nat × Nat) : List (Nat × Nat) → List (Nat × Nat)
  | [] => [r]
  | q :: rest =>
    if r.1 ≤ q.2 + 128 && q.1 ≤ r.2 + 128 && tentAt r.1 = tentAt q.1 then joinRun (Nat.min r.1 q.1, Nat.max r.2 q.2) rest
    else if r.1 < q.1 then r :: q :: rest else q :: joinRun r rest
/-- Physical lines [a, a + n) as runs split at Tent region boundaries. -/
def splitTents (a n : Nat) : List (Nat × Nat) :=
  (List.range 8).filterMap (fun t =>
    let lo := Nat.max a (tentBase t)
    let hi := Nat.min (a + n) (tentBase (t + 1))
    if lo < hi then some (lo, hi - 128) else none)
def rngRuns (s : State) (o : Op) : List (Nat × Nat) :=
  (rngLeads s o).foldl (fun l x => match x.2.2 with
    | .pa a => if inHbm a then (splitTents a x.2.1).foldl (fun l r => joinRun r l) l else l
    | _ => l) []
/-- The first page that DECLARE_DEAD refuses, with its status. -/
def deadPage (s : State) (o : Op) : Option (Nat × Xl × Nat) :=
  (rngLeads s o).findSome? (fun x => match x.2.2 with
    | .pa a => if inPlot a then some (x.1, .pa a, 3) else none
    | .host a => some (x.1, .host a, 3)
    | .regs a => some (x.1, .regs a, 3)
    | .foreign a => some (x.1, .foreign a, 6)
    | .fault => some (x.1, .fault, 4))
def rngFaults (s : State) (o : Op) : Bool := (rngLeads s o).any (fun x => x.2.2 == .fault)
/-- A run merged with the live entries it overlaps or adjoins: the entry, and the others. -/
def mergeDead (s : State) (r : Nat × Nat) : Dead × List Dead :=
  let hit (d : Dead) : Bool := d.first ≤ r.2 + 128 && r.1 ≤ d.last + 128 && tentAt d.first == tentAt r.1
  let hs := s.mem.dead.filter hit
  (hs.foldl (fun e d => { first := Nat.min e.first d.first, last := Nat.max e.last d.last, posted := d.posted.foldl sadd e.posted })
    { first := r.1, last := r.2, posted := [] }, s.mem.dead.filter (fun d => !hit d))
/-- The entries of every run installed, or none where a slice lacks room. -/
def installRuns (s : State) : List (Nat × Nat) → Option State
  | [] => some s
  | r :: rest =>
    let m := mergeDead s r
    let s0 := { s with mem := { s.mem with dead := m.2 } }
    if (deadSlices m.1.first m.1.last).all (fun sl => deadRoom s0 sl ≥ 1) then
      installRuns { s0 with mem := { s0.mem with dead := m.2 ++ [m.1] } } rest
    else none
/-- Cached lines of a run are dropped, clean or dirty, after what waits on them. -/
def dropRun (s : State) (r : Nat × Nat) : State :=
  let inr (l : Nat) : Bool := r.1 ≤ l && l ≤ r.2
  let wait := distinct ((s.mem.miss.map (·.line) ++ s.mem.redq.map (·.line) ++ s.mem.msa.map (·.line) ++ s.mem.reqs.map (·.line)).filter inr)
  let s := wait.foldl drainLine s
  { s with mem := { s.mem with lines := s.mem.lines.filter (fun c => !inr c.line) } }
def deadRun (op : Nat) (s : State) : State :=
  withOp s op 0x13 0 (fun o =>
    if bit (o.f 32 4) 0 then s
    else match rngBad s o true with
    | some st => refuse s op st
    | none =>
      if rngFaults s o then finish s op 4
      else match deadPage s o with
      | some (va, .foreign a, st) => finish (foreignPage s o va a) op st
      | some (_, _, st) => finish s op st
      | none =>
        let rs := rngRuns s o
        if (installRuns s rs).isNone then finish s op 1
        else
          let s := rs.foldl dropRun s
          finish ((installRuns s rs).getD s) op 0)
def execDeclareDead (op : Nat) (s : State) : Host.Outcome State Fault Refusal := .next (keepWork s (deadRun op s))
def retireRun (op : Nat) (s : State) : State :=
  withOp s op 0x13 0 (fun o =>
    if !bit (o.f 32 4) 0 then s
    else match rngBad s o true with
    | some st => refuse s op st
    | none =>
      if rngFaults s o then finish s op 4
      else
        let s1 := (rngLeads s o).foldl (fun s x => match x.2.2 with
          | .foreign a => foreignPage s o x.1 a
          | _ => s) s
        finish ((rngRuns s o).foldl (fun s r => trimDead s r.1 r.2 false) s1) op 0)
def execDeclareDeadRetire (op : Nat) (s : State) : Host.Outcome State Fault Refusal := .next (keepWork s (retireRun op s))

/-! Plot mappings (R197 to R199). -/
/-- The leaf entry of a virtual address at the level of its page size: its place, a valid leaf above, or a walk that fails. -/
inductive Slot where
  | at_ (pa : Nat)
  | above
  | bad
  deriving DecidableEq, Repr
def leafSlot (s : State) (ctx va : Nat) (big : Bool) : Slot :=
  let p := ctxKeyPart s ctx
  if !ctxOk s ctx va then .bad
  else
    match readEntry s p (ctxRoot s ctx + 8 * bits va 30 18) with
    | none => .bad
    | some e =>
      if !bit e 0 then .bad
      else if bit e 1 then .above
      else if entryBad e false || entryAddr e % 4096 != 0 || !tableOk s p (entryAddr e) 4096 then .bad
      else
        let a1 := entryAddr e + 8 * bits va 21 9
        if big then (if (readEntry s p a1).isNone then .bad else .at_ a1)
        else match readEntry s p a1 with
          | none => .bad
          | some e =>
            if !bit e 0 then .bad
            else if bit e 1 then .above
            else if entryBad e false || !tableOk s p (entryAddr e) 256 then .bad
            else
              let a2 := entryAddr e + 8 * bits va 16 5
              if (readEntry s p a2).isNone then .bad else .at_ a2
def mapBig (o : Op) : Bool := bit (o.f 27 1) 0
def mapPage (o : Op) : Nat := if mapBig o then 0x200000 else 0x10000
/-- Leaves of the named ways: virtual address and the Plot address it maps. -/
def mapLeaves (o : Op) : List (Nat × Nat) :=
  (List.range (o.f 26 1 * wayBytes / mapPage o)).map (fun i =>
    (o.f 16 8 + i * mapPage o, 0x80000000000 + o.f 24 1 * 0x100000000 + o.f 25 1 * wayBytes + i * mapPage o))
/-- Checks 1 to 3 of R198. -/
def mapBad (s : State) (o : Op) : Option Nat :=
  if o.f 27 1 ≥ 4 || !allZero (slice o.desc 28 36) || o.f 16 8 % mapPage o != 0 || o.f 26 1 = 0 || o.f 25 1 + o.f 26 1 > 14 then some 3
  else if o.f 24 1 ≥ 8 || !bit (partMask s (opPart s o)) (o.f 24 1) then some 0x0A
  else if o.f 25 1 + o.f 26 1 > plotWays s (o.f 24 1) then some 3
  else none
def mapSlots (s : State) (o : Op) : List (Slot × Nat) :=
  (mapLeaves o).map (fun x => (leafSlot s (opCtx s o) x.1 (mapBig o), x.2))
def entryAtSlot (s : State) (p : Nat) : Slot → Nat
  | .at_ pa => (readEntry s p pa).getD 0
  | _ => 0
def isSlot : Slot → Bool
  | .at_ _ => true
  | _ => false
/-- Each leaf entry written with a value of its Plot address and its present value. -/
def putLeaves (s : State) (p : Nat) (l : List (Slot × Nat)) (f : Nat → Nat → Nat) : State :=
  l.foldl (fun s x => match x.1 with
    | .at_ pa => (writeClean s 7 0 pa (le 8 (f x.2 (entryAtSlot s p x.1)))).1
    | _ => s) s
/-- The ways a PLOT_MAP or PLOT_UNMAP names, as R199 counts their mappings. -/
def mapWays (s : State) (o : Op) : List (Nat × Nat × Nat) :=
  (List.range (o.f 26 1)).map (fun j => (opCtx s o, o.f 16 8 + j * wayBytes, 16 * o.f 24 1 + o.f 25 1 + j))
def plotMap (op : Nat) (s : State) : State :=
  withOp s op 0x14 0 (fun o => match mapBad s o with
    | some st => refuse s op st
    | none =>
      let l := mapSlots s o
      let p := opPart s o
      if l.any (fun x => x.1 == .bad) then refuse s op 4
      else if l.any (fun x => !isSlot x.1 || bit (entryAtSlot s p x.1) 0) then refuse s op 3
      else
        let w := if bit (o.f 27 1) 1 then 0 else 4
        let s := putLeaves s p l (fun a _ => a + 3 + w)
        finish { s with mem := { s.mem with maps := s.mem.maps ++ mapWays s o } } op 0)
def execPlotMap (op : Nat) (s : State) : Host.Outcome State Fault Refusal := .next (keepWork s (plotMap op s))
/-- The ports whose buckets hold a request of the kind let go what they hold, oldest first. -/
def emptyBuckets (s : State) (kind : MemReq → Bool) : State :=
  (s.fab.bkt.filter (fun e => e.2.held.any (fun h => (heldReq h).elim false kind))).foldl (fun s e =>
    let s := { s with fab := { s.fab with bkt := tupd s.fab.bkt e.2 e.1 (fun b => { b with held := b.held.filter (fun h => (heldReq h).isNone) }) } }
    (e.2.held.filterMap heldReq).foldl (fun s r => depart (charge s e.1 (reqBytes s r)) e.1 r) s) s
/-- The accesses of the kind that are under way are performed. -/
def drainKind (s : State) (kind : MemReq → Bool) : State :=
  let s := emptyBuckets s kind
  let all := s.mem.reqs ++ s.mem.miss.flatMap (·.waiters) ++ s.mem.redq ++ s.mem.msa
  (distinct ((all.filter kind).map (·.line))).foldl drainLine s
/-- Unmapping the last mapping of a way moves the Tent's Plot epoch; sooner than 100 µs after the last it waits (R199, R283). -/
def plotUnmap (op : Nat) (s : State) : State :=
  withOp s op 0x15 0 (fun o => match mapBad s o with
    | some st => refuse s op st
    | none =>
      let l := mapSlots s o
      let p := opPart s o
      let t := o.f 24 1
      let maps (x : Slot × Nat) : Bool := let e := entryAtSlot s p x.1; e % 4 == 3 && !bit e 3 && entryAddr e == x.2
      if l.any (fun x => x.1 == .bad) then refuse s op 4
      else if l.any (fun x => !isSlot x.1 || !maps x) then refuse s op 3
      else
        let ws := mapWays s o
        let left := ws.foldl (fun m w => m.erase w) s.mem.maps
        let gone := ws.any (fun w => s.mem.maps.contains w && !left.any (fun m => m.2.2 == w.2.2))
        if gone && bumpSoon s (576 + t) then s
        else
          let s := drainKind (putLeaves s p l (fun _ e => e - 1)) (fun r => inPlot r.line && plotTent r.line == t)
          let s := { s with mem := { s.mem with maps := left } }
          finish (if gone then bumpEpoch s (576 + t) else s) op 0)
def execPlotUnmap (op : Nat) (s : State) : Host.Outcome State Fault Refusal := .next (keepWork s (plotUnmap op s))

/-! TLB_INVALIDATE (R340): the model holds no translation between commands, so what is left to do is to perform the accesses
that were translated before, those of the partition; with a read of host memory under way it waits. -/
def tlbRun (op : Nat) (s : State) : State :=
  withOp s op 0x18 0 (fun o =>
    let fl := o.f 32 1
    let ctx := o.f 33 1
    let own := if opFn s o = 0 then single s || ctx / 32 == opPart s o else ctx < 32
    if o.f 16 8 % 65536 != 0 || o.f 24 8 % 65536 != 0 || (bit fl 0 && o.f 24 8 != 0) || fl ≥ 4 ||
        (if bit fl 1 then !own else ctx != 0) || !allZero (slice o.desc 34 30) then refuse s op 3
    else if s.link.reads.any (fun r => r.fn == fnOf s (opPart s o)) then s
    else finish (drainKind s (fun r => r.part == opPart s o)) op 0)
def execTlbInvalidate (op : Nat) (s : State) : Host.Outcome State Fault Refusal := .next (keepWork s (tlbRun op s))

/-! Role epochs (R281, R283). -/
def unitKey : RoleUnit → Nat
  | .core i => i
  | .cluster i => 512 + i
  | .plot t => 576 + t
  | .port n => 584 + n
/-- One increment, a waiting one first; sooner than 100 µs after the last it waits. -/
def epochIncrement (u : Nat) (s : State) : State :=
  let s' := bumpEpoch s u
  let e := tget s.fab.epoch {} u
  if (tget s'.fab.epoch {} u).cur = e.cur then s'
  else { s' with fab := { s'.fab with epoch := tupd s'.fab.epoch {} u (fun e => { e with wait := e.wait - 1 }) } }
def keepEpoch (s t : State) : State := { s with fab := { s.fab with epoch := t.fab.epoch } }
def execRoleEpochIncrement (unit : RoleUnit) (s : State) : Host.Outcome State Fault Refusal :=
  .next (keepEpoch s (epochIncrement (unitKey unit) s))

end Sys2Proof.Machine
end

