-- ==== Sys2Proof/Machine/Slices.lean ====
section
/-! DEFINITION. The slices' own work: a request looked up, a fill, a queued reduction, a memory-side atomic (R201 to R208,
R220 to R226, R249, R253). -/
namespace Sys2Proof.Machine

/-- What the slices may change. -/
def keepSlice (s t : State) : State :=
  { s with mem := t.mem, hbm := t.hbm, krn := t.krn, fab := t.fab, evt := t.evt, free := t.free }

/-! Errors in the slice's arrays (R223, R225). -/
/-- An event of a slice about an entry whose address is not known: no line, and the Tent's partition. -/
def tagEvent (s : State) (code sev slice : Nat) : State :=
  let p := partOfTent s (slice / 48)
  detect s code sev p slice 0 (le 1 9 ++ le 1 (b2n (busMode s p)) ++ le 2 (slice / 48))
def lostSev (s : State) (slice : Nat) : Nat := if partOfTent s (slice / 48) < 8 then 3 else 2
/-- The live dead-range entries of a slice, in their order of installation. -/
def deadIn (s : State) (slice : Nat) : List Dead :=
  s.mem.dead.filter (fun d => !d.lost.contains slice && (deadSlices d.first d.last).contains slice)
/-- What has come about in a slice's arrays. Upset bytes wait for the next read of their line; an entry whose copies have both
failed is dropped with its data. -/
def arrays (s : State) (slice : Nat) (f : GsFault) : State :=
  match f with
  | .none => s
  | .parity line lo hi =>
    let bad := b2n lo + 2 * b2n hi
    if bad = 0 || servedAt s line != slice || !(if inPlot line then plotBacked s line else (resident s line).isSome) then s
    else { s with mem := { s.mem with upset := tset s.mem.upset line (upsetAt s line ||| bad) } }
  | .tagOne => tagEvent s 0x112 0 slice
  | .tagBoth set way =>
    match lineIn s slice set way with
    | none => s
    | some c => tagEvent (dropLine s c.line) 0x113 (lostSev s slice) slice
  | .deadBoth i =>
    match (deadIn s slice)[i]? with
    | none => s
    | some d =>
      tagEvent { s with mem := { s.mem with dead := s.mem.dead.map (fun e => if e == d then { e with lost := sadd e.lost slice } else e) } }
        0x113 (lostSev s slice) slice

/-! Lookup (R201, R202, R206, R220 to R222). -/
def isRed : MemDo → Bool
  | .red .. => true
  | _ => false
def missOf (s : State) (line : Nat) : Option Miss := s.mem.miss.find? (fun m => m.line == line)
def slotsUsed (s : State) (slice : Nat) : Nat := (s.mem.miss.filter (fun m => m.slice == slice)).length
def redsIn (s : State) (slice : Nat) : Nat := (s.mem.redq.filter (fun r => sliceAt r.line == slice)).length
/-- The request need not be held at the slice's input. -/
def canServe (s : State) (r : MemReq) : Bool :=
  let slice := sliceAt r.line
  if inPlot r.line then !(s.fab.migrate.any (fun k => k / 8 == plotTent r.line))
  else if sliceCut s slice && s.fab.migrate.any (fun k => k / 8 == tentAt r.line) then false
  else if s.mem.msa.any (fun m => m.line == r.line) then false
  else if (resident s r.line).isSome then !isRed r.act || redsIn s slice < 64
  else match missOf s r.line with
    | some m => m.waiters.length < 32
    | none => (deadAt s r.line).isSome || (isRed r.act && (victim s slice (setAt r.line)).isNone) || slotsUsed s slice < 256
/-- The requests that a slice's input arbiter may grant: of each source and class the first, unless it is held (R206, R272). -/
def eligibleReqs (s : State) (slice : Nat) : List MemReq :=
  let mine := s.mem.reqs.filter (fun r => servedAt s r.line == slice)
  mine.filter (fun r => canServe s r && (mine.find? (fun x => x.src == r.src && x.cls == r.cls)).elim true (fun x => x.id == r.id))
/-- The grant: the highest effective priority, ties by the rotating pointer (R273, R276). -/
def nextReq (s : State) (slice : Nat) : Option MemReq :=
  let l := eligibleReqs s slice
  let top := l.filter (fun r => l.all (fun x => priority s x ≤ priority s r))
  let turn (r : MemReq) : Nat := (srcOrder r + 513 - tget s.mem.ptr 0 slice) % 513
  top.find? (fun r => top.all (fun x => turn r ≤ turn x))
def wholeWrite : MemDo → Bool
  | .write bs _ => (List.range 128).all (fun i => bs.any (fun b => b.1 == i))
  | _ => false
/-- Bytes that a write merges into a miss register. -/
def mergeMiss (m : Miss) (r : MemReq) : Miss :=
  let m := { m with waiters := m.waiters ++ [r] }
  match r.act with
  | .write bs p => { m with merged := bs.foldl (fun t b => tset t b.1 b.2) m.merged, mpois := markWrite m.mpois (bs.map (·.1)) p }
  | _ => m
/-- A miss: joins the list, meets a dead range, installs a whole write at once, is forwarded, or takes a miss register. A
whole write that would be a register's first entry, a PREFETCH's, frees it (R202). -/
def missReq (s : State) (r : MemReq) : State :=
  let slice := sliceAt r.line
  match missOf s r.line with
  | some m =>
    if m.waiters.isEmpty && wholeWrite r.act then
      perform (install { s with mem := { s.mem with miss := s.mem.miss.filter (fun x => x.line != r.line) } } r.line (hbmLine s r.line) true) r
    else { s with mem := { s.mem with miss := s.mem.miss.map (fun m => if m.line == r.line then mergeMiss m r else m) } }
  | none =>
    match deadAt s r.line with
    | some d => deadReq s r d
    | none =>
      if isRed r.act && (victim s slice (setAt r.line)).isNone then { s with mem := { s.mem with msa := s.mem.msa ++ [r] } }
      else if wholeWrite r.act then perform (install s r.line (hbmLine s r.line) true) r
      else
        let m : Miss := { slice, line := r.line, merged := [], mpois := 0, waiters := []
                          multicast := tget s.mem.fill 0 (ownerAt s r.line) == 1, ref := true }
        { s with mem := { s.mem with miss := s.mem.miss ++ [mergeMiss m r] } }
/-- A hit: a reduction is queued; anything else follows the reductions queued on its line. -/
def hitReq (s : State) (r : MemReq) : State :=
  if isRed r.act && !inPlot r.line then { s with mem := { s.mem with redq := s.mem.redq ++ [r] } }
  else perform (drainRed s r.line) r
def serve (s : State) (r : MemReq) : State :=
  let s := markLate { s with mem := { s.mem with reqs := s.mem.reqs.filter (fun x => x.id != r.id) } } r
  match away s r with
  | some w => turnAway s r w
  | none => if inPlot r.line || (resident s r.line).isSome then hitReq s r else missReq s r
/-- The slice's arrays, then its next request; the pointer moves behind the winner. -/
def sliceReq (slice : Nat) (f : GsFault) (s : State) : State :=
  let s := arrays s slice f
  match nextReq s slice with
  | some r => serve { s with mem := { s.mem with ptr := tset s.mem.ptr slice ((srcOrder r + 1) % 513) } } r
  | none => s
def execSliceRequest (slice : Nat) (fault : GsFault) (s : State) : Host.Outcome State Fault Refusal :=
  .next (keepSlice s (sliceReq slice fault s))

/-! Fills (R202 to R208, R249). -/
/-- Activations of a line's banks are held (R256). -/
def bankHeld (s : State) (line : Nat) : Bool :=
  let b := rowKey line % 64
  let c := chanOf s (chanAt line)
  tget c.held 0 b != 0 || tget c.held 0 (64 + b) != 0
/-- The read has left the controller's queue of 64 and its banks may be activated (R243, R256). -/
def fillable (s : State) (slice line : Nat) : Bool :=
  ((s.mem.miss.filter (fun m => m.slice == slice)).take 64).any (fun m => m.line == line) && !bankHeld s line
/-- A fill arrives with what its sectors show. -/
def fillArrive (slice line : Nat) (lo hi : Sector) (s : State) : State :=
  match s.mem.miss.find? (fun m => m.slice == slice && m.line == line) with
  | none => s
  | some m => if fillable s slice line then fillWith s m lo hi else s
def execFillArrival (slice line : Nat) (lo hi : Sector) (fault : GsFault) (s : State) : Host.Outcome State Fault Refusal :=
  .next (keepSlice s (fillArrive slice line lo hi (arrays s slice fault)))

/-! Reductions (R221, R253). -/
def redPerform (slice : Nat) (s : State) : State :=
  match s.mem.redq.find? (fun r => sliceAt r.line == slice) with
  | some r => perform { s with mem := { s.mem with redq := s.mem.redq.filter (fun x => x.id != r.id) } } r
  | none => s
def execReductionPerform (slice : Nat) (s : State) : Host.Outcome State Fault Refusal := .next (keepSlice s (redPerform slice s))
/-- The oldest forwarded reduction of a slice's channel is performed at its controller. -/
def sideAtomic (slice : Nat) (lo hi : Sector) (s : State) : State :=
  match s.mem.msa.find? (fun r => sliceAt r.line == slice) with
  | none => s
  | some r => sideOne { s with mem := { s.mem with msa := s.mem.msa.filter (fun x => x.id != r.id) } } r lo hi
def execMemorySideAtomic (slice : Nat) (lo hi : Sector) (s : State) : Host.Outcome State Fault Refusal :=
  .next (keepSlice s (sideAtomic slice lo hi s))

end Sys2Proof.Machine
end

