-- ==== Sys2Proof/Machine/SpanPorts.lean ====
section
/-! DEFINITION. Span ports: enable and disable, training, the session with the peer, retraining and the flit layer
(R345 to R355, R366). -/
namespace Sys2Proof.Machine

/-! Enable and disable (R349, R366). -/
/-- SPN_PORT_CTL.ENABLE set in OPEN: OFF to DETECT, or latched while the port drains. A port out of service stays OFF. -/
def portEnable (n : Nat) (s : State) : State :=
  let p := portOf s n
  if n ≥ 18 || !isOpen s || bit s.dev.spanOut n || s.pwr.railOff.contains (81 + n / 6) then s
  else if p.draining then setPort s n { p with pend := true }
  else if p.enable then s
  else setPort s n { cnt := p.cnt, coeff := p.coeff, sess := p.sess, narrowed := p.narrowed, enable := true, st := 1 }
def execSpanPortEnable (port : Nat) (s : State) : Host.Outcome State Fault Refusal := .next (keepSpan s (portEnable port s))
/-- ENABLE cleared: a pending enable is cancelled; an enabled port stops and its operations end with STALE_ROLE. -/
def portDisable (n : Nat) (s : State) : State :=
  let p := portOf s n
  if n ≥ 18 then s
  else if p.pend then setPort s n { p with pend := false }
  else if p.enable then pump (failPort (stopPort s n) n 7) else s
def execSpanPortDisable (port : Nat) (s : State) : Host.Outcome State Fault Refusal := .next (keepSpan s (portDisable port s))
/-- The drain ends: OFF, then the pending enable. A port whose epoch still waits for its increment drains until then (R283). -/
def drainDone (n : Nat) (s : State) : State :=
  let p := portOf s n
  if !p.draining || (tget s.fab.epoch {} (584 + n)).wait != 0 then s
  else if p.pend then portEnable n (portOff s n) else portOff s n
def execSpanPortDrainDone (port : Nat) (s : State) : Host.Outcome State Fault Refusal := .next (keepSpan s (drainDone port s))

/-! Training (R347, R348). -/
/-- A far-end sense: a facing transmitter is MISWIRED, posted once; else MISWIRED returns to DETECT, and DETECT with a
termination enters TRAIN. -/
def sense (n : Nat) (lanes : List LaneSense) (s : State) : State :=
  let p := portOf s n
  let l := lanes.take 4
  if p.st != 1 && p.st != 6 then s
  else if l.contains .transmitter then
    let s' := setPort s n { p with st := 6, miswired := true }
    if p.miswired then s' else detect s' 0x532 2 (portPart s n) n 0 []
  else if p.st = 6 then setPort s n { p with st := 1, miswired := false }
  else if l.contains .receiver then setPort s n { p with st := 2, lanes := [] } else s
def execSpanSense (port : Nat) (lanes : List LaneSense) (s : State) : Host.Outcome State Fault Refusal :=
  .next (keepSpan s (sense port lanes s))
/-- No training sequence within 100 ms: back to DETECT. -/
def trainLate (n : Nat) (s : State) : State :=
  let p := portOf s n
  if p.st = 2 && p.lanes.all (·.isNone) then setPort s n { p with st := 1, lanes := [] } else s
def execSpanTrainTimeout (port : Nat) (s : State) : Host.Outcome State Fault Refusal := .next (keepSpan s (trainLate port s))
/-- The sender identity that the most lanes carry, ties to the lowest physical lane. -/
def idOf (t : LaneTrain) : Nat × Nat := (t.addr, t.port)
def keptId (lanes : List (Option LaneTrain)) : Option (Nat × Nat) :=
  let ids := (lanes.filterMap id).map idOf
  ids.foldl (fun b x => match b with
    | none => some x
    | some y => if ids.count y < ids.count x then some x else some y) none
/-- Lanes of the kept identity, in their physical places; others carry nothing. -/
def keptLanes (lanes : List (Option LaneTrain)) (k : Nat × Nat) : List (Option LaneTrain) :=
  lanes.map (fun l => l.bind (fun t => if idOf t == k then some t else none))
/-- Training starts from the coefficients of section 11: USE_SAVED, and the accepted Ledger has them for this port and
this peer (R349). -/
def useSaved (s : State) (n peer : Nat) : Bool :=
  bit (portCfg s n) 4 && ((s.boot.ledger.bind (fun l => varOf l.secs 11 3 n)).elim false (fun b => fld b 0 2 == peer))
/-- Equalisation completes or fails (R348, R349). -/
def equalised (n : Nat) (lanes : List (Option LaneTrain)) (ok : Bool) (s : State) : State :=
  let p := portOf s n
  let l := lanes.take 4
  if p.st != 2 then s
  else match ok, keptId l with
    | true, some k =>
      let s := setPort s n { p with lanes := keptLanes l k, peer := some k.1, fromSaved := useSaved s n k.1
                                    crossed := (l.filterMap id).any (fun t => idOf t != k) }
      if k.1 = spanAddr s then portDown s n 6 else s
    | _, _ => portDown s n 2
def execSpanEqualisationDone (port : Nat) (lanes : List (Option LaneTrain)) (ok : Bool) (s : State) :
    Host.Outcome State Fault Refusal := .next (keepSpan s (equalised port lanes ok s))
/-- Lanes in use: the good logical lanes that the kept lanes carry, of three only the two lowest. -/
def lanesUsed (p : Port) (good : List Bool) : List Nat :=
  let g := (List.range 4).filter (fun i => good.getD i false && p.lanes.any (fun l => l.elim false (fun t => t.logical == i)))
  if g.length = 3 then g.take 2 else g
def widthOf (p : Port) (good : List Bool) : Nat := (lanesUsed p good).length
/-- The link test ends: the width, or DOWN with NO_LANES; a narrow port is posted. -/
def tested (n : Nat) (good : List Bool) (st : Nat) (s : State) : State :=
  let p := portOf s n
  let w := widthOf p good
  let p := if w < 4 then { p with narrowed := some (p.peer.getD 0, w) } else p
  if w = 0 then portDown (setPort s n p) n 1
  else
    let s := setPort s n { p with st := st, width := w, active := lanesUsed p good, coeff := p.peer, replays := 0 }
    if w < 4 then detect s 0x531 0 (portPart s n) n 0 [] else s
def linkTest (n : Nat) (good : List Bool) (s : State) : State :=
  if (portOf s n).st = 2 && (portOf s n).lanes.any (·.isSome) then tested n good 3 s else s
def execSpanLinkTest (port : Nat) (good : List Bool) (s : State) : Host.Outcome State Fault Refusal :=
  .next (keepSpan s (linkTest port good s))
/-- The session with the peer (R354): AUTH_FAIL, PEER_MISMATCH, or UP with the peer's two digests measured. -/
def secureDone (n : Nat) (chainOk : Bool) (peer : Nat) (cert cfg : Bytes) (s : State) : State :=
  let p := portOf s n
  let want := bits (portCfg s n) 16 16
  if p.st != 3 then s
  else if !chainOk then portDown (detect s 0x630 2 (portPart s n) n 0 []) n 4
  else if want != 0xFFFF && want != peer then portDown s n 3
  else
    let s := setPort s n { leaveUp p 4 with peer := some peer, secure := true, sess := p.sess + 1 }
    let subject := le 2 n ++ le 2 peer
    let s := logAppend (logAppend s 6 (portPart s n) subject cert) 6 (portPart s n) subject cfg
    pump (flushWait (detect s 0x530 0 (portPart s n) n 0 (le 1 p.width ++ le 1 0 ++ le 2 peer)) n)
def execSpanSecureDone (port : Nat) (chainOk : Bool) (peer : Nat) (certDigest cfgDigest : Bytes) (s : State) :
    Host.Outcome State Fault Refusal := .next (keepSpan s (secureDone port chainOk peer certDigest cfgDigest s))
/-- After 1 s a DOWN port returns to DETECT, but for PEER_MISMATCH and ADDR_CLASH (R346). -/
def downRetry (n : Nat) (s : State) : State :=
  let p := portOf s n
  if p.st = 7 && p.reason != 3 && p.reason != 6 then
    setPort s n { p with st := 1, reason := 0, width := 0, lanes := [], crossed := false, peer := none, fromSaved := false } else s
def execSpanDownRetry (port : Nat) (s : State) : Host.Outcome State Fault Refusal := .next (keepSpan s (downRetry port s))

/-! Retraining (R350). -/
def retrain (n : Nat) (cause : RetrainCause) (s : State) : State :=
  let p := portOf s n
  let due : Bool := match cause with
    | .replays => decide (8 ≤ p.replays)
    | _ => true
  if !portUp s n || !due then s
  else
    let r := s.tick :: p.retrains.filter (fun t => s.tick < t + 100000000)
    let s := detect (setPort s n { p with retrains := r, st := 5 }) 0x534 0 (portPart s n) n 0 []
    if r.length ≥ 4 then pump (portDown s n 5) else s
def execSpanRetrain (port : Nat) (cause : RetrainCause) (s : State) : Host.Outcome State Fault Refusal :=
  .next (keepSpan s (retrain port cause s))
/-- Back to UP at the width the lanes allow; held traffic goes on. -/
def retrainDone (n : Nat) (good : List Bool) (s : State) : State :=
  if (portOf s n).st != 5 then s
  else
    let t := tested n good 4 s
    pump (if (portOf t n).st = 4 then flushWait t n else t)
def execSpanRetrainDone (port : Nat) (good : List Bool) (s : State) : Host.Outcome State Fault Refusal :=
  .next (keepSpan s (retrainDone port good s))

/-! Flits (R351, R352). -/
def bump (p : Port) (k n : Nat) : Port := { p with cnt := tupd p.cnt 0 k (fun c => sat 64 (c + n)) }
/-- The fields of R351 that the receiver reads. -/
def flitSeq (f : Flit) : Nat := fld f.bytes 2 2 % 4096
def flitAckNo (f : Flit) : Nat := fld f.bytes 4 2 % 4096
def flitNack (f : Flit) : Bool := bit (fld f.bytes 4 2) 15
def flitReplay (f : Flit) : Bool := bit (fld f.bytes 1 1) 0
def flitCredits (f : Flit) : Nat := fld f.bytes 248 2
/-- Codewords that RS(544,514) corrects, up to 15 symbols, and those beyond it. -/
def fecGood (f : Flit) : Nat := (f.errs.filter (fun e => 0 < e && e ≤ 15)).length
def fecBad (f : Flit) : Nat := (f.errs.filter (15 < ·)).length
def crcOk (f : Flit) : Bool := fld f.bytes 252 4 == (crc32c (f.bytes.take 252)).toNat
/-- The flits up to ACK have arrived and leave the replay buffer. -/
def acked (p : Port) (ack : Nat) : Port :=
  if p.replay.any (fun e => e.1 == ack) then
    { p with replay := (p.replay.dropWhile (fun e => e.1 != ack)).drop 1, replays := 0 } else p
/-- Everything left in the replay buffer goes again, in order, with REPLAY set. -/
def resend (p : Port) : Port × List Bytes :=
  ({ bump p 3 1 with replays := p.replays + 1, freed := 0 }, p.replay.map (fun e => flitBytes p e.2.1 e.1 true false e.2.2))
/-- ACK, NACK and CREDITS of a good flit. -/
def flitAck (p : Port) (f : Flit) : Port × List Bytes :=
  let p := acked { p with credits := p.credits + flitCredits f } (flitAckNo f)
  if flitNack f then resend p else (p, [])
/-- A flit in order is consumed at once and frees its place in the receive buffer. -/
def inOrder (p : Port) (f : Flit) : Port :=
  if flitSeq f = p.rxSeq then { p with rxSeq := (p.rxSeq + 1) % 4096, discarding := false, freed := p.freed + 1 } else p
/-- A flit that FEC or the CRC loses is answered with a NACK, and every later one is discarded until one with REPLAY set. -/
def lostFlit (p : Port) : Port × List Bytes := putFlit ({ p with discarding := true }, []) 0 true (zeros 242)
def takeFlit (p : Port) (f : Flit) : Port × List Bytes :=
  let p := bump (bump p 0 (fecGood f)) 1 (fecBad f)
  if fecBad f > 0 then lostFlit p
  else if !crcOk f then lostFlit (bump p 2 1)
  else if p.discarding && !flitReplay f then (p, [])
  else flitAck (inOrder p f) f
def flit (n : Nat) (f : Flit) (s : State) : State :=
  let p := portOf s n
  if p.st = 3 || p.st = 4 then putWire s n (takeFlit p f).1 (takeFlit p f).2 else s
def execSpanFlitReceive (port : Nat) (f : Flit) (s : State) : Host.Outcome State Fault Refusal := .next (keepSpan s (flit port f s))
/-- KEY_UPDATE of one direction: a new key, its counter at 0 (R355). -/
def keyUpdate (n : Nat) (tx : Bool) (s : State) : State :=
  let p := portOf s n
  if p.st != 4 then s
  else setPort s n (if tx then { p with txGen := p.txGen + 1, txCount := 0 } else { p with rxGen := p.rxGen + 1, rxCount := 0 })
def execSpanKeyUpdate (port : Nat) (tx : Bool) (s : State) : Host.Outcome State Fault Refusal := .next (keepSpan s (keyUpdate port tx s))

end Sys2Proof.Machine
end

