-- ==== Sys2Proof/Machine/Spdm.lean ====
section
/-! DEFINITION. The SPDM responder: attestation, the measurement log and imported keys (R385 to R391). A connection is
numbered by the model: even numbers run on the DOE mailbox; 2k + 1 is MCTP with k = 2 × requester + transport. -/
namespace Sys2Proof.Machine

def keepSpdm (s t : State) : State := { s with trust := { t.trust with copyA := s.trust.copyA, copyB := s.trust.copyB, rpmc := s.trust.rpmc },
                                               link := { s.link with out := t.link.out }, mgt := t.mgt, evt := t.evt }
def connOf (s : State) (c : Nat) : Conn := tget s.trust.conns {} c
def setConn (s : State) (c : Nat) (x : Conn) : State := { s with trust := { s.trust with conns := tset s.trust.conns c x } }
/-- A response leaves on the connection's transport; an MCTP message of type SPDM is then no longer in flight (R467). -/
def spdmSend (s : State) (c : Nat) (b : Bytes) : State :=
  if c % 2 = 0 then hostReply s (.doe c b)
  else
    let k := c / 2
    mgtSend { s with mgt := { s.mgt with inflight := s.mgt.inflight.filter (· != (k, 5)) } } (k % 2) (k / 2) b
/-- PRESUMED layouts of SPDM 1.3: ERROR with its code, and the head of a vendor-defined response. -/
def spdmError (code : Nat) : Bytes := le 1 0x13 ++ le 1 0x7F ++ le 1 code ++ le 1 0
def vendorHead : Bytes := le 1 0x13 ++ le 1 0x7E ++ le 2 0 ++ le 2 3 ++ le 1 2 ++ le 2 Config.vendorId.toNat
/-- The responder answers from PITCHED; before it, with ERROR, code Busy (R387); in STOWED and TRIPPED nothing answers. -/
def withSpdm (s : State) (c : Nat) (f : State) : State :=
  if posting s then f
  else if s.dev.st == .pitching && s.link.cfgReady then spdmSend s c (spdmError 3) else s
/-- Bytes of one answer; the rest of a large response is read on by CHUNK_GET. -/
def chunkLen : Nat := 4096
def spdmLong (s : State) (c : Nat) (b : Bytes) : State :=
  spdmSend (setConn s c { connOf s c with chunk := b.drop chunkLen }) c (b.take chunkLen)
/-! Keys and certificates (R374 to R376). -/
def runningSvn (s : State) : Nat := (s.boot.pkg.map (·.svn)).getD 0
def pkgDigest (s : State) : Bytes := (s.boot.pkg.map (·.digest)).getD []
/-- DeviceID keys, fixed for the life of the die. -/
def deviceKey (pq : Bool) : Bytes :=
  if pq then Config.kmac256 Config.uds [] 32 "DEVID-MLDSA" else Config.kmac256 Config.uds [] 57 "DEVID-ED448"
/-- The CDI of the accepted package, and the alias keys derived from it. -/
def cdi (s : State) : Bytes := Config.kmac256 Config.uds (pkgDigest s ++ le 4 (runningSvn s)) 64 "DICE-CDI"
def aliasKey (s : State) (pq : Bool) : Bytes :=
  if pq then Config.kmac256 (cdi s) [] 32 "ALIAS-MLDSA" else Config.kmac256 (cdi s) [] 57 "ALIAS-ED448"
/-- A chain runs alias, DeviceID, manufacturing CA, root. -/
def certChain (s : State) (pq : Bool) : Bytes :=
  Config.aliasCert pq (deviceKey pq) (aliasKey s pq) ("Vymar Silicon", "Plaro P9") (runningSvn s)
      (pkgDigest s, Config.serial) ++
    Config.caCerts pq
def edSig (s : State) (x : Bytes) : Bytes := Config.signEd448 (aliasKey s false) x
def pqSigOf (s : State) (x : Bytes) : Bytes := Config.signMlDsa (aliasKey s true) x
/-- A signed response: its signing input is held for PQ_SIG (R388). -/
def spdmSigned (s : State) (c : Nat) (body nonce : Bytes) : State :=
  let x := body ++ nonce
  spdmLong (setConn s c { connOf s c with signed := some x }) c (body ++ edSig s x)

/-! GET_MEASUREMENTS (R389). -/
def layout (s : State) : Bytes :=
  (List.range 8).flatMap (fun p => le 1 (partMask s p) ++
    (List.range 8).flatMap (fun t => le 1 (if bit (partMask s p) t then plotWays s t else 0)) ++
    le 1 (b2n (partConf s p)) ++ le 1 (tget s.trust.tdi 0 p) ++ le 1 (b2n (busMode s p)))
def lastSeq (s : State) : Nat := (s.trust.seq + 2 ^ 32 - 1) % 2 ^ 32
/-- The blocks as they stand when the response is formed. -/
def blocks (s : State) : List (Nat × Bytes) :=
  let comp (i : Nat) : Bytes := (s.boot.pkg.map (fun k => tget k.comps [] i)).getD []
  [(1, Config.romDigest), (2, comp 1), (3, comp 2), (4, comp 3), (5, comp 4),
   (6, le 4 (runningSvn s) ++ le 4 (idCur s).minSvn ++ le 1 (idCur s).revoked),
   (7, le 8 ((s.boot.ledger.map (·.gen)).getD 0) ++ (s.boot.ledger.map (·.digest)).getD (zeros 64) ++ le 8 (idCur s).gen),
   (8, le 8 s.dev.commitGen ++ s.dev.commitDigest), (9, layout s),
   (10, le 1 s.dbg.attach ++ le 1 s.trust.everAttached ++ le 1 (b2n s.trust.tapOpen)),
   (11, s.trust.chain ++ le 4 (lastSeq s))] ++
  (parts s).map (fun p => let c := tget s.trust.pchain (zeros 64, 0) p; (16 + p, c.1 ++ le 4 c.2))
def blockBytes (b : Nat × Bytes) : Bytes := le 1 b.1 ++ le 1 1 ++ le 2 (3 + b.2.length) ++ le 1 0x80 ++ le 2 b.2.length ++ b.2
def measurements (s : State) : Bytes :=
  let r := (blocks s).flatMap blockBytes
  le 1 0x13 ++ le 1 0x60 ++ le 2 0 ++ le 1 (blocks s).length ++ le 3 r.length ++ r
def getMeasurements (c : Nat) (nonce : Bytes) (s : State) : State :=
  withSpdm s c (spdmSigned s c (measurements s) nonce)
def execGetMeasurements (conn : Nat) (nonce : Bytes) (s : State) : Host.Outcome State Fault Refusal :=
  .next (keepSpdm s (getMeasurements conn nonce s))

/-! Other requests (R387, R388). -/
def secured (s : State) : Nat := (s.trust.conns.filter (fun c => c.2.secured)).length
/-- CHALLENGE (0x83) and KEY_EXCHANGE (0xE4) are signed; FINISH (0xE5) opens one of four secured sessions; END_SESSION
(0xEC) closes it. The answers' bodies are SPDM's (PRESUMED codes; bodies uninterpreted). -/
def spdmReq (c code : Nat) (body : Bytes) (s : State) : State :=
  let a := Config.spdmAnswer code (certChain s false) body
  withSpdm s c (
    if code = 0x83 || code = 0xE4 then spdmSigned s c a body
    else if code = 0xE5 && !(connOf s c).secured then
      if secured s ≥ 4 then spdmSend s c (spdmError 0x0A)
      else spdmLong (setConn s c { connOf s c with secured := fld a 1 1 != 0x7F }) c a
    else if code = 0xEC then spdmLong (setConn s c { connOf s c with secured := false }) c a
    else spdmLong s c a)
def execSpdmRequest (conn code : Nat) (body : Bytes) (s : State) : Host.Outcome State Fault Refusal :=
  .next (keepSpdm s (spdmReq conn code body s))
def pqCert (c offset : Nat) (s : State) : State :=
  withSpdm s c (spdmLong s c (vendorHead ++ (certChain s true).drop offset))
def execPqCert (conn offset : Nat) (s : State) : Host.Outcome State Fault Refusal := .next (keepSpdm s (pqCert conn offset s))
/-- PQ_SIG: the digest of the Ed448 signature, then the ML-DSA-87 signature over the same input. -/
def pqSig (c : Nat) (s : State) : State :=
  withSpdm s c (match (connOf s c).signed with
    | some x => spdmLong s c (vendorHead ++ Config.shake256 (edSig s x) ++ pqSigOf s x)
    | none => spdmSend s c (spdmError 1))
def execPqSig (conn : Nat) (s : State) : Host.Outcome State Fault Refusal := .next (keepSpdm s (pqSig conn s))
/-- GET_LOG: stored entries from a SEQ, of one partition or (8 or more) of all, and the current chain values. -/
def getLog (c start part : Nat) (s : State) : State :=
  let es := s.trust.log.filter (fun e => start ≤ e.seq && (part ≥ 8 || e.part == part))
  let cs := if part < 8 then [part] else parts s
  withSpdm s c (spdmLong s c (vendorHead ++ le 4 es.length ++ es.flatMap logBytes ++ s.trust.chain ++
    cs.flatMap (fun p => (tget s.trust.pchain (zeros 64, 0) p).1)))
def execGetLog (conn start part : Nat) (s : State) : Host.Outcome State Fault Refusal := .next (keepSpdm s (getLog conn start part s))
/-- KEY_IMPORT: only in a secured session and for a confidential LOCKED partition that is not being torn down. -/
def importOk (s : State) (c p slot : Nat) (key : Bytes) : Bool :=
  (connOf s c).secured && p < 8 && slot < 16 && key.length == 32 && sealed s p && (downOf s p).isNone
def keyImport (c p slot : Nat) (key : Bytes) (s : State) : State :=
  withSpdm s c (
    if !importOk s c p slot key then spdmSend s c (vendorHead ++ le 1 2)
    else
      let s := { s with trust := { s.trust with keys := tset s.trust.keys (16 * p + slot) key } }
      let s := logAppend s 7 p (le 2 slot) (Config.shake256 (le 1 slot ++ le 4 c))
      spdmSend (detect s 0x602 0 p p 0 []) c (vendorHead ++ le 1 0))
def execKeyImport (conn part slot : Nat) (key : Bytes) (s : State) : Host.Outcome State Fault Refusal :=
  .next (keepSpdm s (keyImport conn part slot key s))
def keyDrop (c p slot : Nat) (s : State) : State :=
  withSpdm s c (spdmSend (if p < 8 && slot < 16 then { s with trust := { s.trust with keys := tdel s.trust.keys (16 * p + slot) } } else s)
    c (vendorHead ++ le 1 0))
def execKeyDrop (conn part slot : Nat) (s : State) : Host.Outcome State Fault Refusal := .next (keepSpdm s (keyDrop conn part slot s))
def chunkGet (c : Nat) (s : State) : State :=
  withSpdm s c (if (connOf s c).chunk = [] then spdmSend s c (spdmError 1) else spdmLong s c (connOf s c).chunk)
def execChunkGet (conn : Nat) (s : State) : Host.Outcome State Fault Refusal := .next (keepSpdm s (chunkGet conn s))

end Sys2Proof.Machine
end

