-- ==== Sys2Proof/Machine/Dispatch.lean ====
section
/-! DEFINITION. The one arm of each command: a direct call of its meaning. -/
namespace Sys2Proof.Machine

/-- The effect of a command on everything but the queue. -/
def exec (i : Instr) (s : State) : Host.Outcome State Fault Refusal :=
  match i with
  | .perstNRelease sris pufOk => Sys2Proof.Machine.execPerstNRelease sris pufOk s
  | .configSpaceReady => Sys2Proof.Machine.execConfigSpaceReady s
  | .configurationRequestRetry fn => Sys2Proof.Machine.execConfigurationRequestRetry fn s
  | .conventionalReset kind => Sys2Proof.Machine.execConventionalReset kind s
  | .linkTraining rate10 width how => Sys2Proof.Machine.execLinkTraining rate10 width s how
  | .converterStart mv us => Sys2Proof.Machine.execConverterStart mv us s
  | .converterStop mv us => Sys2Proof.Machine.execConverterStop mv us s
  | .inputStageOpen mv us => Sys2Proof.Machine.execInputStageOpen mv us s
  | .inputReconnect mv us => Sys2Proof.Machine.execInputReconnect mv us s
  | .inputLowTimer mv us => Sys2Proof.Machine.execInputLowTimer mv us s
  | .senseOpen rail => Sys2Proof.Machine.execSenseOpen rail s
  | .phaseFail rail phase why => Sys2Proof.Machine.execPhaseFail rail phase why s
  | .droopDetect cluster mv => Sys2Proof.Machine.execDroopDetect cluster mv s
  | .stretchRelease cluster mv periods => Sys2Proof.Machine.execStretchRelease cluster mv periods s
  | .powerAllocation inputMv inputMa fixedW demand => Sys2Proof.Machine.execPowerAllocation inputMv inputMa fixedW demand s
  | .domainPowerUp domain estMa => Sys2Proof.Machine.execDomainPowerUp domain estMa s
  | .domainGrant rail estMa => Sys2Proof.Machine.execDomainGrant rail estMa s
  | .domainGrantTimeout domain estMa => Sys2Proof.Machine.execDomainGrantTimeout domain estMa s
  | .domainRampDone domain percent => Sys2Proof.Machine.execDomainRampDone domain percent s
  | .coreIdleOff core us => Sys2Proof.Machine.execCoreIdleOff core us s
  | .domainShutdownDone domain => Sys2Proof.Machine.execDomainShutdownDone domain s
  | .clockLoss => Sys2Proof.Machine.execClockLoss s
  | .sensorSample readings lid => Sys2Proof.Machine.execSensorSample readings lid s
  | .sensorSuspect sensor us => Sys2Proof.Machine.execSensorSuspect sensor us s
  | .throttleTick => Sys2Proof.Machine.execThrottleTick s
  | .thermalFloor => Sys2Proof.Machine.execThermalFloor s
  | .thermalTrip src => Sys2Proof.Machine.execThermalTrip src s
  | .tripRestart secs lid => Sys2Proof.Machine.execTripRestart secs lid s
  | .bondTempSample => Sys2Proof.Machine.execBondTempSample s
  | .lifeLogWrite ok => Sys2Proof.Machine.execLifeLogWrite ok s
  | .bootCtlLoad => Sys2Proof.Machine.execBootCtlLoad s
  | .packageVerdict pkg storeOk => Sys2Proof.Machine.execPackageVerdict pkg storeOk s
  | .bootCtlStart => Sys2Proof.Machine.execBootCtlStart s
  | .ledgerCheck ledger found => Sys2Proof.Machine.execLedgerCheck ledger found s
  | .startComplete ms => Sys2Proof.Machine.execStartComplete ms s
  | .startTimeout => Sys2Proof.Machine.execStartTimeout s
  | .configCommit op => Sys2Proof.Machine.execConfigCommit op s
  | .devCtlRepitch => Sys2Proof.Machine.execDevCtlRepitch s
  | .devCtlStrike => Sys2Proof.Machine.execDevCtlStrike s
  | .sealCommit hostOk storeOk => Sys2Proof.Machine.execSealCommit hostOk storeOk s
  | .secMboxGo token storeOk => Sys2Proof.Machine.execSecMboxGo token storeOk s
  | .sqTail fn page value width how => Sys2Proof.Machine.execSqTail fn page value width s how
  | .cqHead fn page value width how => Sys2Proof.Machine.execCqHead fn page value width s how
  | .descriptorFetch read => Sys2Proof.Machine.execDescriptorFetch read s
  | .descriptorAdmit ring => Sys2Proof.Machine.execDescriptorAdmit ring s
  | .nop op => Sys2Proof.Machine.execNop op s
  | .loadBundle op src => Sys2Proof.Machine.execLoadBundle op src s
  | .unloadBundle op => Sys2Proof.Machine.execUnloadBundle op s
  | .launch op => Sys2Proof.Machine.execLaunch op s
  | .setPlacement op epoch => Sys2Proof.Machine.execSetPlacement op epoch s
  | .launchComplete op => Sys2Proof.Machine.execLaunchComplete op s
  | .launchTimeout op => Sys2Proof.Machine.execLaunchTimeout op s
  | .copy op => Sys2Proof.Machine.execCopy op s
  | .copySealed op src => Sys2Proof.Machine.execCopySealed op src s
  | .fill op => Sys2Proof.Machine.execFill op s
  | .compare op src => Sys2Proof.Machine.execCompare op src s
  | .digest op src => Sys2Proof.Machine.execDigest op src s
  | .scrub op found => Sys2Proof.Machine.execScrub op found s
  | .chainOperationDone op => Sys2Proof.Machine.execChainOperationDone op s
  | .prefetch op => Sys2Proof.Machine.execPrefetch op s
  | .flush op => Sys2Proof.Machine.execFlush op s
  | .invalidate op => Sys2Proof.Machine.execInvalidate op s
  | .declareDead op => Sys2Proof.Machine.execDeclareDead op s
  | .declareDeadRetire op => Sys2Proof.Machine.execDeclareDeadRetire op s
  | .plotMap op => Sys2Proof.Machine.execPlotMap op s
  | .plotUnmap op => Sys2Proof.Machine.execPlotUnmap op s
  | .roleEpochIncrement unit => Sys2Proof.Machine.execRoleEpochIncrement unit s
  | .tlbInvalidate op => Sys2Proof.Machine.execTlbInvalidate op s
  | .allReduce op => Sys2Proof.Machine.execAllReduce op s
  | .reduceScatter op => Sys2Proof.Machine.execReduceScatter op s
  | .allGather op => Sys2Proof.Machine.execAllGather op s
  | .allToAll op => Sys2Proof.Machine.execAllToAll op s
  | .spanSend op => Sys2Proof.Machine.execSpanSend op s
  | .spanRecv op => Sys2Proof.Machine.execSpanRecv op s
  | .spanOperationTimeout op => Sys2Proof.Machine.execSpanOperationTimeout op s
  | .setPolicyGuard op => Sys2Proof.Machine.execSetPolicyGuard op s
  | .setPolicyGroundsheet op => Sys2Proof.Machine.execSetPolicyGroundsheet op s
  | .semSignal op => Sys2Proof.Machine.execSemSignal op s
  | .semWait op => Sys2Proof.Machine.execSemWait op s
  | .semWaitWake op => Sys2Proof.Machine.execSemWaitWake op s
  | .semWaitTimeout op => Sys2Proof.Machine.execSemWaitTimeout op s
  | .queryPoleFailures op => Sys2Proof.Machine.execQueryPoleFailures op s
  | .queryPortLatency op => Sys2Proof.Machine.execQueryPortLatency op s
  | .queryStaleRole op => Sys2Proof.Machine.execQueryStaleRole op s
  | .queryHbmOut op => Sys2Proof.Machine.execQueryHbmOut op s
  | .queryBondWear op => Sys2Proof.Machine.execQueryBondWear op s
  | .ringEnable fn ring how => Sys2Proof.Machine.execRingEnable fn ring s how
  | .ringDisable fn ring how => Sys2Proof.Machine.execRingDisable fn ring s how
  | .ringDisabled ring => Sys2Proof.Machine.execRingDisabled ring s
  | .eventRingEnable fn how => Sys2Proof.Machine.execEventRingEnable fn s how
  | .eventRingDisable fn how => Sys2Proof.Machine.execEventRingDisable fn s how
  | .evtHead fn index how => Sys2Proof.Machine.execEvtHead fn index s how
  | .eventRecordWrite ok => Sys2Proof.Machine.execEventRecordWrite ok s
  | .teardownErase part => Sys2Proof.Machine.execTeardownErase part s
  | .teardownDone part => Sys2Proof.Machine.execTeardownDone part s
  | .bar4Read fn offset len how => Sys2Proof.Machine.execBar4Read fn offset len how s
  | .bar4Write fn offset data ep how => Sys2Proof.Machine.execBar4Write fn offset data ep how s
  | .vfEnable num => Sys2Proof.Machine.execVfEnable num s
  | .vfDisable => Sys2Proof.Machine.execVfDisable s
  | .vfShutdownDone => Sys2Proof.Machine.execVfShutdownDone s
  | .vfFlr vf => Sys2Proof.Machine.execVfFlr vf s
  | .pfFlr => Sys2Proof.Machine.execPfFlr s
  | .d3hotEntry fn => Sys2Proof.Machine.execD3hotEntry fn s
  | .d0Return fn => Sys2Proof.Machine.execD0Return fn s
  | .msixUnmask fn vector => Sys2Proof.Machine.execMsixUnmask fn vector s
  | .hostReadCompletion tag res => Sys2Proof.Machine.execHostReadCompletion tag res s
  | .hostCompletionTimeout tag => Sys2Proof.Machine.execHostCompletionTimeout tag s
  | .atsInvalidateRequest fn addr len => Sys2Proof.Machine.execAtsInvalidateRequest fn addr len s
  | .lockInterfaceRequest vf => Sys2Proof.Machine.execLockInterfaceRequest vf s
  | .startInterfaceRequest vf => Sys2Proof.Machine.execStartInterfaceRequest vf s
  | .stopInterfaceRequest vf => Sys2Proof.Machine.execStopInterfaceRequest vf s
  | .getMeasurements conn nonce => Sys2Proof.Machine.execGetMeasurements conn nonce s
  | .spdmRequest conn code body => Sys2Proof.Machine.execSpdmRequest conn code body s
  | .pqCert conn offset => Sys2Proof.Machine.execPqCert conn offset s
  | .pqSig conn => Sys2Proof.Machine.execPqSig conn s
  | .getLog conn start part => Sys2Proof.Machine.execGetLog conn start part s
  | .keyImport conn part slot key => Sys2Proof.Machine.execKeyImport conn part slot key s
  | .keyDrop conn part slot => Sys2Proof.Machine.execKeyDrop conn part slot s
  | .chunkGet conn => Sys2Proof.Machine.execChunkGet conn s
  | .branch at_ cond target reconv link => Sys2Proof.Machine.execBranch at_ cond target reconv s link
  | .indirectBranch at_ target reconv link => Sys2Proof.Machine.execIndirectBranch at_ target reconv s link
  | .exit at_ => Sys2Proof.Machine.execExit at_ s
  | .vectorInstruction at_ op dst srcs => Sys2Proof.Machine.execVectorInstruction at_ op dst srcs s
  | .specialFunction at_ fn dst src => Sys2Proof.Machine.execSpecialFunction at_ fn dst src s
  | .loadStore at_ args => Sys2Proof.Machine.execLoadStore at_ args s
  | .atomic at_ args => Sys2Proof.Machine.execAtomic at_ args s
  | .xln at_ kind dst flag src sel fill span => Sys2Proof.Machine.execXln at_ kind dst flag src sel fill span s
  | .tally at_ kind dst flag src => Sys2Proof.Machine.execTally at_ kind dst flag src s
  | .join at_ barrier n => Sys2Proof.Machine.execJoin at_ barrier n s
  | .lockAcq at_ addr => Sys2Proof.Machine.execLockAcq at_ addr s
  | .lockRel at_ addr => Sys2Proof.Machine.execLockRel at_ addr s
  | .spinTimeout core slot => Sys2Proof.Machine.execSpinTimeout core slot s
  | .mmaIssue at_ dst addr => Sys2Proof.Machine.execMmaIssue at_ dst addr s
  | .attIssue at_ dst addr => Sys2Proof.Machine.execAttIssue at_ dst addr s
  | .mmaWait at_ token => Sys2Proof.Machine.execMmaWait at_ token s
  | .fence at_ scope => Sys2Proof.Machine.execFence at_ scope s
  | .trap at_ imm => Sys2Proof.Machine.execTrap at_ imm s
  | .brk at_ => Sys2Proof.Machine.execBrk at_ s
  | .matrixOperationStart core => Sys2Proof.Machine.execMatrixOperationStart core s
  | .matrixOperationEnd core => Sys2Proof.Machine.execMatrixOperationEnd core s
  | .bankDrain core => Sys2Proof.Machine.execBankDrain core s
  | .tallyUpdate op => Sys2Proof.Machine.execTallyUpdate op s
  | .promotionReceipt op core => Sys2Proof.Machine.execPromotionReceipt op core s
  | .splitArrival core => Sys2Proof.Machine.execSplitArrival core s
  | .combineRequest core epoch => Sys2Proof.Machine.execCombineRequest core epoch s
  | .combine cluster => Sys2Proof.Machine.execCombine cluster s
  | .sortRequest core => Sys2Proof.Machine.execSortRequest core s
  | .attentionForward core => Sys2Proof.Machine.execAttentionForward core s
  | .attentionBackward core => Sys2Proof.Machine.execAttentionBackward core s
  | .debugAttach mask => Sys2Proof.Machine.execDebugAttach mask s
  | .debugDetach mask => Sys2Proof.Machine.execDebugDetach mask s
  | .dbgHalt => Sys2Proof.Machine.execDbgHalt s
  | .dbgHaltCore => Sys2Proof.Machine.execDbgHaltCore s
  | .haltTakesEffect core slot => Sys2Proof.Machine.execHaltTakesEffect core slot s
  | .dbgStep othersRun => Sys2Proof.Machine.execDbgStep othersRun s
  | .dbgResume => Sys2Proof.Machine.execDbgResume s
  | .dbgResetCore => Sys2Proof.Machine.execDbgResetCore s
  | .dbgRegData write => Sys2Proof.Machine.execDbgRegData write s
  | .dbgLsData write => Sys2Proof.Machine.execDbgLsData write s
  | .coreFaultReset core => Sys2Proof.Machine.execCoreFaultReset core s
  | .sliceRequest slice fault => Sys2Proof.Machine.execSliceRequest slice fault s
  | .fillArrival slice line lo hi fault => Sys2Proof.Machine.execFillArrival slice line lo hi fault s
  | .reductionPerform slice => Sys2Proof.Machine.execReductionPerform slice s
  | .memorySideAtomic slice lo hi => Sys2Proof.Machine.execMemorySideAtomic slice lo hi s
  | .rowRemap channel row found => Sys2Proof.Machine.execRowRemap channel row s found
  | .refreshManagement channel pc bank count => Sys2Proof.Machine.execRefreshManagement channel pc bank count s
  | .hbmThermalRead stack degC watts => Sys2Proof.Machine.execHbmThermalRead stack degC watts s
  | .hbmErrorWindow stack extra damage => Sys2Proof.Machine.execHbmErrorWindow stack extra s damage
  | .hiddenHeatExit stack => Sys2Proof.Machine.execHiddenHeatExit stack s
  | .patrolScrub channel line half found => Sys2Proof.Machine.execPatrolScrub channel line half found s
  | .poleBeatFail pole sent got => Sys2Proof.Machine.execPoleBeatFail pole sent s got
  | .poleTest pole failing => Sys2Proof.Machine.execPoleTest pole failing s
  | .plotMigration tent => Sys2Proof.Machine.execPlotMigration tent s
  | .lateralModuleRetrain edge module rate width => Sys2Proof.Machine.execLateralModuleRetrain edge module rate width s
  | .bucketAdmit kind port cls => Sys2Proof.Machine.execBucketAdmit kind port cls s
  | .spanPortEnable port => Sys2Proof.Machine.execSpanPortEnable port s
  | .spanPortDisable port => Sys2Proof.Machine.execSpanPortDisable port s
  | .spanSense port lanes => Sys2Proof.Machine.execSpanSense port lanes s
  | .spanTrainTimeout port => Sys2Proof.Machine.execSpanTrainTimeout port s
  | .spanEqualisationDone port lanes ok => Sys2Proof.Machine.execSpanEqualisationDone port lanes ok s
  | .spanLinkTest port good => Sys2Proof.Machine.execSpanLinkTest port good s
  | .spanSecureDone port chainOk peer certDigest cfgDigest => Sys2Proof.Machine.execSpanSecureDone port chainOk peer certDigest cfgDigest s
  | .spanDownRetry port => Sys2Proof.Machine.execSpanDownRetry port s
  | .spanRetrain port cause => Sys2Proof.Machine.execSpanRetrain port cause s
  | .spanRetrainDone port good => Sys2Proof.Machine.execSpanRetrainDone port good s
  | .spanFlitReceive port flit => Sys2Proof.Machine.execSpanFlitReceive port flit s
  | .spanKeyUpdate port tx => Sys2Proof.Machine.execSpanKeyUpdate port tx s
  | .spanData m => Sys2Proof.Machine.execSpanData m s
  | .spanReady m => Sys2Proof.Machine.execSpanReady m s
  | .spanReq m => Sys2Proof.Machine.execSpanReq m s
  | .spanClear m => Sys2Proof.Machine.execSpanClear m s
  | .spanDone m => Sys2Proof.Machine.execSpanDone m s
  | .spanCounts m => Sys2Proof.Machine.execSpanCounts m s
  | .spanGo m => Sys2Proof.Machine.execSpanGo m s
  | .spanAbort m => Sys2Proof.Machine.execSpanAbort m s
  | .spanNack m => Sys2Proof.Machine.execSpanNack m s
  | .spanBusyRetry op => Sys2Proof.Machine.execSpanBusyRetry op s
  | .spanRelease m => Sys2Proof.Machine.execSpanRelease m s
  | .entdaa addr => Sys2Proof.Machine.execEntdaa addr s
  | .mctpMessage transport requester type body => Sys2Proof.Machine.execMctpMessage transport requester type body s
  | .pldmRequest type command body => Sys2Proof.Machine.execPldmRequest type command body s
  | .setStateEffecterStates effecter bits setAgain => Sys2Proof.Machine.execSetStateEffecterStates effecter bits setAgain s
  | .fruRead offset len => Sys2Proof.Machine.execFruRead offset len s
  | .guylineListenDone aSignal bSignal ownIdle => Sys2Proof.Machine.execGuylineListenDone aSignal bSignal ownIdle s
  | .claim h prio serial => Sys2Proof.Machine.execClaim h prio serial s
  | .disc h count => Sys2Proof.Machine.execDisc h count s
  | .sync h masterNs residence delay => Sys2Proof.Machine.execSync h masterNs residence delay s
  | .beat h b => Sys2Proof.Machine.execBeat h b s
  | .grant h pos watts => Sys2Proof.Machine.execGrant h pos watts s
  | .glnBreak h pos => Sys2Proof.Machine.execGlnBreak h pos s
  | .leave h => Sys2Proof.Machine.execLeave h s
  | .beatTimer => Sys2Proof.Machine.execBeatTimer s
  | .syncTimer => Sys2Proof.Machine.execSyncTimer s
  | .grantRound => Sys2Proof.Machine.execGrantRound s
  | .masterLost => Sys2Proof.Machine.execMasterLost s
  | .ringInLoss => Sys2Proof.Machine.execRingInLoss s
  | .ringRecover => Sys2Proof.Machine.execRingRecover s
  | .grantTimeout ms => Sys2Proof.Machine.execGrantTimeout ms s
  | .pinCheck pins => Sys2Proof.Machine.execPinCheck pins s
  | .leakMeasure ohms => Sys2Proof.Machine.execLeakMeasure ohms s
  | .pwrVminCtlClear => Sys2Proof.Machine.execPwrVminCtlClear s
  | .w1cClear fn offset bits setNow how => Sys2Proof.Machine.execW1cClear fn offset bits setNow s how
  | .lowWordRead accessor offset bytes how => Sys2Proof.Machine.execLowWordRead accessor offset s bytes how
  | .registerWrite accessor offset value bytes how => Sys2Proof.Machine.execRegisterWrite accessor offset value bytes s how
  | .configurationWrite fn w => Sys2Proof.Machine.execConfigurationWrite fn w s
  | .alignmentMarker disagree => Sys2Proof.Machine.execAlignmentMarker disagree s
  | .aux3v3Absent => Sys2Proof.Machine.execAux3v3Absent s
  | .inputAbsentHoldRelease secs => Sys2Proof.Machine.execInputAbsentHoldRelease secs s
  | .spanPortDrainDone port => Sys2Proof.Machine.execSpanPortDrainDone port s

end Sys2Proof.Machine
end

