-- ==== Sys2Proof/Safety.lean ====
section
/-! DEFINITION. The terms that statements use: the parts of the state and what it means that a command
changes no other part, and the invariants of the machine. -/
namespace Sys2Proof.Safety
open Sys2Proof.Machine

/-- The parts of the state, one for each field of `State` but the queue. -/
inductive Part where
  | tick | free | dev | boot | trust | regs | link | pwr | thm | evt | mgt | gly | span | rng | krn | mem | hbm
  | fab | dbg | down
  deriving DecidableEq, Repr

/-- Two states agree on a part. -/
def Part.same (s t : State) : Part → Prop
  | .tick => t.tick = s.tick
  | .free => t.free = s.free
  | .dev => t.dev = s.dev
  | .boot => t.boot = s.boot
  | .trust => t.trust = s.trust
  | .regs => t.regs = s.regs
  | .link => t.link = s.link
  | .pwr => t.pwr = s.pwr
  | .thm => t.thm = s.thm
  | .evt => t.evt = s.evt
  | .mgt => t.mgt = s.mgt
  | .gly => t.gly = s.gly
  | .span => t.span = s.span
  | .rng => t.rng = s.rng
  | .krn => t.krn = s.krn
  | .mem => t.mem = s.mem
  | .hbm => t.hbm = s.hbm
  | .fab => t.fab = s.fab
  | .dbg => t.dbg = s.dbg
  | .down => t.down = s.down

/-- The queue of waiting commands and every part of the state that is not listed are the same in both states. -/
def OnlyIn (ps : List Part) (s t : State) : Prop := t.pending = s.pending ∧ ∀ p : Part, p ∉ ps → Part.same s t p

/-! Memory as a reader at a home slice sees it. -/
/-- A byte of physical memory and the mark of the half that holds it, as the line's home slice would answer (R190, R224). -/
def memByte (s : State) (a : Nat) : Byte := (lineVal s (lineOf a)).data.getD (a % 128) 0
def memMark (s : State) (a : Nat) : Bool := bit (lineVal s (lineOf a)).pois (a % 128 / 64)
/-- No request waits at any slice. -/
def memQuiet (s : State) : Prop := s.mem.miss = [] ∧ s.mem.redq = [] ∧ s.mem.msa = [] ∧ s.mem.reqs = []
/-- Every cached line is a whole line of HBM3E and is held once. -/
def linesOk (s : State) : Prop := ∀ c ∈ s.mem.lines, c.data.length = 128 ∧ c.line % 128 = 0 ∧ inHbm c.line = true ∧ c.pois < 4 ∧
  (∀ d ∈ s.mem.lines, d.line = c.line → d = c)
/-- The memories are in canonical form, and a clean cached line holds what HBM3E holds. -/
def cacheOk (s : State) : Prop := Memory.wf s = true ∧ linesOk s ∧
  ∀ c ∈ s.mem.lines, c.dirty = false → c.data = (hbmLine s c.line).data ∧ c.pois = (hbmLine s c.line).pois
/-- The state with a request taken from those that wait. -/
def takenOff (s : State) (r : MemReq) : State := { s with mem := { s.mem with reqs := s.mem.reqs.filter (fun x => x.id != r.id) } }

/-- The instruction at the group's program counter may issue now, and its bytes can be read (R57, R92). -/
def Issues (s : State) (i : Iss) (rs : List Nat) (l : Launch) (t : GSet) (g : Grp) : Prop :=
  issuable s i rs = some (l, t, g) ∧ fetchTrap s l i.core g.pc i.len = none

/-- An access to a register takes place: a core's always reaches device register space, the host's is served and lies in BAR0 (R513). -/
def Served (s : State) (acc off : Nat) (read : Bool) (how : Arrival) : Prop :=
  acc ≤ 8 → off < 2 ^ 25 ∧ barGate s acc read false how = .served
/-- A Span message passes its judgement: the port is UP, the tag and the role epoch hold, it is for this device, and the
port's partition is there, not failed and not being torn down (R355, R356, R365). -/
def Judged (s : State) (i : SpanIn) : Prop :=
  (portOf s i.port).st = 4 ∧ i.tagOk = true ∧ i.epoch = epochOf s (584 + i.port) ∧ i.msg.dst = spanAddr s ∧
    downOf s (portPart s i.port) = none ∧ portPart s i.port ∉ s.evt.failed ∧ partExists s (portPart s i.port) = true
/-- The state once a message has been counted in its direction (R355). -/
def counted (s : State) (i : SpanIn) : State := setPort s i.port { portOf s i.port with rxCount := (portOf s i.port).rxCount + 1 }

/-- A partition's page, and the PF may not write it while its interface is locked (R304). -/
def pageLocked (s : State) (acc o : Nat) : Bool :=
  acc == 0 && 0x40000 ≤ o && o < 0x48000 && lockedTdi s (o / 0x1000 - 0x40)

/-- The matrix descriptor of the worked decode tile (04_outer_product_arrays.md). -/
def decodeTile : Bytes :=
  le 4 0x0C010909 ++ le 4 0x1900 ++ le 2 0x100 ++ le 2 0x11 ++ le 4 0xFFFF ++ le 4 0x10000 ++ le 4 0xC80 ++ le 4 0x1C800 ++ le 4 0xC80 ++
  le 8 0x4A0000000000 ++ le 8 0x4A000D2F0000 ++ le 4 0xC8 ++ le 4 0x1D500 ++ le 4 0 ++ le 4 0

/-- The floating-point layouts of R31. -/
def floatFormats : List FF := [ffp32, fbf16, ffp16, fe4m3, fe5m2, fe3m2, fe2m3, fe2m1]
/-- How far the magnitude of code `c` lies from p / d, times the product of both denominators. -/
def offBy (f : FF) (p d c : Nat) : Nat := (((p * (decodeF f c).frac.2 : Nat) : Int) - ((decodeF f c).frac.1 * d : Nat)).natAbs

end Sys2Proof.Safety
end

