-- ==== Sys2Proof/Certificates/Slice0/Obligations.lean ====
section
/-! DEFINITION. The statements for the provers, from the numbered rules of the spec. A hypothesis speaks of the state and of the
operands alone; a conclusion says which next state a command answers, or which parts of the state it leaves (`OnlyIn`). -/
open Sys2Proof Sys2Proof.Machine Sys2Proof.Safety

/-- O1. A step takes the command at the front of the queue and runs it on the state with the queue's rest; with no
command waiting one tick of TSCLK passes, unless the device is STOWED or TRIPPED: a launch with a halted group counts
it, and nothing else changes (log entry 1). -/
def Obligations.StepRunsTheCommandInFront : Prop :=
  (∀ s c r, s.pending = c :: r → step s = exec c { s with pending := r }) ∧
  (∀ s, s.pending = [] → s.dev.st ≠ .stowed → s.dev.st ≠ .tripped → step s = .next (countHalted { s with tick := (s.tick + 1) % 2 ^ 64 })) ∧
  (∀ s, s.pending = [] → s.dev.st ≠ .stowed → s.dev.st ≠ .tripped → (∀ l ∈ s.krn.launches, anyHalted s l.op = false) →
    step s = .next { s with tick := (s.tick + 1) % 2 ^ 64 }) ∧
  (∀ s, s.pending = [] → s.dev.st = .stowed ∨ s.dev.st = .tripped →
    step s = .next { s with pwr := { s.pwr with tripNow := false } }) ∧
  (∀ (s : State) n w, s.withFetchWord n w = s)

/-- O2. R379, R432, R435, R448, R454: what a conventional reset leaves: no command, no launch, no ring, no
configuration, the device STOWED, both memories in their canonical form, and an Identity Store that verifies with
minimum security version 0. -/
def Obligations.ResetIsStowedAndEmpty : Prop :=
  State.reset.pending = [] ∧ State.reset.dev.st = .stowed ∧ State.reset.boot.phase = 0 ∧ State.reset.dev.locked = false ∧
  State.reset.dev.ptab = [] ∧ State.reset.dev.commitGen = 0 ∧ State.reset.krn.launches = [] ∧ State.reset.krn.cores = [] ∧
  State.reset.rng.ops = [] ∧ State.reset.mem.lines = [] ∧ State.reset.mem.reqs = [] ∧ State.reset.thm.level = 0 ∧ State.reset.tick = 0 ∧
  Memory.wf State.reset = true ∧ idRec State.reset ≠ none ∧ (idCur State.reset).minSvn = 0 ∧
  (idCur State.reset).revoked = 0 ∧ (idCur State.reset).marker = false

/-- O3. The canonical form of HBM3E and of the Plots is kept by every step. -/
def Obligations.MemoryKeepsItsCanonicalForm : Prop :=
  ∀ s t, Memory.wf s = true → step s = .next t → Memory.wf t = true

/-- O4. R379, R382, R383: in every step from a state whose Identity Store verifies, it verifies afterwards, the
monotonic counter and the minimum security version do not fall, and no revoked signing key comes back. -/
def Obligations.AntiRollbackNeverFalls : Prop :=
  ∀ s t, idRec s ≠ none → step s = .next t →
    idRec t ≠ none ∧ s.trust.rpmc ≤ t.trust.rpmc ∧ (idCur s).minSvn ≤ (idCur t).minSvn ∧
    ∀ k, bit (idCur s).revoked k = true → bit (idCur t).revoked k = true

/-- O5. R424, R508: in every step the throttle level stays at most 64, its 5 ms phase below 4, and at most three leak
readings are kept. -/
def Obligations.ThrottleAndLeakStayInRange : Prop :=
  ∀ s t, s.thm.level ≤ 64 ∧ s.thm.phase < 4 ∧ s.thm.leakRun.length ≤ 3 → step s = .next t →
    t.thm.level ≤ 64 ∧ t.thm.phase < 4 ∧ t.thm.leakRun.length ≤ 3

/-- O6. R200, R336 to R339: an address beyond a context's limit faults; a translation to device memory ends in the
partition's own Plots or HBM3E outside its code reserve; the addresses of one 64 KiB page translate together; what may
be written may be read. -/
def Obligations.TranslationStaysInThePartition : Prop :=
  (∀ s ctx va w, bit (ctxCfg s ctx) 31 = false ∨ 2 ^ 48 ≤ va ∨ bits (ctxCfg s ctx) 0 19 ≤ va / 2 ^ 30 → translate s ctx va w = .fault) ∧
  (∀ s ctx va w a, translate s ctx va w = .pa a → ∃ base lg, (lg = 16 ∨ lg = 21 ∨ lg = 30) ∧ base % 2 ^ lg = 0 ∧ a = base + va % 2 ^ lg ∧
    (inPlot base = true ∧ ownPlot s (ctxKeyPart s ctx) base = true ∨
      ownHbm s (ctxKeyPart s ctx) base = true ∧ ownHbm s (ctxKeyPart s ctx) (base + 2 ^ lg - 1) = true ∧
      inReserve s (ctxKeyPart s ctx) base (2 ^ lg) = false)) ∧
  (∀ s ctx va vb w a, translate s ctx va w = .pa a → va / 65536 = vb / 65536 →
    translate s ctx vb w = .pa (a - va % 65536 + vb % 65536)) ∧
  (∀ s ctx va a, translate s ctx va true = .pa a → translate s ctx va false = .pa a) ∧
  (∀ s ctx va w off, translate s ctx va w = .regs off → bit (ctxCfg s ctx) 30 = true) ∧
  (∀ s p root va e, readEntry s p (root + 8 * bits va 30 18) = some e → bit e 0 = false → walk0 s p root va = .fault) ∧
  (∀ s ctx va w e, ctxOk s ctx va = true → readEntry s (ctxKeyPart s ctx) (ctxRoot s ctx + 8 * bits va 30 18) = some e →
    bit e 0 = true → bit e 1 = true → entryBad e true = false → entryAddr e % 2 ^ 30 = 0 → bit e 3 = true →
    (w = true → bit e 2 = true) → translate s ctx va w = .host (entryAddr e + va % 2 ^ 30))

/-- O7. R50: rounding to nearest even takes a representable magnitude that none is nearer than, in every
floating-point format and in the integers, and of two that are equally near the one with an even last bit; a
conversion under it writes that magnitude with the value's sign. -/
def Obligations.RoundingTakesTheNearestEven : Prop :=
  (∀ f p d n k, f ∈ floatFormats → 0 < p → 0 < d → n = rne (gridF f p d) → n ≤ f.maxCode → k ≤ f.maxCode →
    offBy f p d n * (decodeF f k).frac.2 ≤ offBy f p d k * (decodeF f n).frac.2 ∧
    (k ≠ n → offBy f p d n * (decodeF f k).frac.2 = offBy f p d k * (decodeF f n).frac.2 → n % 2 = 0)) ∧
  (∀ p d n k : Nat, 0 < d → n = rne (p / d, p % d, d) →
    ((p : Int) - (n * d : Nat)).natAbs ≤ ((p : Int) - (k * d : Nat)).natAbs ∧
    (k ≠ n → ((p : Int) - (n * d : Nat)).natAbs = ((p : Int) - (k * d : Nat)).natAbs → n % 2 = 0)) ∧
  (∀ f ovf neg m e n, f ∈ floatFormats → 0 < m → n = rne (gridF f (Num.fin neg m e).frac.1 (Num.fin neg m e).frac.2) → n ≤ f.maxCode →
    (convF f { ovf } (.fin neg m e)).code = (if neg then 2 ^ (f.eb + f.mb) else 0) + n)

/-- O8. R35 to R37, R42 to R44, R50, R52, R53, R55: every finite code of a floating-point format decodes and converts
back to itself under any control; a T64 block's packed digits read back; the worked conversions. -/
def Obligations.FormatsConvertAndRoundTrip : Prop :=
  (∀ f ctl c, f ∈ [ffp32, fbf16, ffp16, fe4m3, fe5m2, fe3m2, fe2m3, fe2m1] → c < 2 ^ f.w → c % 2 ^ (f.eb + f.mb) ≤ f.maxCode →
    convF f ctl (decodeF f c) = { code := c, clip := false, flush := false }) ∧
  (∀ d : List Nat, d.length = 64 → (∀ x ∈ d, x < 3) → ∀ i, i < 64 →
    t64Digit ((t64Pack d).getD (i / 5) 0).toNat (i % 5) = intNum ((d.getD i 1 : Int) - 1) ∧ t64Faults (t64Pack d) = 0) ∧
  (∀ ovf, (convF fe4m3 { ovf } (ofFp32 0x43960000#32)).code = 0x79 ∧
    convF fe4m3 { ovf } (ofFp32 0x43FA0000#32) = { code := if ovf then 0x7F else 0x7E, clip := true, flush := false } ∧
    convF fe4m3 { ovf } (ofFp32 0xBA6BEDFA#32) = { code := 0x80, clip := false, flush := true } ∧
    convF fe4m3 { ovf } (ofFp32 0x43E60000#32) = { code := 0x7E, clip := false, flush := false }) ∧
  (∀ q, q = quantMx 9 (fun _ => {}) ([0x40E66666#32, 0x40A00000#32, 0x40266666#32, 0xBE99999A#32, 0x3E4CCCCD#32].map ofFp32 ++
      List.replicate 27 (ofFp32 0#32)) →
    q.scale = [0x7F#8] ∧ (packCodes 9 q.codes).take 3 = [0x67#8, 0x95#8, 0#8] ∧ q.clip = 1 ∧ q.flush = 1 ∧ q.nonfinite = 0)

/-- O9. R47: an INT32 accumulator adds exactly within its range, saturates at both ends and stays saturated through
every later cycle; the largest INT8 product is 16,384, and up to K of 131,071 a run of INT8 products is their exact
sum, however its cycles are cut. -/
def Obligations.Int32AccumulatorsAddExactlyAndSaturate : Prop :=
  (∀ (a : Word) (x : Int), a ≠ 0x7FFFFFFF#32 → a ≠ 0x80000000#32 →
    (iadd a x).toInt = max (-2147483648) (min 2147483647 (a.toInt + x))) ∧
  (∀ gs ps, accRun true gs 0x7FFFFFFF#32 ps = 0x7FFFFFFF#32 ∧ accRun true gs 0x80000000#32 ps = 0x80000000#32) ∧
  (∀ a b, a < 256 → b < 256 → (intOf (mulN (elemNum (.int 8 0) a) (elemNum (.int 8 0) b))).natAbs ≤ 16384) ∧
  intOf (mulN (elemNum (.int 8 0) 0x80) (elemNum (.int 8 0) 0x80)) = 16384 ∧
  (∀ gs x y, x.length = y.length → x.length ≤ 131071 → suml gs = x.length → (∀ a ∈ x, a < 256) → (∀ b ∈ y, b < 256) →
    (dotRun true gs 0 (x.map (elemNum (.int 8 0))) (y.map (elemNum (.int 8 0)))).toInt =
      (List.zipWith (fun a b => toS 8 a * toS 8 b) x y).foldl (· + ·) 0)

/-- O10. R74: TRAP raises KERNEL_TRAP, and its trap record carries the immediate; BRK halts the group with BREAKPOINT
when a debugger is attached to the partition, and otherwise does nothing but count and go on. -/
def Obligations.TrapAndBreakpointInstructions : Prop :=
  (∀ s i l t g (m : BitVec 16), Issues s i [] l t g → attached s l.part = false → l.trap = none → posting s = true → i.core ∉ l.trapped →
    ∃ u e l', exec (.trap i m) s = .next u ∧ launchOf u l.op = some l' ∧ l'.ended = true ∧ l'.trap = some (s.tick, 0xE, i.core, i.slot) ∧
      u.evt.q = s.evt.q ++ [e] ∧ e.code = 0x201 ∧ e.detail = pad (le 1 0xE ++ le 1 i.slot ++ le 2 0 ++ le 4 g.active.toNat ++ le 8 g.pc ++ le 2 m.toNat) 28) ∧
  (∀ s i l t g (m : BitVec 16), Issues s i [] l t g → attached s l.part = true →
    ∃ u g', exec (.trap i m) s = .next u ∧ grpOf u i.core i.slot = some g' ∧ g'.halt = some 0xE ∧ g'.trapImm = m.toNat ∧ OnlyIn [.krn] s u) ∧
  (∀ s i l t g, Issues s i [] l t g →
    (attached s l.part = true → ∃ u g', exec (.brk i) s = .next u ∧ grpOf u i.core i.slot = some g' ∧ g'.halt = some 0x10 ∧ g'.regs = g.regs ∧
      g'.pc = g.pc ∧ OnlyIn [.krn] s u) ∧
    (attached s l.part = false → ∃ u, exec (.brk i) s = .next u ∧ (coreOf u i.core).brks = (coreOf s i.core).brks + 1 ∧
      grpOf u i.core i.slot = some (advance i.len g) ∧ (coreOf u i.core).ls = (coreOf s i.core).ls ∧ OnlyIn [.krn] s u))

/-- O11. R396, R504: the converter starts, the input stage reconnects and a dip is posted, each on its own condition
of the input voltage; outside 40 V to 60 V a stopped converter does not start. R396, R504: a running converter stops
below 38 V and the input stage opens above 61 V; what survives is the Identity Store and what the carrier holds. R397,
R400, R401, R417: a lost sense, a failed phase within and beyond what the rail can lose, and a lost clock. R403 to
R406: a cluster's droop below its threshold stretches its clock to 5 or 6 root cycles, a droop above the threshold
plus 10 mV for 32 periods steps it down by one, a step of 16 periods ends it, and the periods are counted. -/
def Obligations.InputRailsAndDroop : Prop :=
  ((∀ s mv us, s.dev.st = .stowed → s.pwr.running = false → s.pwr.opened = false → s.pwr.tripOff = false →
    s.pwr.holdOff = false → 40000 ≤ mv → mv ≤ 60000 → 10000 ≤ us →
    exec (.converterStart mv us) s = .next { s with pwr := { s.pwr with running := true, vin := mv } }) ∧
  (∀ s mv us, -60000 ≤ mv → mv ≤ 80000 → mv < 40000 ∨ 60000 < mv →
    exec (.converterStart mv us) s = .next { s with pwr := { s.pwr with vin := mv } }) ∧
  (∀ s mv us, s.pwr.opened = true → -60000 ≤ mv → mv < 60000 → 100000 ≤ us →
    exec (.inputReconnect mv us) s = .next { s with pwr := { s.pwr with opened := false, vin := mv } }) ∧
  (∀ s mv us, s.pwr.running = true → s.pwr.lowPosted = false → 38000 ≤ mv → mv ≤ 42000 → 100000 < us →
    exec (.inputLowTimer mv us) s =
      .next (detect { s with pwr := { s.pwr with lowPosted := true, vin := mv } } 0x306 0 8 0 0 []))) ∧
  (∀ s mv us, s.pwr.running = true → -60000 ≤ mv → mv ≤ 80000 →
    (mv < 38000 → 1000 ≤ us → ∃ t, exec (.converterStop mv us) s = .next t ∧ t.dev = {} ∧ t.pwr.running = false ∧
      t.pwr.opened = s.pwr.opened ∧ t.pwr.vin = mv ∧ t.pwr.trip = s.pwr.trip ∧ t.trust.copyA = s.trust.copyA ∧
      t.trust.copyB = s.trust.copyB ∧ t.trust.rpmc = s.trust.rpmc ∧ t.trust.lifeBins = s.trust.lifeBins ∧
      t.krn = {} ∧ t.rng = {} ∧ t.mem.lines = [] ∧ t.pending = s.pending) ∧
    (61000 < mv → 10 ≤ us → s.pwr.opened = false → ∃ t, exec (.inputStageOpen mv us) s = .next t ∧ t.dev = {} ∧
      t.pwr.running = false ∧ t.pwr.opened = true ∧ t.pwr.vin = mv ∧ t.pwr.trip = s.pwr.trip ∧
      t.trust.copyA = s.trust.copyA ∧ t.trust.copyB = s.trust.copyB ∧ t.trust.rpmc = s.trust.rpmc ∧
      t.krn = {} ∧ t.rng = {} ∧ t.mem.lines = [] ∧ t.pending = s.pending)) ∧
  ((∀ s rail, s.dev.st ≠ .stowed → s.dev.st ≠ .tripped → 84 ≤ rail → rail ≤ 104 → rail ∉ s.pwr.localSense →
    exec (.senseOpen rail) s =
      .next (detect (recordDefect { s with pwr := { s.pwr with
        localSense := sadd s.pwr.localSense rail, rise := tset s.pwr.rise rail (Nat.min 30 (Config.pathDrop rail)) } } (.sense rail))
        0x304 0 8 rail 0 [])) ∧
  (∀ s rail phase percent, s.dev.st ≠ .stowed → s.dev.st ≠ .tripped → phase < railPhases rail → 150 < percent →
    16 * rail + phase ∉ s.pwr.phaseBad → rail ∉ s.pwr.railOff →
    phasesBad { s with pwr := { s.pwr with phaseBad := sadd s.pwr.phaseBad (16 * rail + phase) } } rail ≤ phaseLimit rail →
    exec (.phaseFail rail phase (.overCurrent percent)) s =
      .next (detect (recordDefect { s with pwr := { s.pwr with phaseBad := sadd s.pwr.phaseBad (16 * rail + phase) } }
        (.phase rail phase)) 0x301 0 (railPart s rail) rail 0 [])) ∧
  (∀ s phase us, s.dev.st ≠ .stowed → s.dev.st ≠ .tripped → phase < 4 → 10 ≤ us → 1280 + phase ∉ s.pwr.phaseBad →
    80 ∉ s.pwr.railOff → 1 ≤ phasesBad s 80 →
    ∃ t, exec (.phaseFail 80 phase (.misbehaved us)) s = .next t ∧ t.dev.st = .tripped ∧ t.pwr.running = false ∧
      t.trust.rpmc = s.trust.rpmc ∧ (s.pwr.aux = true → t.pwr.trip = (2, 0, 0))) ∧
  (∀ s, s.dev.st ≠ .stowed → s.dev.st ≠ .tripped →
    ∃ t, exec .clockLoss s = .next t ∧ t.dev.st = .tripped ∧ t.pwr.running = false ∧ t.pwr.tripOff = true ∧
      t.evt = {} ∧ t.trust.rpmc = s.trust.rpmc ∧ (s.pwr.aux = true → t.pwr.trip = (3, 0, 0)))) ∧
  ((∀ s (k mv : Nat), s.dev.st ≠ .stowed → s.dev.st ≠ .tripped → k < 64 → (mv : Int) < (setpoint s k : Int) - (droopMv s : Int) →
    exec (.droopDetect k mv) s = .next { s with pwr := { s.pwr with
      vmin := (noteMin s k mv).pwr.vmin
      droop := tset s.pwr.droop k (Nat.max (if (mv : Int) < (setpoint s k : Int) - (droopMv s : Int) - 20 then 6 else 5)
        (tget s.pwr.droop 4 k))
      stepping := sdel s.pwr.stepping k } }) ∧
  (∀ s (k mv periods : Nat), s.dev.st ≠ .stowed → s.dev.st ≠ .tripped → k < 64 → tget s.pwr.droop 4 k = 6 → k ∉ s.pwr.stepping → 32 ≤ periods →
    (setpoint s k : Int) - (droopMv s : Int) + 10 < (mv : Int) →
    exec (.stretchRelease k mv periods) s = .next { s with pwr := { s.pwr with
      vmin := (noteMin s k mv).pwr.vmin, cnt6 := tupd s.pwr.cnt6 0 k (fun n => sat 64 (n + periods))
      droop := tset s.pwr.droop k 5, stepping := sadd s.pwr.stepping k } }) ∧
  (∀ s (k mv periods : Nat), s.dev.st ≠ .stowed → s.dev.st ≠ .tripped → k < 64 → tget s.pwr.droop 4 k = 5 → k ∈ s.pwr.stepping →
    16 ≤ periods → exec (.stretchRelease k mv periods) s = .next { s with pwr := { s.pwr with
      vmin := (noteMin s k mv).pwr.vmin, cnt5 := tupd s.pwr.cnt5 0 k (fun n => sat 64 (n + periods))
      droop := tdel s.pwr.droop k, stepping := sdel s.pwr.stepping k } }) ∧
  (∀ s k mv, (noteMin s k mv).pwr.vmin =
    (match tfind s.pwr.vmin k with
     | some (m, _) => if mv < m then tset s.pwr.vmin k (mv, s.tick) else s.pwr.vmin
     | none => tset s.pwr.vmin k (mv, s.tick))))

/-- O12. R501: an input voltage outside -60 V to 80 V is the one thing that stops the model; every other command, on
every state and with every operand, answers a next state. -/
def Obligations.OnlyOverStressStops : Prop :=
  ∀ c s, (∃ t, exec c s = .next t) ∨
    (exec c s = .fault .overStress ∧ ∃ mv : Int, (mv < -60000 ∨ 80000 < mv) ∧
      ((∃ us, c = .converterStart mv us) ∨ (∃ us, c = .converterStop mv us) ∨ (∃ us, c = .inputStageOpen mv us) ∨
       (∃ us, c = .inputReconnect mv us) ∨ (∃ us, c = .inputLowTimer mv us) ∨
       (∃ v : Nat, ∃ ma w d, mv = v ∧ c = .powerAllocation v ma w d)))

/-- O13. R407, R413, R414: the effective limit never passes the configured limit nor what the input current allows
above 1,200 W, no rail is given more than its own limit, and where the arbiter stretches without holding the matrix
queues the estimate at that mean period does not pass the rail's limit. -/
def Obligations.AllocationKeepsEveryLimit : Prop :=
  (∀ s mv ma w d, s.dev.st ≠ .stowed → s.dev.st ≠ .tripped → mv ≤ 80000 →
    ∃ t, exec (.powerAllocation mv ma w d) s = .next t ∧ t.pwr.vin = mv ∧ t.pwr.iin = ma ∧
      t.pwr.eff = Nat.min (pwrLimit s * (80 - s.thm.level) / 80)
        (Nat.max 1200 (Nat.min (pwrLimit s) (Nat.min (s.gly.grant.getD (pwrLimit s)) (90 * mv / 1000)))) ∧
      (∀ k a, (k, a) ∈ t.pwr.alloc → a ≤ iRail s k) ∧ OnlyIn [.pwr, .evt] s t) ∧
  (∀ l leak demand p, arbPeriod l leak demand = (p, false) → 4000 ≤ p ∧ p ≤ 6000 ∧
    (4000 < p → leak < l ∧ 4000 * (demand - leak) ≤ (l - leak) * p ∧ (l - leak) * (p - 1) < 4000 * (demand - leak)))

/-- O14. R409 to R412: a wanted domain ramps, comes up at 95 % of its rail, goes off after its idle time and is off
when its shutdown is done. -/
def Obligations.DomainsPowerUpAndDown : Prop :=
  (∀ s d est, s.dev.st ≠ .stowed → s.dev.st ≠ .tripped → wanted s d = true → domRail d ∉ s.pwr.railOff →
    domBad s d = false → (domOf s d).st = 0 → d ∉ s.pwr.wait → ramping s (domRail d) = false →
    (est + domInrush d ≤ railLimit s (domRail d) → ∃ t, exec (.domainPowerUp d est) s = .next t ∧
      t.pwr.doms = tset s.pwr.doms d { st := 1 } ∧ t.pwr.wait = s.pwr.wait ∧ OnlyIn [.pwr] s t) ∧
    (railLimit s (domRail d) < est + domInrush d →
      exec (.domainPowerUp d est) s = .next { s with pwr := { s.pwr with wait := s.pwr.wait ++ [d] } })) ∧
  (∀ s r d est, nextWaiting s r = some d → ramping s r = false → est + domInrush d ≤ railLimit s r →
    ∃ t, exec (.domainGrant r est) s = .next t ∧ t.pwr.doms = tset s.pwr.doms d { st := 1 } ∧ d ∉ t.pwr.wait ∧
      t.pwr.ptr = tset s.pwr.ptr r (if d = 1019 then 0 else d + 1) ∧ OnlyIn [.pwr] s t) ∧
  (∀ s d est, d ∈ s.pwr.wait → domRail d < 64 → ramping s (domRail d) = false →
    est + domInrush d ≤ railLimit s (domRail d) →
    ∃ t, exec (.domainGrantTimeout d est) s = .next t ∧ t.pwr.doms = tset s.pwr.doms d { st := 1 } ∧
      t.pwr.ramp6 = sadd s.pwr.ramp6 (domRail d) ∧ d ∉ t.pwr.wait ∧ OnlyIn [.pwr] s t) ∧
  (∀ s d pc, (domOf s d).st = 1 → domRail d ∉ s.pwr.ramp6 → 512 ≤ d → 95 ≤ pc →
    exec (.domainRampDone d pc) s = .next { s with pwr := { s.pwr with doms := tset s.pwr.doms d { st := 2 } } }) ∧
  (∀ s core us, (coreOf s core).sets = [] → idleUs s ≠ 0 → idleUs s ≤ us → (domOf s core).st = 2 →
    exec (.coreIdleOff core us) s = .next { s with pwr := { s.pwr with doms := tset s.pwr.doms core { st := 3 } } }) ∧
  (∀ s d, (domOf s d).st = 3 → 576 ≤ d →
    exec (.domainShutdownDone d) s = .next { s with pwr := { s.pwr with
      doms := tset s.pwr.doms d {}, wait := if (domOf s d).pend then s.pwr.wait ++ [d] else s.pwr.wait } }) ∧
  (∀ s d, (domOf s d).st = 3 → 512 ≤ d → d < 576 → ∃ t, exec (.domainShutdownDone d) s = .next t ∧
    t.pwr.doms = tset s.pwr.doms d {} ∧ t.pwr.wait = (if (domOf s d).pend then s.pwr.wait ++ [d] else s.pwr.wait) ∧
    t.fab.epoch = (bumpEpoch s d).fab.epoch ∧ OnlyIn [.pwr, .fab] s t) ∧
  (∀ s d, (domOf s d).st = 3 → d < 512 → ∃ t, exec (.domainShutdownDone d) s = .next t ∧ domOf t d = {} ∧
    coreOf t d = { clearedCore (coreOf s d) with handover := true } ∧
    t.pwr.wait = (if (domOf s d).pend then s.pwr.wait ++ [d] else s.pwr.wait) ∧ OnlyIn [.pwr, .krn] s t)

/-- O15. R285 to R287, R373, R454: the host link comes up from STOWED and a conventional reset takes everything down
but the Identity Store, what the carrier holds and the stacks' contents. -/
def Obligations.HostLinkComesUpAndGoesDown : Prop :=
  (∀ s sris pufOk, s.dev.st = .stowed → s.pwr.running = true →
    exec (.perstNRelease sris pufOk) s = .next { s with
      tick := 0, dev := { s.dev with st := .pitching }, boot := { s.boot with pufOk := pufOk }
      link := { s.link with sris := sris }, pwr := { s.pwr with latched := s.pwr.trip, thermtrip := false } }) ∧
  (∀ s, s.dev.st = .pitching → s.link.cfgReady = false →
    exec .configSpaceReady s = .next { s with
      link := { s.link with cfgReady := true }
      boot := { s.boot with phase := if s.boot.pufOk then 0 else 5, result := if s.boot.pufOk then s.boot.result else 8 } }) ∧
  (∀ s fn, s.dev.st = .pitching → s.link.cfgReady = false →
    exec (.configurationRequestRetry fn) s = .next { s with link := { s.link with out := s.link.out ++ [.retry fn] } }) ∧
  (∀ s rate10 width flit, s.dev.st ≠ .stowed → s.dev.st ≠ .tripped → rate10 ∈ ([25, 50, 80, 160, 320, 640, 1280] : List Nat) →
    width ∈ ([1, 2, 4, 8, 16] : List Nat) → ∃ t, exec (.linkTraining rate10 width (.trained flit)) s = .next t ∧
      t.link = { s.link with up := true, rate10 := rate10, width := width, flit := flit || decide (640 ≤ rate10), active := width } ∧
      ((rate10 = 1280 ∧ width = 16) → t.evt = s.evt) ∧ OnlyIn [.link, .evt] s t) ∧
  (∀ s rate10 width, s.link.up = true → s.link.flit = true → width ∈ ([1, 2, 4, 8, 16] : List Nat) → width ≤ s.link.width →
    exec (.linkTraining rate10 width .l0p) s = .next { s with link := { s.link with active := width } }) ∧
  (∀ s k, k = .perst ∨ s.link.up = true →
    ∃ t, exec (.conventionalReset k) s = .next t ∧ t.dev = {} ∧ t.boot = {} ∧ t.regs = {} ∧ t.link = {} ∧ t.evt = {} ∧
      t.rng = {} ∧ t.krn = {} ∧ t.fab = {} ∧ t.span = {} ∧ t.gly = {} ∧ t.thm = {} ∧ t.down = [] ∧ t.tick = 0 ∧
      t.trust.copyA = s.trust.copyA ∧ t.trust.copyB = s.trust.copyB ∧ t.trust.rpmc = s.trust.rpmc ∧
      t.trust.lifeRecords = s.trust.lifeRecords ∧ t.trust.log = [] ∧ t.trust.keys = [] ∧ t.mem.lines = [] ∧ t.mem.plot = [] ∧
      t.mem.hbm = s.mem.hbm ∧ t.mem.key = s.mem.key ∧ t.pwr.trip = s.pwr.trip ∧ t.pwr.tripOff = s.pwr.tripOff ∧ t.pending = s.pending)

/-- O16. R419, R424: the throttle level rises by two when a region is above target, falls by one at a clear 20 ms tick
and holds otherwise, within 0 to 64. R240, R241, R419, R422, R425, R426 to R429: samples, the exclusion of a broken
sensor, period floors, the trip and the restart after it, bond temperature and the life log. -/
def Obligations.ThermalSensingThrottleAndTrip : Prop :=
  (∀ s, s.dev.st ≠ .stowed → s.dev.st ≠ .tripped →
    ∃ t, exec .throttleTick s = .next t ∧
      t.thm.level = (if anyHot s then Nat.min 64 (s.thm.level + 2)
        else if (s.thm.phase + 1) % 4 = 0 ∧ s.thm.clear = true then s.thm.level - 1 else s.thm.level) ∧
      t.thm.phase = (s.thm.phase + 1) % 4 ∧ t.thm.temp = s.thm.temp ∧ t.thm.excl = s.thm.excl ∧ t.thm.wear = s.thm.wear ∧
      OnlyIn [.thm, .evt] s t) ∧
  ((∀ s rs lid, s.dev.st ≠ .stowed → s.dev.st ≠ .tripped →
    ∃ t, exec (.sensorSample rs lid) s = .next t ∧ t.thm.temp = rs.foldl (fun t r => tset t r.1 (clampTemp r.2)) s.thm.temp ∧
      t.thm.lid = clampTemp lid ∧ t.thm.level = s.thm.level ∧ t.thm.excl = s.thm.excl ∧ OnlyIn [.thm, .evt] s t) ∧
  (∀ s i us, s.dev.st ≠ .stowed → s.dev.st ≠ .tripped → i < 1184 → 100000 < us → i ∉ s.thm.excl → outlier s i = true →
    ∃ t, exec (.sensorSuspect i us) s = .next t ∧ t.thm.excl = sadd s.thm.excl i ∧ t.thm.temp = s.thm.temp ∧
      t.boot.work = addEntry s.boot.work 9 (2 ^ 16 * i) ∧ OnlyIn [.thm, .evt, .boot] s t) ∧
  (∀ s, s.dev.st ≠ .stowed → s.dev.st ≠ .tripped →
    ∃ t, exec .thermalFloor s = .next t ∧ (∀ k, k < 64 → tget t.pwr.floor 0 k =
      Nat.max (floorOf (regionMax s k - targetQ s)) (floorOf (regionMax s (64 + k / 8) - targetQ s))) ∧
      t.pwr.droop = s.pwr.droop ∧ t.pwr.alloc = s.pwr.alloc ∧ OnlyIn [.pwr] s t) ∧
  (∀ s die i j x y, s.dev.st ≠ .stowed → s.dev.st ≠ .tripped → s.pwr.aux = true → 460 < x → 460 < y →
    ∃ t, exec (.thermalTrip (.junction die [(i, x), (j, y)])) s = .next t ∧ t.dev.st = .tripped ∧ t.pwr.trip = (1, die, i) ∧
      t.pwr.thermtrip = true ∧ t.pwr.running = false ∧ t.pwr.tripOff = true ∧ t.trust.rpmc = s.trust.rpmc ∧ t.evt = {}) ∧
  (∀ s die i j x y, s.dev.st = .tripped → s.pwr.tripNow = true → s.pwr.thermtrip = false → s.pwr.aux = true → 460 < x → 460 < y →
    exec (.thermalTrip (.junction die [(i, x), (j, y)])) s =
      .next { s with pwr := { s.pwr with thermtrip := true, trip := (1, die, i) } }) ∧
  (∀ s secs q, s.dev.st = .tripped → s.pwr.tripOff = true → s.pwr.aux = true → s.pwr.holdOff = false → 60 ≤ secs → q ≤ 220 →
    ∃ t, exec (.tripRestart secs (some q)) s = .next t ∧ t.dev.st = .stowed ∧ t.pwr.tripOff = false ∧ t.pwr.thermtrip = false ∧
      t.pwr.trip = s.pwr.trip ∧ t.trust.rpmc = s.trust.rpmc ∧ t.pending = s.pending) ∧
  (∀ s, s.dev.st ≠ .stowed → s.dev.st ≠ .tripped →
    ∃ t, exec .bondTempSample s = .next t ∧ t.thm.temp = s.thm.temp ∧ t.thm.level = s.thm.level ∧ OnlyIn [.thm, .evt] s t) ∧
  (∀ s, s.dev.st ≠ .stowed → s.dev.st ≠ .tripped →
    exec (.lifeLogWrite true) s = .next { s with trust := { s.trust with
      lifeRecords := (s.trust.lifeRecords + 1) % 2 ^ 32
      lifeBins := (List.range 8).map (fun t => (t, (wearOf s t).bins)) } }))

/-- O17. R433, R434, R444: what BOOT_CTL.LOAD, BOOT_CTL.START, the end of the package read and the bound of a start do
in each phase of PITCHING. R437 to R440, R444: with no Ledger presented the start is cold and the start-in-progress
marker is set; a Ledger that cannot be read, or fails a check, returns the phase to 2, and an accepted one decides the
start's kind. R444, R445, R472: a start whose tests end within their bound enters PITCHED with its declaration and
opens the Guyline bypass; beyond the bound it fails. R441, R442: what the tests of a cold start find joins the working
Ledger; those of a warm start do not come upon a Groundsheet row outside their sample and the Ledger's list. -/
def Obligations.StartPhasesAdvance : Prop :=
  ((∀ s, s.dev.st = .pitching → s.link.cfgReady = true →
    (s.boot.phase = 0 ∨ s.boot.phase = 2 → exec .bootCtlLoad s = .next { s with boot := { s.boot with phase := 1 } }) ∧
    (s.boot.phase ≠ 0 → s.boot.phase ≠ 2 → exec .bootCtlLoad s = .next { s with boot := { s.boot with busy := true } }) ∧
    (s.boot.phase = 2 → exec .bootCtlStart s = .next { s with boot := { s.boot with
      phase := 3, startTick := s.tick, startTime := rawReg s 0x10020 0 0 + 2 ^ 32 * rawReg s 0x10024 0 0 } }) ∧
    (s.boot.phase ≠ 2 → exec .bootCtlStart s = .next { s with boot := { s.boot with busy := true } })) ∧
  (∀ s, s.dev.st = .pitching → s.boot.phase = 3 ∨ s.boot.phase = 4 →
    exec .startTimeout s = .next { s with boot := { s.boot with phase := 5, result := 15 } }) ∧
  (∀ s b ok, s.dev.st = .pitching → s.boot.phase = 1 →
    ∃ t, exec (.packageVerdict (.ok b false) ok) s = .next t ∧ t.boot.result = pkgVerdict s b ∧
      t.boot.phase = (if pkgVerdict s b = 1 then 2 else 0) ∧
      t.boot.pkg.map (·.svn) = (if pkgVerdict s b = 1 then some (fld b 8 4) else none) ∧ OnlyIn [.boot, .trust, .evt] s t) ∧
  (∀ s ok, s.dev.st = .pitching → s.boot.phase = 1 →
    exec (.packageVerdict .ur ok) s = .next { s with boot := { s.boot with phase := 0, result := 7, pkg := none } })) ∧
  ((∀ s b f, s.dev.st = .pitching → s.boot.phase = 3 → ldgLen s = 0 → f.storeOk = true →
    ∃ t, exec (.ledgerCheck b f) s = .next t ∧ t.boot.phase = 4 ∧ t.boot.kind = 1 ∧ bit t.boot.coldReason 1 = true ∧
      t.boot.ledger = none ∧ t.boot.found = some f ∧ t.boot.rotation = 0 ∧ (idCur t).marker = true ∧
      (idCur t).minSvn = (idCur s).minSvn ∧ (idCur t).gen = (idCur s).gen ∧ (idCur t).digest = (idCur s).digest ∧
      t.trust.seq = (s.trust.seq + 1) % 2 ^ 32 ∧ OnlyIn [.boot, .trust, .evt] s t) ∧
  (∀ s b f, s.dev.st = .pitching → s.boot.phase = 3 → ldgLen s = 0 → f.storeOk = false →
    ∃ t, exec (.ledgerCheck b f) s = .next t ∧ t.boot.phase = 5 ∧ t.boot.result = 8 ∧ (idCur t).marker = (idCur s).marker ∧
      t.trust.rpmc = s.trust.rpmc) ∧
  (∀ s f, s.dev.st = .pitching → s.boot.phase = 3 → ldgLen s ≠ 0 →
    exec (.ledgerCheck .timeout f) s = .next { s with boot := { s.boot with phase := 2, result := 7 } } ∧
    (∀ b r, ledgerVerdict s b = .inl r → exec (.ledgerCheck (.ok b false) f) s = .next { s with boot := { s.boot with phase := 2, result := r } }) ∧
    (∀ b l, ledgerVerdict s b = .inr l → f.storeOk = true → ∃ t, exec (.ledgerCheck (.ok b false) f) s = .next t ∧ t.boot.phase = 4 ∧
      t.boot.ledger = some l ∧ t.boot.coldReason = coldBits s (some l) ∧ t.boot.kind = (if coldBits s (some l) = 0 then 2 else 1) ∧
      t.boot.rotation = (if coldBits s (some l) = 0 then (l.rotation + 1) % 64 else l.rotation) ∧ (idCur t).marker = true ∧
      OnlyIn [.boot, .trust, .evt] s t))) ∧
  ((∀ s f ms, s.dev.st = .pitching → s.boot.phase = 4 → s.boot.found = some f → ms ≤ startBound s → f.vestibule0Ok = true →
    phasesBad (trainEdges (startPoles (setRails (loadRepairs (addFindings s f.defects)) f)) f.defects) 80 ≤ 1 →
    (declare (trainEdges (startPoles (setRails (loadRepairs (addFindings s f.defects)) f)) f.defects)).dev.usable ≠ 0 →
    ∃ t, exec (.startComplete ms) s = .next t ∧ t.dev.st = .pitched ∧
      t.dev.usable = (declare (trainEdges (startPoles (setRails (loadRepairs (addFindings s f.defects)) f)) f.defects)).dev.usable ∧
      t.gly.st = 1 ∧ t.gly.hold = true ∧ t.krn.cores = [] ∧ t.mem.plot = [] ∧ t.mem.lines = [] ∧ t.pwr.trip = (0, 0, 0) ∧
      t.trust = s.trust ∧ t.regs = s.regs ∧ t.link = s.link ∧ t.tick = s.tick ∧ t.pending = s.pending) ∧
  (∀ s f ms, s.dev.st = .pitching → s.boot.phase = 4 → s.boot.found = some f → startBound s < ms →
    exec (.startComplete ms) s = .next { s with boot := { s.boot with phase := 5, result := 15 } }) ∧
  (∀ s d, s.boot.kind ≠ 2 → ∀ e ∈ defEntries d, e ∈ secOf (addFindings s [d]).boot.work (defSec d)) ∧
  (∀ s l sl row sp, s.boot.ledger = some l → s.boot.kind = 2 → row % 16 ≠ l.rotation % 16 →
    (∀ e ∈ secOf l.secs 4, ¬ (e % 65536 = sl ∧ bits e 16 16 = row)) → addFindings s [.gsRow sl row sp] = s))

/-- O18. R283, R448 to R450: the first failing check refuses a commit, naming the field, and leaves the device in
PITCHED; a commit that passes locks the configuration, takes the partition table and enters OPEN; while a unit that it
moves has had its last role epoch less than 100 µs ago it waits. R380, R451, R452: REPITCH begins the teardown of
every partition, STRIKE forms the Ledger of the next generation unless its buffer is refused, the seal's last step
commits it to the Identity Store, and a token that is read is judged. -/
def Obligations.ConfigurationAndDeviceControl : Prop :=
  ((∀ s op o b, opOf s op = some o → o.code = 0x3F → s.dev.commitOp = some op → s.dev.strikeWaits = false →
    commitBad s o = some b →
    ∃ t, exec (.configCommit op) s = .next t ∧ t.dev.st = s.dev.st ∧ t.dev.locked = s.dev.locked ∧ t.dev.ptab = s.dev.ptab ∧
      t.dev.commitGen = s.dev.commitGen ∧ t.dev.commitOp = none ∧ opOf t op = none ∧ t.trust = s.trust ∧ t.regs = s.regs) ∧
  (∀ s op o, opOf s op = some o → o.code = 0x3F → s.dev.commitOp = some op → s.dev.strikeWaits = false →
    commitBad s o = none →
    (moveSoon s = true → exec (.configCommit op) s = .next s) ∧
    (moveSoon s = false → ∃ t, exec (.configCommit op) s = .next t ∧ t.dev.st = .open_ ∧ t.dev.locked = true ∧ t.dev.inService = true ∧
      t.dev.commitGen = o.f 16 8 ∧ t.dev.ptab = snapshot s ∧ t.dev.commitOp = none ∧
      t.dev.commitDigest = Config.shake256 (cfgImage s) ∧ opOf t op = none ∧ t.regs = s.regs ∧ t.trust.rpmc = s.trust.rpmc))) ∧
  ((∀ s, s.dev.st = .open_ → s.dev.repitch = false → s.dev.fatal = false →
    ∃ t, exec .devCtlRepitch s = .next t ∧ t.dev.repitch = true ∧ t.dev.st = .open_ ∧ t.dev.ptab = s.dev.ptab ∧
      ∀ p, partExists s p = true → (downOf t p).isSome = true) ∧
  (∀ s, s.dev.st = .pitched ∨ s.dev.st = .open_ →
    rawReg s 0x10028 0 0 + 2 ^ 32 * rawReg s 0x1002C 0 0 = 0 ∨ (rawReg s 0x10028 0 0 + 2 ^ 32 * rawReg s 0x1002C 0 0) % 64 ≠ 0 ∨
      rawReg s 0x10030 0 0 < 8388608 → exec .devCtlStrike s = .next { s with dev := { s.dev with strikeRefused := true } }) ∧
  (∀ s, s.dev.st = .pitched ∨ s.dev.st = .open_ → rawReg s 0x10028 0 0 + 2 ^ 32 * rawReg s 0x1002C 0 0 ≠ 0 →
    (rawReg s 0x10028 0 0 + 2 ^ 32 * rawReg s 0x1002C 0 0) % 64 = 0 → 8388608 ≤ rawReg s 0x10030 0 0 →
    (s.dev.commitOp.isSome = true → exec .devCtlStrike s = .next { s with dev := { s.dev with strikeWaits := true } }) ∧
    (s.dev.commitOp = none → ∃ t, exec .devCtlStrike s = .next t ∧ t.dev.st = .striking ∧ t.dev.inService = false ∧
      t.boot.sealing.map (·.1) = some ((idCur s).gen + 1) ∧ t.trust.copyA = s.trust.copyA ∧ t.trust.copyB = s.trust.copyB ∧
      t.trust.rpmc = s.trust.rpmc ∧ t.tick = s.tick)) ∧
  (∀ s gen digest, s.dev.st = .striking → s.boot.sealing = some (gen, digest) →
    ∃ t, exec (.sealCommit true true) s = .next t ∧ t.boot.sealed = true ∧ t.boot.dark = true ∧ t.boot.sealing = none ∧
      (idCur t).gen = gen ∧ (idCur t).digest = digest ∧ (idCur t).marker = false ∧ (idCur t).minSvn = (idCur s).minSvn ∧
      t.gly.hold = false ∧ t.dev.st = .striking) ∧
  (∀ s b ok, s.dev.st = .pitched ∨ s.dev.st = .open_ → rawReg s 0xB0008 0 0 = 7422 →
    ∃ t, exec (.secMboxGo (.ok b false) ok) s = .next t ∧ t.trust.mboxResult = (applyToken s b ok).2 ∧
      (tokenVerdict s b ≠ 1 → t.trust = { s.trust with mboxResult := tokenVerdict s b } ∧ t.evt = s.evt) ∧
      OnlyIn [.trust, .evt] s t))

/-- O19. R246, R249, R254 to R261: a candidate row moves to the lowest free spare with its sectors, activations are
counted towards refresh management and those beyond the maximum are held, a stack's reading moves its policy row or
trips the device, hidden heat begins and ends, and the patrol rewrites what it corrects and poisons what it cannot
read. R229 to R239, R269 to R271, R279: a beat is checked, discarded or counted, a Pole test moves the Pole down the
ladder only, a Plot migration switches the relief map, a module retrains, degrades or fails, and a held request leaves
its bucket. -/
def Obligations.HbmPolesAndBuckets : Prop :=
  ((∀ s ch key i found u, s.dev.st ≠ .stowed → s.dev.st ≠ .tripped → 8 ≤ tget (chanOf s ch).corr 0 key →
    key ∉ (chanOf s ch).unrep → i < 1572 → i ∉ (chanOf s ch).remap.map (·.2) →
    (∀ j, j < i → j ∈ (chanOf s ch).remap.map (·.2)) → u = moveRow s ch key found →
    ∃ t, exec (.rowRemap ch key found) s = .next t ∧
      t.hbm.chans = tset u.hbm.chans ch { chanOf u ch with
        remap := tset (chanOf u ch).remap key i, corr := tdel (chanOf u ch).corr key } ∧
      t.hbm.stk = u.hbm.stk ∧ t.mem = u.mem ∧ t.boot = (recordDefect s (rowDefect ch key i)).boot ∧
      (∀ a, lineOf a ∉ rowLines ch key → memByte t a = memByte s a ∧ memMark t a = memMark s a) ∧
      OnlyIn [.hbm, .boot, .evt, .mem] s t) ∧
  (∀ s ch key, Memory.wf s = true →
    (∀ l ∈ rowLines ch key, tfind s.mem.flaw (l / 64) = none ∧ tfind s.mem.flaw (l / 64 + 1) = none) →
    ∃ t, exec (.rowRemap ch key []) s = .next t ∧ ∀ a, memByte t a = memByte s a ∧ memMark t a = memMark s a) ∧
  (∀ s ch pc bank count k all n c, k = 64 * pc + bank → all = tget (chanOf s ch).raa 0 k + tget (chanOf s ch).held 0 k + count →
    n = Nat.min all (Config.raaMax (ch / 16)) →
    c = { chanOf s ch with held := if all = n then tdel (chanOf s ch).held k else tset (chanOf s ch).held k (all - n) } →
    exec (.refreshManagement ch pc bank count) s = .next (setChan s ch (if Config.raaInitial (ch / 16) ≤ n
      then { c with rfm := c.rfm + 1, raa := tset c.raa k (n - Config.raaInitial (ch / 16)) }
      else { c with raa := tset c.raa k n }))) ∧
  (∀ s k c w, s.dev.st ≠ .stowed → s.dev.st ≠ .tripped →
    (c < 105 → ∃ t, exec (.hbmThermalRead k c w) s = .next t ∧ (stackOf t k).rep = c ∧
      (stackOf t k).row = (if c < 85 then 0 else if c < 95 then 1 else if c < 100 then 2 else 3) ∧
      (stackOf t k).tmid = tMid s k c w ∧ (95000 ≤ tMid s k c w → (stackOf t k).hidden = true) ∧
      refreshRate (stackOf t k) = (if c < 85 then 1 else if c < 95 then 2 else 4) * (if (stackOf t k).hidden then 2 else 1) ∧
      ((stackOf t k).hidden = true → bandwidthCap (stackOf t k) ≤ 50) ∧
      ((stackOf t k).hidden = false → bandwidthCap (stackOf t k) = if c < 95 then 100 else if c < 100 then 75 else 50) ∧
      (∀ j, j ≠ k → stackOf t j = stackOf s j) ∧ t.hbm.chans = s.hbm.chans ∧ OnlyIn [.hbm, .evt, .thm] s t) ∧
    (105 ≤ c → s.pwr.aux = true → ∃ t, exec (.hbmThermalRead k c w) s = .next t ∧ t.dev.st = .tripped ∧
      t.pwr.trip = (1, 31, k) ∧ t.pwr.thermtrip = true)) ∧
  (∀ s k n d, ∃ t, exec (.hbmErrorWindow k n d) s = .next t ∧
    (stackOf t k).counts = (((stackOf s k).win + n) :: (stackOf s k).counts).take 10 ∧ (stackOf t k).win = 0 ∧
    (∀ j, j ≠ k → stackOf t j = stackOf s j) ∧ t.hbm.chans = s.hbm.chans ∧ t.mem = (addDamage s k d).mem ∧ (d = [] → t.mem = s.mem) ∧
    (∀ x, (∀ e ∈ d, e.1 ≠ x) → tfind t.mem.flaw x = tfind s.mem.flaw x) ∧ OnlyIn [.hbm, .evt, .mem] s t) ∧
  (∀ s k, (stackOf s k).hidden = true →
    (∀ t, (stackOf s k).clearAt = some t → t + 1000000000 ≤ s.tick → exec (.hiddenHeatExit k) s = .next { s with hbm := { s.hbm with
      stk := tset s.hbm.stk k { stackOf s k with hidden := false } } }) ∧
    ((∀ t, (stackOf s k).clearAt = some t → s.tick < t + 1000000000) → exec (.hiddenHeatExit k) s = .next s)) ∧
  (∀ s ch line half f pa, s.dev.st ≠ .stowed → s.dev.st ≠ .tripped → pa = lineAt ch line + 64 * (half % 2) → outOfService s pa = false →
    (∀ l, sectorVerdict s pa f = .clean l → ∃ t, exec (.patrolScrub ch line half f) s = .next t ∧
      t.mem = s.mem ∧ t.hbm.rewrite = sdel s.hbm.rewrite (pa / 64) ∧ OnlyIn [.hbm] s t) ∧
    (∀ l e, sectorVerdict s pa f = .corrected l e → ∃ t, exec (.patrolScrub ch line half f) s = .next t ∧
      t.mem = (putSector s pa (sectorOut s pa (.corrected l e)).1 false).mem ∧ t.hbm.rewrite = sdel (sdel s.hbm.rewrite (pa / 64)) (pa / 64) ∧
      OnlyIn [.hbm, .mem, .evt] s t) ∧
    (sectorVerdict s pa f = .uncorrectable → resident s (lineOf pa) = none → ∃ t, exec (.patrolScrub ch line half f) s = .next t ∧
      t.mem = (putSector s pa (sectorData s pa) true).mem ∧ sectorPois t pa = true ∧ tfind t.mem.flaw (pa / 64) = none ∧
      OnlyIn [.hbm, .mem, .evt] s t))) ∧
  ((∀ s pole sent got p, s.dev.st ≠ .stowed → s.dev.st ≠ .tripped → p = Machine.poleOf s pole → p.st < 3 →
    (beatValid got = true → (p.discard = true → isReplay got = true) → beatOk p got = false →
      ∃ t, exec (.poleBeatFail pole sent got) s = .next t ∧
        (Machine.poleOf t pole).fails = sat 32 (p.fails + 1) ∧ (Machine.poleOf t pole).st = p.st ∧
        (Machine.poleOf t pole).discard = true ∧ (Machine.poleOf t pole).rx = p.rx ∧
        (Machine.poleOf t pole).again = resendFrom (lastEight (p.buf ++ sent)) p.rx ∧
        t.fab.replays = s.fab.replays ++ [(pole, p.rx)] ∧
        (∀ q, q ≠ pole → Machine.poleOf t q = Machine.poleOf s q) ∧ OnlyIn [.fab] s t) ∧
    (beatValid got = true → (p.discard = true → isReplay got = true) → beatOk p got = true → (p.st = 2 → isSecondHalf got = true) →
      ∃ t, exec (.poleBeatFail pole sent got) s = .next t ∧
        (Machine.poleOf t pole).rx = (p.rx + 1) % 8 ∧ (Machine.poleOf t pole).discard = false ∧ (Machine.poleOf t pole).fails = p.fails ∧
        (∀ q, q ≠ pole → Machine.poleOf t q = Machine.poleOf s q) ∧ t.fab.testq = s.fab.testq ∧ OnlyIn [.fab] s t) ∧
    (beatValid got = false ∨ (p.discard = true ∧ isReplay got = false) →
      exec (.poleBeatFail pole sent got) s = .next (setPole s pole { p with buf := lastEight (p.buf ++ sent) }))) ∧
  (∀ s pole, nextTest s (pole / 1024) = some pole → (Machine.poleOf s pole).st < 4 →
    ∃ t, exec (.poleTest pole []) s = .next t ∧ (Machine.poleOf t pole).st = (Machine.poleOf s pole).st ∧
      (Machine.poleOf t pole).wires = (Machine.poleOf s pole).wires ∧ pole ∉ t.fab.testq ∧ OnlyIn [.fab, .evt] s t) ∧
  (∀ s pole w ws, nextTest s (pole / 1024) = some pole → (Machine.poleOf s pole).st < 4 →
    (Machine.poleOf s (buddy pole)).st ≠ 3 → buddy pole ≠ pole →
    ∃ t, exec (.poleTest pole (w :: ws)) s = .next t ∧
      (Machine.poleOf t pole).wires = (w :: ws).foldl sadd (Machine.poleOf s pole).wires ∧
      (Machine.poleOf t pole).st = Nat.max (Machine.poleOf s pole).st (poleState (Machine.poleOf t pole).wires) ∧
      OnlyIn [.fab, .evt, .boot] s t) ∧
  (∀ s tent k, k ∈ s.fab.migrate → k / 8 = tent →
    ∃ t, exec (.plotMigration tent) s = .next t ∧ k ∈ t.fab.relief ∧ k ∉ t.fab.migrate ∧ t.fab.cut = s.fab.cut ∧
      t.mem.plot = s.mem.plot ∧ (∀ a, inPlot (lineOf a) = true → memByte t a = memByte s a) ∧ OnlyIn [.fab, .mem, .hbm, .evt] s t) ∧
  (∀ s e m, s.dev.st = .pitched ∨ s.dev.st = .open_ → m < edgeModules e → edgeUp s e = true → (moduleOf s e m).2 ≠ 0 →
    (∃ t, exec (.lateralModuleRetrain e m 32 64) s = .next t ∧ moduleOf t e m = (32, 64) ∧
      t.fab.degraded = s.fab.degraded ∧ t.fab.downStart = s.fab.downStart ∧ OnlyIn [.fab, .evt] s t) ∧
    (∀ r w, accepted r w ≠ (32, 64) → ∃ t, exec (.lateralModuleRetrain e m r w) s = .next t ∧ moduleOf t e m = accepted r w ∧
      (∀ p, p ∈ t.fab.degraded ↔ p ∈ s.fab.degraded ∨ (p ∈ parts s ∧ crosses s p e = true)) ∧
      (e ∈ t.fab.downSvc ↔ e ∈ s.fab.downSvc ∨ trained t e = 0) ∧ OnlyIn [.fab, .evt] s t)) ∧
  (∀ s kind port cls key b r rest, key = portKey kind port cls → tfind s.fab.bkt key = some b → b.held = .mem r :: rest →
    64 * reqBytes s r ≤ refill b (bktCfg s (keyPart s key) kind cls) s.tick →
    ∃ t x, exec (.bucketAdmit kind port cls) s = .next t ∧ t.mem.reqs = s.mem.reqs ++ [x] ∧ x.id = r.id ∧ x.src = r.src ∧
      x.line = r.line ∧ x.act = r.act ∧ (tget t.fab.bkt b key).held = rest ∧
      (tget t.fab.bkt b key).tok = refill b (bktCfg s (keyPart s key) kind cls) s.tick - 64 * reqBytes s r ∧
      OnlyIn [.fab, .mem] s t) ∧
  (∀ s kind port cls key b r rest, key = portKey kind port cls → tfind s.fab.bkt key = some b → b.held = .mem r :: rest →
    refill b (bktCfg s (keyPart s key) kind cls) s.tick < 64 * reqBytes s r → bits (bktCfg s (keyPart s key) kind cls) 0 16 ≠ 0 →
    ∃ b', b' = { b with tok := refill b (bktCfg s (keyPart s key) kind cls) s.tick, at_ := s.tick } ∧
      exec (.bucketAdmit kind port cls) s = .next { s with fab := { s.fab with bkt := tset s.fab.bkt key b' } }))

/-- O20. R467 to R470: the dynamic address, MCTP messages, PLDM answers and the alert acknowledge of a module in full
service. R416, R429, R479, R508 to R510: the FRU EEPROM, the pin check, the leak rope, the alignment marker and the
carrier's auxiliary supply. -/
def Obligations.ManagementAndModuleChecks : Prop :=
  ((∀ s addr, posting s = true →
    (s.mgt.i3c = none → exec (.entdaa addr) s = .next { s with mgt := { s.mgt with
      i3c := some addr, out := s.mgt.out ++ [(3, addr, Config.provisionalId Config.serial)] } }) ∧
    (s.mgt.i3c ≠ none → exec (.entdaa addr) s = .next s)) ∧
  (∀ s tr req body, posting s = true → tr = 0 ∧ s.mgt.i3c.isSome = true ∨ tr = 1 ∧ s.link.cfgReady = true → body.length ≤ 4096 →
    exec (.mctpMessage tr req .other body) s = .next s ∧
    (∃ t, exec (.mctpMessage tr req .control body) s = .next t ∧
      t.mgt.out = s.mgt.out ++ (unitsOf tr (Config.pldmAnswer 0x100 (fld body 0 1) body)).map (fun x => (tr, req, x)) ∧
      t.mgt.eid = (if fld body 0 1 = 1 then tset s.mgt.eid tr (fld body 2 1) else s.mgt.eid) ∧ OnlyIn [.mgt] s t) ∧
    (∀ ty code, (ty, code) ∈ [(MctpType.pldm, 1), (MctpType.spdm, 5)] →
      ((2 * req + tr, code) ∈ s.mgt.inflight → exec (.mctpMessage tr req ty body) s = .next s) ∧
      ((2 * req + tr, code) ∉ s.mgt.inflight → exec (.mctpMessage tr req ty body) s =
        .next { s with mgt := { s.mgt with inflight := s.mgt.inflight ++ [(2 * req + tr, code)] } }))) ∧
  (∀ s tr req ty body, 4096 < body.length → exec (.mctpMessage tr req ty body) s = .next s) ∧
  (∀ s tr req rest cmd body, s.mgt.inflight = (2 * req + tr, 1) :: rest → tr < 2 → (2 * req + tr, 1) ∉ rest →
    (posting s = true →
      ∃ t, exec (.pldmRequest 5 cmd body) s = .next t ∧ t.mgt.out = s.mgt.out ++ [(tr, req, le 1 0x20)] ∧
        t.mgt.inflight = rest ∧ OnlyIn [.mgt] s t) ∧
    (posting s = true → fld body 0 2 = 6 →
      ∃ t, exec (.pldmRequest 2 0x11 body) s = .next t ∧ OnlyIn [.mgt] s t ∧
        t.mgt.out = s.mgt.out ++ (unitsOf tr (Config.pldmAnswer 2 0x11 (slice body 0 2 ++ le 4 (ofS 32 (s.thm.level : Int))))).map (fun x => (tr, req, x))) ∧
    (posting s = false → s.dev.st = .pitching →
      ∃ t, exec (.pldmRequest 2 cmd body) s = .next t ∧ t.mgt.out = s.mgt.out ++ [(tr, req, le 1 0x04)] ∧ OnlyIn [.mgt] s t)) ∧
  (∀ tr b, (unitsOf tr b).flatten = b ∧ (tr < 2 → ∀ u ∈ unitsOf tr b, u.length ≤ 64)) ∧
  (∀ s bits again k, posting s = true → k < 5 →
    ∃ t, exec (.setStateEffecterStates 1 bits again) s = .next t ∧
      bit t.evt.alert k = (bit again k || bit s.evt.alert k && !bit bits k) ∧ t.evt = { s.evt with alert := t.evt.alert } ∧
      OnlyIn [.evt] s t)) ∧
  ((∀ s off len, (s.pwr.aux = true → exec (.fruRead off len) s = .next { s with mgt := { s.mgt with out := s.mgt.out ++
      [(2, 0x50, (List.range len).map (fun i => Config.fru ((off + i) % 8192)))] } }) ∧
    (s.pwr.aux = false → exec (.fruRead off len) s = .next s)) ∧
  (∀ s pin k, posting s = true → pin < 11 →
    exec (.pinCheck [(pin, .ok)]) s = .next s ∧
    (k ≠ .ok → pin ≠ 3 → pin ∈ s.mgt.pins → exec (.pinCheck [(pin, k)]) s = .next s) ∧
    (k ≠ .ok → pin ∉ s.mgt.pins → ∃ t, exec (.pinCheck [(pin, k)]) s = .next t ∧ t.mgt.pins = sadd s.mgt.pins pin ∧
      (t.evt.q.getLast?).map (·.code) = some 0x550 ∧ t.gly = (if pin = 3 then { s.gly with st := 5, hold := false, grant := none, next := none } else s.gly) ∧
      OnlyIn [.mgt, .evt, .gly] s t)) ∧
  (∀ s ohms, posting s = true → s.thm.leakRun = [leakClass ohms, leakClass ohms] → leakClass ohms ≠ s.thm.leak →
    ∃ t, exec (.leakMeasure ohms) s = .next t ∧ t.thm.leak = (if 50000 < ohms then 2 else if 7000 ≤ ohms then 0 else 1) ∧
      t.thm.level = s.thm.level ∧ t.thm.temp = s.thm.temp ∧ t.dev = s.dev ∧ (ohms ≤ 50000 → t.evt = s.evt) ∧
      OnlyIn [.thm, .mgt, .evt] s t) ∧
  (∀ s ohms a r, posting s = true → s.thm.leakRun = a :: r → a ≠ leakClass ohms →
    exec (.leakMeasure ohms) s = .next { s with thm := { s.thm with leakRun := leakClass ohms :: a :: r.take 1 } }) ∧
  (∀ s dies, s.dev.st ≠ .stowed → s.dev.st ≠ .tripped → exec (.alignmentMarker dies) s =
    .next { s with pwr := { s.pwr with alignCnt := sat 16 (s.pwr.alignCnt + dies.length) } }) ∧
  (∀ s, exec .aux3v3Absent s = .next { s with pwr := { s.pwr with aux := false, trip := (0, 0, 0), trips := [] } }) ∧
  (∀ s secs, s.pwr.running = false → s.pwr.holdOff = true → 10 ≤ secs →
    ∃ t, exec (.inputAbsentHoldRelease secs) s = .next t ∧ t.pwr.holdOff = false ∧ t.pwr.tripOff = false ∧
      (s.dev.st = .tripped → t.dev.st = .stowed) ∧ (s.dev.st ≠ .tripped → t.dev = s.dev) ∧ t.trust.rpmc = s.trust.rpmc ∧
      t.pending = s.pending))

/-- O21. R472, R474, R478: joining, election, discovery, leaving, the loss of the master and a broken ring. R474,
R475: what SYNC and BEAT frames leave behind, and what the module sends of its own each period. R476, R477: a lower
grant applies on receipt, a higher one waits for the next round, a stale one falls to the lower of the held grant and
max(1,200 W, B / N), and the master's own share comes from its round. -/
def Obligations.GuylineElectsAndGrants : Prop :=
  ((∀ s b, s.gly.st = 1 → exec (.guylineListenDone false false b) s = .next s) ∧
  (∀ s a b, s.gly.st = 1 → a = true ∨ b = true →
    (∃ t, exec (.guylineListenDone a b false) s = .next t ∧ t.gly.st = 2 ∧ t.gly.hold = s.gly.hold ∧
      t.gly.swapped = (s.gly.swapped || (!a && b)) ∧
      t.gly.out = s.gly.out ++ [frame 1 0 0xFFFF s.gly.seq (glnPrio s :: serialNums)] ∧
      OnlyIn [.gly, .evt] s t) ∧
    (∃ t, exec (.guylineListenDone a b true) s = .next t ∧ t.gly = { s.gly with st := 5, hold := false } ∧
      OnlyIn [.gly, .evt] s t)) ∧
  (∀ s h, s.gly.hold = true → s.gly.st = 2 →
    (∀ prio ser, crcGood h 1 (prio :: ser.map (·.toNat)) = true → h.own = true → glnPrio s = 0 → exec (.claim h prio ser) s = .next s) ∧
    (∀ prio ser, crcGood h 1 (prio :: ser.map (·.toNat)) = true → h.own = true → glnPrio s ≠ 0 → ∃ t, exec (.claim h prio ser) s = .next t ∧ t.gly.master = true ∧ t.gly.st = 3 ∧ t.gly.pos = 0 ∧
      t.gly.out = s.gly.out ++ [frame 2 0 0 s.gly.seq [0]] ∧ OnlyIn [.gly] s t) ∧
    (∀ prio ser, crcGood h 1 (prio :: ser.map (·.toNat)) = true → h.own = false → h.hops < 63 → glnPrio s < prio → ∃ t, exec (.claim h prio ser) s = .next t ∧
      t.gly = { s.gly with out := s.gly.out ++ [frame 1 (h.hops + 1) h.srcPos h.seq (prio :: ser.map (·.toNat))] } ∧ OnlyIn [.gly] s t) ∧
    (∀ prio ser, crcGood h 1 (prio :: ser.map (·.toNat)) = true → h.own = false → prio < glnPrio s → exec (.claim h prio ser) s = .next s) ∧
    (∀ count, crcGood h 2 [count] = true → h.own = false → h.hops < 63 → ∃ t, exec (.disc h count) s = .next t ∧ t.gly.st = 3 ∧ t.gly.pos = count + 1 ∧
      t.gly.out = s.gly.out ++ [frame 2 (h.hops + 1) h.srcPos h.seq [count + 1]] ∧
      (s.gly.upDue = false → t.evt = s.evt) ∧ t.gly.upDue = false ∧ OnlyIn [.gly, .evt] s t)) ∧
  (∀ s h count, s.gly.hold = true → s.gly.st = 3 → crcGood h 2 [count] = true → h.own = true →
    ∃ t, exec (.disc h count) s = .next t ∧ t.gly.n = count + 1 ∧ t.gly.pos = s.gly.pos ∧
      (64 < count + 1 → t.gly.grant = none) ∧ (count + 1 ≤ 64 → t.gly.grant = s.gly.grant ∧ (s.gly.upDue = false → t.evt = s.evt)) ∧
      OnlyIn [.gly, .evt] s t) ∧
  (∀ s h pos, s.gly.hold = true → s.gly.st = 3 → h.own = false →
    (crcGood h 7 [] = true → ∃ t, exec (.leave h) s = .next t ∧ t.gly.st = 2 ∧ t.gly.master = false ∧ OnlyIn [.gly] s t) ∧
    (crcGood h 6 [pos] = true → ∃ t, exec (.glnBreak h pos) s = .next t ∧ t.gly.st = 4 ∧ t.gly.grant = s.gly.grant ∧ OnlyIn [.gly, .evt] s t)) ∧
  (∀ s, s.gly.hold = true → s.gly.st = 3 →
    (s.gly.master = false → ∃ t, exec .masterLost s = .next t ∧ t.gly.st = 2 ∧ OnlyIn [.gly, .evt] s t) ∧
    (s.gly.breaking = false → ∃ t, exec .ringInLoss s = .next t ∧ t.gly.st = 4 ∧ t.gly.breaking = true ∧
      t.gly.out = s.gly.out ++ [frame 6 0 s.gly.pos s.gly.seq [s.gly.pos]] ∧
      OnlyIn [.gly] s t)) ∧
  (∀ s, s.gly.hold = true → s.gly.st = 4 → s.gly.breaking = true →
    ∃ t, exec .ringRecover s = .next t ∧ t.gly.st = 2 ∧ t.gly.breaking = false ∧ t.gly.upDue = true ∧ OnlyIn [.gly, .evt] s t) ∧
  (∀ s h pos w, s.gly.hold = true → s.gly.st = 3 → crcGood h 5 [pos, w] = false →
    exec (.grant h pos w) s = .next { s with gly := { s.gly with crc := sat 16 (s.gly.crc + 1) } })) ∧
  ((∀ s h m r d, s.gly.hold = true → s.gly.st = 3 → crcGood h 3 [m, r, d] = true → h.own = false → 0 < s.gly.n → h.hops < 63 →
    ∃ t, exec (.sync h m r d) s = .next t ∧ t.gly.ofs =
        (m : Int) + r + (s.gly.pos : Int) * ((d : Int) - (s.gly.n : Int) * 96) / (s.gly.n : Int) - (10 * s.tick : Nat) ∧
      t.gly.out = s.gly.out ++ [frame 3 (h.hops + 1) h.srcPos h.seq [m, r + 96, d]] ∧
      t.tick = s.tick ∧ OnlyIn [.gly] s t) ∧
  (∀ s h m r d, s.gly.hold = true → s.gly.st = 3 → crcGood h 3 [m, r, d] = true → h.own = true →
    exec (.sync h m r d) s = .next { s with gly := { s.gly with delay := 10 * s.tick - s.gly.syncAt } }) ∧
  (∀ s h b, s.gly.hold = true → s.gly.st = 3 → crcGood h 4 (beatBody b) = true → h.own = false →
    ∃ t, exec (.beat h b) s = .next t ∧ tfind t.gly.peers h.srcPos = some b ∧
      (∀ p, p ≠ h.srcPos → tfind t.gly.peers p = tfind s.gly.peers p) ∧
      t.gly.out = (if h.hops < 63 then s.gly.out ++ [frame 4 (h.hops + 1) h.srcPos h.seq (beatBody b)]
        else s.gly.out) ∧ OnlyIn [.gly] s t) ∧
  (∀ s, s.gly.hold = true → s.gly.st = 3 → s.gly.breaking = false →
    (∃ t, exec .beatTimer s = .next t ∧ t.gly.out = s.gly.out ++
        [frame 4 0 s.gly.pos s.gly.seq (beatBody (ownBeat s))] ∧
      t.gly.seq = (s.gly.seq + 1) % 2 ^ 32 ∧ OnlyIn [.gly] s t) ∧
    (s.gly.master = true → ∃ t, exec .syncTimer s = .next t ∧ t.gly.syncAt = 10 * s.tick ∧ t.gly.out = s.gly.out ++
        [frame 3 0 s.gly.pos s.gly.seq [10 * s.tick, 0, s.gly.delay]] ∧ OnlyIn [.gly] s t) ∧
    (s.gly.master = false → exec .syncTimer s = .next s))) ∧
  ((∀ s h w, s.gly.hold = true → s.gly.st = 3 → crcGood h 5 [s.gly.pos, w] = true → h.own = false → s.gly.next = none →
    (w ≤ s.gly.grant.getD 1200 →
      exec (.grant h s.gly.pos w) s = .next { s with gly := { s.gly with grant := some w, next := none } }) ∧
    (s.gly.grant.getD 1200 < w → exec (.grant h s.gly.pos w) s =
      .next { s with gly := { s.gly with grant := some (s.gly.grant.getD 1200), next := some w } })) ∧
  (∀ s h w w', s.gly.hold = true → s.gly.st = 3 → crcGood h 5 [s.gly.pos, w'] = true → h.own = false → s.gly.next = some w → w < w' →
    exec (.grant h s.gly.pos w') s = .next { s with gly := { s.gly with grant := some w, next := some w' } }) ∧
  (∀ s h w, s.gly.hold = true → s.gly.st = 4 → crcGood h 5 [s.gly.pos, w] = true → h.own = false →
    exec (.grant h s.gly.pos w) s = .next s) ∧
  (∀ s h pos w, s.gly.hold = true → s.gly.st = 3 → crcGood h 5 [pos, w] = true → h.own = false → pos ≠ s.gly.pos → h.hops < 63 →
    exec (.grant h pos w) s = .next { s with gly := { s.gly with grant := some (s.gly.grant.getD 1200), out := s.gly.out ++ [frame 5 (h.hops + 1) h.srcPos h.seq [pos, w]] } }) ∧
  (∀ s ms, ms < 1000 → exec (.grantTimeout ms) s = .next s) ∧
  (∀ s ms g, 1000 ≤ ms → s.gly.grant = some g → s.gly.master = true → s.gly.n ≠ 0 →
    exec (.grantTimeout ms) s = .next { s with gly := { s.gly with
      grant := some (Nat.min g (Nat.max 1200 (glnRack s / s.gly.n / 25 * 25))), next := none } }) ∧
  (∀ s ms g, 1000 ≤ ms → s.gly.grant = some g → s.gly.master = false →
    ∃ t w, exec (.grantTimeout ms) s = .next t ∧ t.gly.grant = some w ∧ w ≤ g ∧ t.gly.next = none ∧ OnlyIn [.gly, .free] s t) ∧
  (∀ s, s.gly.hold = true → s.gly.st = 3 → s.gly.master = true → s.gly.n ≤ 64 → 0 < s.gly.n → s.gly.next = none →
    (glnRack s = 0 → exec .grantRound s = .next { s with gly := { s.gly with grant := none } }) ∧
    (glnRack s ≠ 0 → glnRack s < 1200 * s.gly.n → ∃ t, exec .grantRound s = .next t ∧ t.gly.grant = some (Nat.min 1200 (s.gly.grant.getD 1200)) ∧
      t.gly.short = true ∧ t.gly.out.length = s.gly.out.length + (s.gly.n - 1) ∧ OnlyIn [.gly, .evt] s t) ∧
    (1200 * s.gly.n ≤ glnRack s → ∃ t, exec .grantRound s = .next t ∧ t.gly.short = false ∧ t.evt = s.evt ∧
      t.gly.out.length = s.gly.out.length + (s.gly.n - 1) ∧ OnlyIn [.gly] s t)))

/-- O22. R476: the grants of a round keep the rack budget, give every module at least 1,200 W and none more than its
demand; the worked round of R477. -/
def Obligations.GrantsNeverExceedTheRackBudget : Prop :=
  (∀ (b : Nat) (demand : List Nat), 1200 * demand.length ≤ b → (∀ d ∈ demand, 1200 ≤ d) →
    (grants b demand).length = demand.length ∧ suml (grants b demand) ≤ b ∧
      ∀ x ∈ (grants b demand).zip demand, 1200 ≤ x.1 ∧ x.1 ≤ x.2) ∧
  (∀ (b : Nat) (demand : List Nat), b < 1200 * demand.length → grants b demand = demand.map (fun _ => 1200)) ∧
  grants 24000 [3600, 3600, 3600, 3600, 3600, 3600, 1400, 1400] = [3550, 3550, 3550, 3550, 3525, 3525, 1375, 1375]

/-- O23. R310 to R312, R333, R334, R531: enabling, disabling and the doorbells of a ring as its function reaches it.
R313 to R316, R320: a fetch takes the next ring's descriptor at its head, and admission checks it in ring order. -/
def Obligations.RingsTakeDoorbellsAndDescriptors : Prop :=
  ((∀ s fn r how, barGate s fn false false how = .served → ringReach s fn r = true →
    ((ringOf s r).st = 0 → downOf s (if fn = 0 then bits (ringCfg s r) 8 4 else fn - 1) = none →
      (enableOk s fn r = true → exec (.ringEnable fn r how) s =
        .next (setRing s r { owner := fn, st := 1, dbErr := (ringOf s r).dbErr })) ∧
      (enableOk s fn r = false → exec (.ringEnable fn r how) s =
        .next (setRing s r { ringOf s r with st := 0, pend := false, cfgErr := true }))) ∧
    ((ringOf s r).st = 2 → exec (.ringEnable fn r how) s = .next (setRing s r { ringOf s r with pend := true })) ∧
    ((ringOf s r).st = 1 → (ringOf s r).pend = false → (ringOf s r).fetched = [] → (∀ o ∈ s.rng.ops, o.ring ≠ r) →
      ∃ t, exec (.ringDisable fn r how) s = .next t ∧ ringOf t r = { ringOf s r with st := 2 } ∧ OnlyIn [.rng] s t) ∧
    ((ringOf s r).pend = true → exec (.ringDisable fn r how) s = .next (setRing s r { ringOf s r with pend := false }))) ∧
  (∀ s r, (ringOf s r).st = 2 → (ringOf s r).pend = false → (∀ o ∈ s.rng.ops, o.ring ≠ r) →
    exec (.ringDisabled r) s = .next (setRing s r { ringOf s r with st := 0, pend := false })) ∧
  (∀ s fn page r v w how, barGate s fn false false how = .served → pageRing fn page = some r → pageOwned s fn r = true →
    (w ≠ 4 ∨ (ringOf s r).st ≠ 1 ∨ ringSize s r ≤ v →
      exec (.sqTail fn page v w how) s = .next (setRing s r { ringOf s r with dbErr := true }) ∧
      exec (.cqHead fn page v w how) s = .next (setRing s r { ringOf s r with dbErr := true })) ∧
    (w = 4 → (ringOf s r).st = 1 → v < ringSize s r → v ≠ (ringOf s r).sqTail →
      (v + ringSize s r - (ringOf s r).sqTail) % ringSize s r ≤
          ringSize s r - 1 - ((ringOf s r).sqTail + ringSize s r - (ringOf s r).sqHead) % ringSize s r →
      exec (.sqTail fn page v w how) s = .next (setRing s r { ringOf s r with sqTail := v })) ∧
    (w = 4 → (ringOf s r).st = 1 → v < ringSize s r → v ≠ (ringOf s r).cqHead →
      (v + ringSize s r - (ringOf s r).cqHead) % ringSize s r ≤
          ((ringOf s r).cqTail + ringSize s r - (ringOf s r).cqHead) % ringSize s r →
      exec (.cqHead fn page v w how) s = .next (setRing s r { ringOf s r with cqHead := v })))) ∧
  ((∀ s r b, nextRing s = some r → bit (ringCfg s r) 5 = false →
    (∃ t, exec (.descriptorFetch (.ok b false)) s = .next t ∧
      ringOf t r = { ringOf s r with
        fetched := (ringOf s r).fetched ++ [((ringOf s r).sqHead, slice b 0 64)]
        sqHead := ((ringOf s r).sqHead + 1) % ringSize s r } ∧
      (∀ q, q ≠ r → ringOf t q = ringOf s q) ∧ t.rng.ptr = (r + 1) % 256 ∧ t.rng.ops = s.rng.ops ∧ OnlyIn [.rng] s t) ∧
    (∃ t, exec (.descriptorFetch .ur) s = .next t ∧
      ringOf t r = { ringOf s r with st := if (ringOf s r).st = 1 then 3 else (ringOf s r).st } ∧ t.rng.ops = s.rng.ops ∧
      OnlyIn [.rng, .link, .evt] s t)) ∧
  (∀ s r slot d rest, (ringOf s r).st = 1 ∨ (ringOf s r).st = 3 → (ringOf s r).fetched = (slot, d) :: rest →
    (heldBack s r d = true → exec (.descriptorAdmit r) s = .next s) ∧
    (heldBack s r d = false → admitBad s { id := s.rng.nextOp, ring := r, slot, desc := d, tick := s.tick } = none →
      ∃ t, exec (.descriptorAdmit r) s = .next t ∧
        t.rng.ops = s.rng.ops ++ [{ id := s.rng.nextOp, ring := r, slot, desc := d, tick := s.tick }] ∧
        ringOf t r = { ringOf s r with fetched := rest } ∧ t.rng.nextOp = s.rng.nextOp + 1 ∧ t.link = s.link ∧
        OnlyIn [.rng, .dev] s t) ∧
    (∀ st, heldBack s r d = false → s.evt.q = [] → bit (ringCfg s r) 6 = false → (permit s (ringOf s r).owner).2 = true →
      admitBad s { id := s.rng.nextOp, ring := r, slot, desc := d, tick := s.tick } = some st →
      ∃ t, exec (.descriptorAdmit r) s = .next t ∧ t.rng.ops = s.rng.ops ∧ (ringOf t r).fetched = rest ∧
        (ringOf t r).cqTail = ((ringOf s r).cqTail + 1) % ringSize s r ∧ OnlyIn [.rng, .link, .free] s t)))

/-- O24. R321 to R323, R491: an operation that completes leaves the device's list and writes one 32-byte record at the
completion index, whose phase flips at each wrap; NO_COMPLETION drops the record of an OK operation; a write that the
host's translation denies faults the ring. -/
def Obligations.CompletionWritesOneRecord : Prop :=
  ∀ s id o st info res, opOf s id = some o → s.evt.q = [] → (ringOf s o.ring).st ≠ 0 → bit (ringCfg s o.ring) 6 = false →
    opOf (finish s id st info res) id = none ∧ (∀ j, j ≠ id → opOf (finish s id st info res) j = opOf s j) ∧
    (bit o.flags 1 = true → st = 0 → finish s id st info res = dropOp s id) ∧
    (bit o.flags 1 = false ∨ st ≠ 0 → (permit s (ringOf s o.ring).owner).2 = false →
      (ringOf (finish s id st info res) o.ring).st = (if (ringOf s o.ring).st = 1 then 3 else (ringOf s o.ring).st) ∧
      (finish s id st info res).link = s.link) ∧
    (bit o.flags 1 = false ∨ st ≠ 0 → (permit s (ringOf s o.ring).owner).2 = true → ∃ rec : Bytes, rec.length = 32 ∧ slice rec 0 8 = slice o.desc 8 8 ∧ fld rec 11 1 = st % 256 ∧
      fld rec 12 4 = info % 2 ^ 32 ∧ fld rec 16 8 = res % 2 ^ 64 ∧ fld rec 31 1 = (if (ringOf s o.ring).phase then 1 else 0) ∧
      (finish s id st info res).link = (if bit o.flags 2 ∨ st ≠ 0
        then interrupt (hostWrite s (ringOf s o.ring).owner (cqBase s o.ring + 32 * (ringOf s o.ring).cqTail) rec false)
          (ringOf s o.ring).owner (bits (ringCfg s o.ring) 24 6)
        else hostWrite s (ringOf s o.ring).owner (cqBase s o.ring + 32 * (ringOf s o.ring).cqTail) rec false).link ∧
      ringOf (finish s id st info res) o.ring = { ringOf s o.ring with
        cqTail := ((ringOf s o.ring).cqTail + 1) % ringSize s o.ring
        phase := if ((ringOf s o.ring).cqTail + 1) % ringSize s o.ring = 0 then !(ringOf s o.ring).phase else (ringOf s o.ring).phase })

/-- O25. R147, R205, R316, R317, R340: NOP, TLB_INVALIDATE and the two SET_POLICY kinds complete, and refuse a
descriptor with a bad field. R326 to R328: SEM_SIGNAL applies its operation to the counter at the home slice, and
SEM_WAIT completes OK once the counter is at or above its threshold, waits below it and completes with TIMEOUT when
its time has gone. R341, R342: a QUERY writes its header and the records from START that fit, and answers how many it
wrote and how many there are. -/
def Obligations.SimpleDescriptorsSemaphoresAndQueries : Prop :=
  ((∀ s id o, opOf s id = some o → o.code = 0x01 → o.stage = 0 →
    exec (.nop id) s = .next (keepWork s (if allZero (slice o.desc 16 48) then finish s id 0 else refuse s id 3))) ∧
  (∀ s id o, opOf s id = some o → o.code = 0x18 → o.stage = 0 → o.f 16 8 % 65536 = 0 → o.f 24 8 % 65536 = 0 →
    o.f 32 1 = 0 → o.f 33 1 = 0 → allZero (slice o.desc 34 30) = true →
    ((∀ r ∈ s.link.reads, r.fn ≠ fnOf s (opPart s o)) →
      exec (.tlbInvalidate id) s = .next (keepWork s (finish (drainKind s (fun r => r.part == opPart s o)) id 0))) ∧
    ((∃ r ∈ s.link.reads, r.fn = fnOf s (opPart s o)) → exec (.tlbInvalidate id) s = .next s)) ∧
  (∀ s id o, opOf s id = some o → o.code = 0x18 → o.stage = 0 → o.f 16 8 % 65536 ≠ 0 ∨ 4 ≤ o.f 32 1 →
    exec (.tlbInvalidate id) s = .next (keepWork s (refuse s id 3))) ∧
  (∀ s id o, opOf s id = some o → o.code = 0x28 → o.stage = 0 → o.f 16 1 = 8 →
    exec (.setPolicyGuard id) s = .next (keepWork s (if policyOk (policyOf s o) = true ∧ allZero (slice o.desc 32 32) = true
      then finish { s with krn := { s.krn with policy := tset s.krn.policy (opPart s o) (policyOf s o) } } id 0
      else refuse s id 3))) ∧
  (∀ s id o, opOf s id = some o → o.code = 0x28 → o.stage = 0 → o.f 16 1 = 4 →
    exec (.setPolicyGroundsheet id) s = .next (keepWork s (if o.f 17 1 ≤ 1 ∧ allZero (slice o.desc 18 46) = true
      then finish { s with mem := { s.mem with fill := tset s.mem.fill (opPart s o) (o.f 17 1) } } id 0
      else refuse s id 3)))) ∧
  ((∀ s id o b, opOf s id = some o → o.code = 0x30 → o.stage = 0 → o.f 16 2 ≤ 4095 → o.f 18 1 ≤ 1 →
    allZero (slice o.desc 19 5) = true → allZero (slice o.desc 32 32) = true → peekFrom s 8 (semAddr s o) 8 = some b →
    exec (.semSignal id) s = .next (keepWork s (
      let v := if o.f 18 1 = 0 then (unle (bytesOf b) + o.f 24 8) % 2 ^ 64 else Nat.max (unle (bytesOf b)) (o.f 24 8)
      let w := writeMem s 7 0 (semAddr s o) ((le 8 v).map (fun x => (x, anyPois b)))
      finish w.1 id (if w.2 then 0 else 6)))) ∧
  (∀ s id o b, opOf s id = some o → o.code = 0x31 → o.stage = 2 → peekFrom s 8 (semAddr s o) 8 = some b → anyPois b = false →
    (o.f 24 8 ≤ unle (bytesOf b) → exec (.semWaitWake id) s = .next (keepWork s (finish s id 0)) ∧
      (o.f 20 4 ≠ 0 → o.tick + 100000 * o.f 20 4 ≤ s.tick → exec (.semWaitTimeout id) s = .next (keepWork s (finish s id 0)))) ∧
    (unle (bytesOf b) < o.f 24 8 →
      (∃ t, exec (.semWaitWake id) s = .next t ∧ opOf t id = some o ∧ OnlyIn [.rng] s t) ∧
      (o.f 20 4 ≠ 0 → o.tick + 100000 * o.f 20 4 ≤ s.tick → exec (.semWaitTimeout id) s = .next (keepWork s (finish s id 8)))) ∧
    (o.f 20 4 = 0 ∨ s.tick < o.tick + 100000 * o.f 20 4 → exec (.semWaitTimeout id) s = .next s)) ∧
  (∀ s id o, opOf s id = some o → o.code = 0x31 → o.stage = 0 → o.f 16 2 ≤ 4095 → allZero (slice o.desc 18 2) = true →
    allZero (slice o.desc 32 32) = true →
    exec (.semWait id) s = .next (keepWork s (semEval (noteReads s 7 0 (semAddr s o) 8) o false)))) ∧
  (∀ s id o, opOf s id = some o → o.code = 0x38 → o.stage = 0 → allZero (slice o.desc 17 3) = true → o.f 24 8 % 64 = 0 →
    64 ≤ o.f 32 4 → o.f 32 4 ≤ 16777216 → o.f 32 4 % 64 = 0 → allZero (slice o.desc 36 28) = true →
    ∀ kind size recs cmd, (kind, size, recs, cmd) ∈ ([(1, 8, poleRecords s o, Instr.queryPoleFailures id),
        (2, 48, latRecords s o, .queryPortLatency id), (3, 8, staleRecords s o, .queryStaleRole id),
        (4, 8, outRecords s o, .queryHbmOut id), (5, 32, wearRecords s o, .queryBondWear id)] : List (Nat × Nat × List Bytes × Instr)) →
      o.f 16 1 = kind →
      (o.f 20 4 ≤ recs.length → opPart s o = 15 → (permit s 0).2 = false → exec cmd s = .next (keepWork s (finish (permit s 0).1 id 4))) ∧
      (o.f 20 4 ≤ recs.length → opPart s o = 15 → (permit s 0).2 = true → exec cmd s = .next (keepWork s (finish (hostWrite (permit s 0).1 0 (o.f 24 8)
        (le 1 kind ++ zeros 3 ++ le 4 size ++ le 4 recs.length ++ le 4 (((recs.drop (o.f 20 4)).take ((o.f 32 4 - 16) / size)).length) ++
          ((recs.drop (o.f 20 4)).take ((o.f 32 4 - 16) / size)).flatten) false s.link.relaxed) id 0
        (((recs.drop (o.f 20 4)).take ((o.f 32 4 - 16) / size)).length) recs.length))) ∧
      (∀ l w, o.f 20 4 ≤ recs.length → opPart s o ≠ 15 → l = (recs.drop (o.f 20 4)).take ((o.f 32 4 - 16) / size) →
        w = vwrite s (opCtx s o) (o.f 24 8)
          (plainBytes (le 1 kind ++ zeros 3 ++ le 4 size ++ le 4 recs.length ++ le 4 l.length ++ l.flatten)) 7 0 →
        exec cmd s = .next (keepWork s (if w.2 = 0 then finish w.1 id 0 l.length recs.length else finish w.1 id w.2))) ∧
      (recs.length < o.f 20 4 → exec cmd s = .next (keepWork s (refuse s id 3))))

/-- O26. R329 to R332, R394, R451, R455: the event rings of a function, the record of a detected event, and the end of
a partition's teardown. -/
def Obligations.EventRingsAndTeardown : Prop :=
  (∀ s fn how, barGate s fn false false how = .served → regOk s fn 0xE0008 = true →
    ((evRing s fn).on = false → 4 ≤ evCfg s fn % 32 → evCfg s fn % 32 ≤ 16 → exec (.eventRingEnable fn how) s =
      .next (setEvRing s fn { evRing s fn with on := true, wr := 0, head := 0, phase := true, cfgErr := false })) ∧
    ((evRing s fn).on = false → evCfg s fn % 32 < 4 ∨ 16 < evCfg s fn % 32 → exec (.eventRingEnable fn how) s =
      .next (setEvRing s fn { evRing s fn with cfgErr := true })) ∧
    exec (.eventRingDisable fn how) s = .next (setEvRing s fn { evRing s fn with on := false })) ∧
  (∀ s fn i how, barGate s fn false false how = .served → regOk s fn 0xE000C = true → (evRing s fn).on = true → i < 2 ^ (evCfg s fn % 32) →
    exec (.evtHead fn i how) s = .next (setEvRing s fn { evRing s fn with head := i })) ∧
  (∀ s e q ok, s.evt.q = e :: q → e.sev < 2 → e.part ≥ 8 → s.evt.due = [] → e.code ∉ [0x540, 0x541, 0x550] →
    ((evRing s 0).on = false → ∃ t, exec (.eventRecordWrite ok) s = .next t ∧ t.evt.q = q ∧
      evRing t 0 = { evRing s 0 with overflow := true, lost := sat 16 ((evRing s 0).lost + 1) } ∧ OnlyIn [.evt] s t) ∧
    ((evRing s 0).on = true → ((evRing s 0).wr + evSize s 0 - (evRing s 0).head) % evSize s 0 < evSize s 0 - 1 →
      (ok = false → ∃ t, exec (.eventRecordWrite ok) s = .next t ∧ t.evt.q = q ∧
        evRing t 0 = { evRing s 0 with writeFail := true, lost := sat 16 ((evRing s 0).lost + 1) } ∧ OnlyIn [.evt] s t) ∧
      (ok = true → ∃ t, exec (.eventRecordWrite ok) s = .next t ∧ t.evt.q = q ∧
        (evRing t 0).wr = ((evRing s 0).wr + 1) % evSize s 0 ∧ (evRing t 0).lost = (evRing s 0).lost ∧ OnlyIn [.evt, .link] s t))) ∧
  (∀ s p d, downOf s p = some d → d.step = 1 →
    ∃ t d', exec (.teardownErase p) s = .next t ∧ downOf t p = some d' ∧ d'.step = 2 ∧ t.dev.st = s.dev.st ∧ t.trust.rpmc = s.trust.rpmc ∧
      t.pwr.trip = s.pwr.trip) ∧
  (∀ s p d, downOf s p = some d → d.step = 2 → s.dev.repitch = false →
    ∃ t, exec (.teardownDone p) s = .next t ∧ downOf t p = none ∧ t.dev.st = s.dev.st ∧ t.trust.rpmc = s.trust.rpmc)

/-- O27. R81 to R83: LOAD_BUNDLE refuses a bad payload or a full reserve and answers a checked bundle with a fresh
handle; UNLOAD_BUNDLE frees a bundle that no launch uses. R84 to R87, R282: a LAUNCH that passes its checks is
resident with the partition's next SEQ, one that fails a check is refused, a core handed over takes a new epoch, a set
sent with a stale one ends its launch, a launch completes when nothing of it is left, and its timeout, which leaves
out the ticks with a halted group, raises WATCHDOG once. -/
def Obligations.BundlesAndLaunches : Prop :=
  ((∀ s id o src, opOf s id = some o → o.code = 0x02 → o.stage = 0 →
    (o.f 16 8 % 16 ≠ 0 ∨ o.f 24 4 < 16 ∨ 268435456 < o.f 24 4 →
      exec (.loadBundle id src) s = .next (keepWork s (refuse s id 3))) ∧
    (o.f 16 8 % 16 = 0 → 16 ≤ o.f 24 4 → o.f 24 4 ≤ 268435456 → o.f 28 4 < 2 → allZero (slice o.desc 32 32) = true →
      reserveSlot s (opPart s o) (o.f 24 4) = none → exec (.loadBundle id src) s = .next (keepWork s (refuse s id 1)))) ∧
  (∀ s id o b x a, opOf s id = some o → o.code = 0x02 → o.stage = 0 → o.f 16 8 % 16 = 0 → 16 ≤ o.f 24 4 → o.f 24 4 ≤ 268435456 →
    o.f 28 4 = 0 → d3 s (opFn s o) = false → allZero (slice o.desc 32 32) = true → reserveSlot s (opPart s o) (o.f 24 4) = some a →
    (s.krn.bundles.filter (fun b => b.part == opPart s o)).length < 64 → b.length = o.f 24 4 → bundleOf b = .inr x →
    (writeClean s 7 0 a b).2 = true →
    ∃ t, exec (.loadBundle id (.ok b false)) s = .next t ∧ t.krn.nextHandle = s.krn.nextHandle + 1 ∧
      t.krn.bundles = s.krn.bundles ++ [{ x with handle := s.krn.nextHandle, part := opPart s o, base := a }] ∧
      opOf t id = none ∧ t.trust.seq = (s.trust.seq + 1) % 2 ^ 32 ∧ t.trust.copyA = s.trust.copyA ∧ t.trust.rpmc = s.trust.rpmc ∧
      OnlyIn [.mem, .hbm, .fab, .krn, .evt, .free, .link, .rng, .dev, .trust] s t) ∧
  (∀ s id o b, opOf s id = some o → o.code = 0x03 → o.stage = 0 → allZero (slice o.desc 20 44) = true →
    liveBundle s (opPart s o) (o.f 16 4) = some b → (∀ b' ∈ s.krn.bundles, b'.handle = b.handle → b' = b) →
    (∀ l ∈ s.krn.launches, l.bundle ≠ b.handle) →
    ∃ t, exec (.unloadBundle id) s = .next t ∧ t.krn.bundles = s.krn.bundles.filter (fun b' => b'.handle != b.handle) ∧
      opOf t id = none ∧ t.krn.launches.map (·.op) = s.krn.launches.map (·.op) ∧ (memQuiet s → t.krn.launches = s.krn.launches)) ∧
  (∀ s id o, opOf s id = some o → o.code = 0x03 → o.stage = 0 → liveBundle s (opPart s o) (o.f 16 4) = none →
    exec (.unloadBundle id) s = .next (keepWork s (refuse s id 3)))) ∧
  ((∀ s id o, opOf s id = some o → o.code = 0x04 → o.stage = 0 →
    (∀ st, launchCheck s o = .inl st → exec (.launch id) s = .next (keepWork s (refuse s id st))) ∧
    (∀ e, launchCheck s o = .inr e → launchOf s id = none → o.id = id →
      ∃ t l, exec (.launch id) s = .next t ∧ launchOf t id = some l ∧ l.entry = e ∧
        ((∀ c, (coreOf s c).l1 = []) → l.ended = false ∧ t.link = s.link) ∧ l.part = opPart s o ∧ l.seq = tget s.krn.gseq 0 (opPart s o) ∧ l.policy = tget s.krn.policy {} (opPart s o) ∧
        tget t.krn.gseq 0 (opPart s o) = (tget s.krn.gseq 0 (opPart s o) + 1) % 2 ^ 32 ∧ t.krn.bundles = s.krn.bundles ∧
        OnlyIn [.mem, .hbm, .fab, .krn, .evt, .free, .link, .rng] s t)) ∧
  (∀ s id l c ep, launchOf s id = some l → l.ended = false → l.next < gridSize l → placeCore s l = some c →
    ((coreOf s c).handover = false → takeOver s c = s) ∧
    ((coreOf s c).handover = true → epochOf (takeOver s c) c = epochOf (bumpEpoch s c) c ∧ (coreOf (takeOver s c) c).handover = false) ∧
    (ep ≠ epochOf (takeOver s c) c → ∃ t l', exec (.setPlacement id ep) s = .next t ∧ launchOf t id = some l' ∧ l'.ended = true ∧ l'.status = 7 ∧
      l'.next = l.next ∧ t.krn.cores = (takeOver s c).krn.cores ∧ OnlyIn [.fab, .evt, .krn] s t) ∧
    (ep = epochOf (takeOver s c) c → l.op = id → ∃ t l', exec (.setPlacement id ep) s = .next t ∧ launchOf t id = some l' ∧ l'.next = l.next + 1 ∧
      ((coreOf s c).l1 = [] → l'.ended = false) ∧ c ∈ l'.cores ∧ OnlyIn [.mem, .hbm, .fab, .krn, .evt, .free, .link] s t)) ∧
  (∀ s id l, launchOf s id = some l →
    (launchBusy s l = true → exec (.launchComplete id) s = .next s) ∧
    (launchBusy s l = false → l.ended = true ∨ gridSize l ≤ l.next ∧ (∀ c ∈ s.krn.cores, ∀ t ∈ c.2.sets, t.launch ≠ id) →
      ∃ t, exec (.launchComplete id) s = .next t ∧ launchOf t id = none ∧ opOf t id = none)) ∧
  (∀ s id l, launchOf s id = some l → l.ended = false →
    (l.timeout = 0 ∨ l.expired = true ∨ s.tick < l.start + l.halted + 100000 * l.timeout ∨ (∃ g ∈ groupsOf s id, g.2.2.halt.isSome = true) →
      exec (.launchTimeout id) s = .next s) ∧
    (∀ c sl g, l.timeout ≠ 0 → l.expired = false → l.start + l.halted + 100000 * l.timeout ≤ s.tick → groupsOf s id = [(c, sl, g)] → grpOf s c sl = some g →
      g.launch = id → g.halt = none → attached s l.part = false → l.trap = none →
      ∃ t l', exec (.launchTimeout id) s = .next t ∧ launchOf t id = some l' ∧ l'.ended = true ∧ l'.status = 8 ∧
        l'.trap = some (s.tick, 0x0D, c, sl) ∧ l'.expired = true ∧ OnlyIn [.krn, .evt] s t)))

/-- O28. R76, R86: sets of an entry point per core with the worked launch (a set of no local store is not limited by
it, the model's choice, log entry 78), and the placement order of a partition whose cores may all be given work:
position q is core q div 8n, cluster (q mod 8n) div n, in the Tent of rank q mod n. -/
def Obligations.SetsPerCoreAndPlacementOrder : Prop :=
  (∀ (e : Entry) split dyn, e.groups ≠ 0 → e.regs ≠ 0 → setsPerCore e split dyn =
    Nat.min (Nat.min (65536 / (32 * (((e.regs + 7) / 8) * 8)) / e.groups)
        (if e.sharedLs + dyn + e.groups * e.groupLs = 0 then 32 else lsBytes split / (e.sharedLs + dyn + e.groups * e.groupLs)))
      (Nat.min (32 / e.groups) (Nat.min (if e.barriers = 0 then 32 else 128 / e.barriers)
        (if e.accBanks = 0 then 32 else 4 / e.accBanks)))) ∧
  (∀ e : Entry, e.regs = 96 → e.groups = 4 → e.sharedLs = 163840 → e.groupLs = 24576 → e.barriers = 2 → e.accBanks = 2 →
    setsPerCore e 3 0 = 2 ∧ setsPerCore e 0 0 = 1 ∧ setsPerCore e 0 8192 = 0) ∧
  (∀ s p q, partTents s p ≠ [] → (∀ c, c < 512 → coreThere s c = true) → q < 64 * (partTents s p).length →
    (placeOrder s p)[q]? = some (64 * (partTents s p)[q % (partTents s p).length]! +
      8 * (q % (8 * (partTents s p).length) / (partTents s p).length) + q / (8 * (partTents s p).length)))

/-- O29. R209, R458 to R462: the Chain engine's opcodes refuse a bad field or range at admission; an engine with room
performs them and leaves the result ready. -/
def Obligations.ChainOperationsRunOrRefuse : Prop :=
  (∀ s id o, opOf s id = some o → o.code = 0x09 → o.stage = 0 →
    (o.f 16 8 % 128 ≠ 0 ∨ lengthOk (o.f 32 8) = false → exec (.fill id) s = .next (keepWork s (refuse s id 3))) ∧
    (chainFields o false false false = true → o.f 16 8 % 128 = 0 → lengthOk (o.f 32 8) = true →
      (∀ st, rangeBad s o (o.f 16 8) (o.f 32 8) = some st → exec (.fill id) s = .next (keepWork s (refuse s id st))) ∧
      (rangeBad s o (o.f 16 8) (o.f 32 8) = none → engineFull s o = true → exec (.fill id) s = .next s))) ∧
  (∀ s id o src, opOf s id = some o → o.code = 0x0A → o.stage = 0 → chainFields o false false false = true → o.f 16 8 % 128 = 0 →
    o.f 24 8 % 128 = 0 → lengthOk (o.f 32 8) = true →
    (overlapping (o.f 16 8) (o.f 32 8) (o.f 24 8) (o.f 32 8) = true →
      exec (.compare id src) s = .next (keepWork s (refuse s id 3))) ∧
    (∀ h r, overlapping (o.f 16 8) (o.f 32 8) (o.f 24 8) (o.f 32 8) = false → rangeBad s o (o.f 16 8) (o.f 32 8) = none →
      rangeBad s o (o.f 24 8) (o.f 32 8) = none → engineFull s o = false → hostHeld s o [(o.f 16 8, o.f 32 8), (o.f 24 8, o.f 32 8)] = false →
      h = hostSrc s o [(o.f 16 8, o.f 32 8), (o.f 24 8, o.f 32 8)] src → r = compareLines (o.f 32 8 / 128) h.1 o 0 h.2 {} →
      exec (.compare id src) s = .next (keepWork s (if r.2.1 ≠ 0 then ready r.1 id r.2.1 0 0
        else ready r.1 id 0 (sat 32 r.2.2.lines) (r.2.2.first.getD (2 ^ 64 - 1)))))) ∧
  (∀ s id o src, opOf s id = some o → o.code = 0x0B → o.stage = 0 → chainFields o true false false = true → o.f 16 8 % 128 = 0 →
    o.f 24 8 % 64 = 0 → 1 ≤ o.f 32 8 → o.f 32 8 ≤ 2 ^ 40 → rangeBad s o (o.f 16 8) (o.f 32 8) = none →
    rangeBad s o (o.f 24 8) 64 = none → engineFull s o = false →
    (hostHeld s o [(o.f 16 8, o.f 32 8)] = true → exec (.digest id src) s = .next s) ∧
    ∀ h u v b, hostHeld s o [(o.f 16 8, o.f 32 8)] = false → h = hostSrc s o [(o.f 16 8, o.f 32 8)] src → chainBytes h.1 o (o.f 16 8) (o.f 32 8) h.2 = (u, v, .inr b) →
      exec (.digest id src) s = .next (keepWork s (if anyPois b = true then ready u id 5 0 0
        else ready u id 0 0 0 (Config.shake256 (bytesOf b))))) ∧
  (∀ s id o src, opOf s id = some o → o.code = 0x08 → o.stage = 0 →
    (bit (o.f 40 4) 2 = false → chainFields o false false false = true → o.f 16 8 % 128 = 0 → o.f 24 8 % 128 = 0 →
      lengthOk (o.f 32 8) = true → overlapping (o.f 16 8) (o.f 32 8) (o.f 24 8) (o.f 32 8) = false →
      rangeBad s o (o.f 16 8) (o.f 32 8) = none → rangeBad s o (o.f 24 8) (o.f 32 8) = none → engineFull s o = false →
      exec (.copy id) s = .next (keepWork s (copyOn (updOp s id (fun o => { o with stage := 1 })) id))) ∧
    (bit (o.f 40 4) 2 = true → chainPhys o = true → exec (.copySealed id src) s = .next (keepWork s (refuse s id 3))) ∧
    (∀ h u v b, bit (o.f 40 4) 2 = true → chainFields o true true false = true → chainPhys o = false → o.f 16 8 % 128 = 0 →
      o.f 24 8 % 128 = 0 → 64 ≤ o.f 32 8 → o.f 32 8 ≤ 2 ^ 40 → meetsRegs s o (o.f 24 8) (o.f 32 8) = false →
      engineFull s o = false → hostHeld s o [(o.f 24 8, o.f 32 8)] = false → h = hostSrc s o [(o.f 24 8, o.f 32 8)] src → chainBytes h.1 o (o.f 24 8) 64 h.2 = (u, v, .inr b) →
      anyPois b = false → fld (bytesOf b) 0 4 ≠ 0x31575356 ∨ o.f 32 8 ≠ 64 + fld (bytesOf b) 8 8 + 16 * ((fld (bytesOf b) 8 8 + 65535) / 65536) →
      exec (.copySealed id src) s = .next (keepWork s (ready u id 3 0 0)))) ∧
  (∀ s id o found, opOf s id = some o → o.code = 0x0C → o.stage = 0 → chainFields o false false true = true → o.f 16 8 % 128 = 0 →
    o.f 24 8 % 64 = 0 → lengthOk (o.f 32 8) = true → rangeBad s o (o.f 16 8) (o.f 32 8) = none → rangeBad s o (o.f 24 8) 64 = none →
    (o.f 48 4 < 64 + 768 * scrubTents s o → exec (.scrub id found) s = .next (keepScrub s (refuse s id 1))) ∧
    (∀ u y, 64 + 768 * scrubTents s o ≤ o.f 48 4 → engineFull s o = false →
      scrubLines (o.f 32 8 / 128) s o found 0 {} = (u, 0, y) →
      ∃ t o', exec (.scrub id found) s = .next t ∧ opOf u id = some o' ∧ (opOf t id).map (·.stage) = some 3 ∧
        (opOf t id).map (·.info) = some (sat 32 (sumTab y.unc)) ∧ (opOf t id).map (·.result) = some y.sectors)) ∧
  (∀ s id o, opOf s id = some o → o.stage = 3 →
    (o.status ≠ 0 → exec (.chainOperationDone id) s = .next (keepLog s (finish s id o.status))) ∧
    (o.status = 0 → o.code = 0x09 ∨ o.code = 0x0A → exec (.chainOperationDone id) s = .next (keepLog s (finish s id 0 o.info o.result))) ∧
    (∀ u, o.status = 0 → o.code = 0x0B → bit (o.f 40 4) 2 = false → chainPuts s o (o.f 24 8) (plainBytes (pad o.data 64)) (o.f 24 8 + 64) = (u, 0) →
      exec (.chainOperationDone id) s = .next (keepLog s (finish
        (logAppend u 5 (opPart u o) (le 8 (o.f 16 8) ++ le 8 (o.f 32 8)) o.data) id 0 0 u.trust.seq))))

/-- O30. R458, R460 to R462: a FILL of a physical range writes the pattern over every byte of the range, clears its
marks and changes no other byte of memory. -/
def Obligations.FillWritesItsPatternAndNothingElse : Prop :=
  ∀ s id o a n, opOf s id = some o → o.code = 0x09 → o.stage = 0 → o.id = id → chainFields o false false false = true → chainPhys o = true →
    a = o.f 16 8 → n = o.f 32 8 → a % 128 = 0 → lengthOk n = true → rangeBad s o a n = none → engineFull s o = false →
    cacheOk s → s.mem.miss = [] → s.mem.redq = [] → s.mem.msa = [] → s.mem.reqs = [] →
    (∀ i, i < n / 128 → outOfService s (a + 128 * i) = false ∧ tentDown s (tentAt (a + 128 * i)) = false) →
    ∃ t, exec (.fill id) s = .next t ∧
      (∀ b, a ≤ b → b < a + n → memByte t b = (slice o.desc 24 8).getD ((b - a) % 8) 0 ∧ memMark t b = false) ∧
      (∀ b, b < a ∨ a + n ≤ b → memByte t b = memByte s b ∧ memMark t b = memMark s b) ∧
      (opOf t id).map (·.stage) = some 3 ∧ (opOf t id).map (·.status) = some 0

/-- O31. R209 to R211: PREFETCH, FLUSH and INVALIDATE refuse a bad payload; over a physical range with nothing waiting
at the slices and no byte of them upset, they change no byte of memory; FLUSH leaves the range's lines clean,
INVALIDATE leaves them out of the cache. -/
def Obligations.RangeOperationsKeepMemory : Prop :=
  (∀ s id o st, opOf s id = some o → o.stage = 0 →
    (o.code = 0x10 → rngBad s o true = some st → exec (.prefetch id) s = .next (keepWork s (refuse s id st))) ∧
    (o.code = 0x11 → rngBad s o false = some st → exec (.flush id) s = .next (keepWork s (refuse s id st))) ∧
    (o.code = 0x12 → rngBad s o false = some st → exec (.invalidate id) s = .next (keepWork s (refuse s id st)))) ∧
  (∀ s id o, opOf s id = some o → o.stage = 0 → rngPhys o = true → Memory.wf s = true → linesOk s → memQuiet s →
    (∀ l, upsetAt s l = 0) → bit (ringCfg s o.ring) 6 = false →
    (o.code = 0x10 → rngBad s o true = none → ∃ t, exec (.prefetch id) s = .next t ∧ opOf t id = none ∧
      (∀ a, memByte t a = memByte s a ∧ memMark t a = memMark s a) ∧ t.mem.lines = s.mem.lines) ∧
    (o.code = 0x11 → rngBad s o false = none → ∃ t, exec (.flush id) s = .next t ∧ opOf t id = none ∧
      (∀ a, memByte t a = memByte s a ∧ memMark t a = memMark s a) ∧
      (∀ c ∈ t.mem.lines, rngAddr o ≤ c.line → c.line < rngAddr o + rngLen o → outOfService s c.line = false → c.dirty = false)) ∧
    (o.code = 0x12 → rngBad s o false = none →
      (∀ c ∈ s.mem.lines, c.dirty = false → c.data = (hbmLine s c.line).data ∧ c.pois = (hbmLine s c.line).pois) → ∃ t, exec (.invalidate id) s = .next t ∧ opOf t id = none ∧
      (∀ a, memByte t a = memByte s a ∧ memMark t a = memMark s a) ∧
      (∀ c ∈ t.mem.lines, rngAddr o ≤ c.line → c.line < rngAddr o + rngLen o → outOfService s c.line = true)))

/-- O32. R213 to R216: DECLARE_DEAD refuses a range it cannot take, else drops the range's cached lines and installs
its entry; with RETIRE it takes the range out of every live entry. R197 to R199, R281, R283: PLOT_MAP and PLOT_UNMAP
refuse in the order of R198 and write the leaves of the ways they name; the last unmapping of a way moves the Tent's
Plot epoch, or waits for it; a role epoch rises by one, at most once in 100 µs. -/
def Obligations.DeadRangesPlotsAndRoleEpochs : Prop :=
  ((∀ s id o, opOf s id = some o → o.code = 0x13 → o.stage = 0 → bit (o.f 32 4) 0 = false →
    (∀ st, rngBad s o true = some st → exec (.declareDead id) s = .next (keepWork s (refuse s id st))) ∧
    (rngBad s o true = none → rngFaults s o = true → exec (.declareDead id) s = .next (keepWork s (finish s id 4))) ∧
    (rngBad s o true = none → rngFaults s o = false → deadPage s o = none → installRuns s (rngRuns s o) = none →
      exec (.declareDead id) s = .next (keepWork s (finish s id 1)))) ∧
  (∀ s id o, opOf s id = some o → o.code = 0x13 → o.stage = 0 → o.f 32 4 = 2 ^ 31 → rngBad s o true = none → s.mem.dead = [] →
    memQuiet s → bit (ringCfg s o.ring) 6 = false → tentAt (rngAddr o) = tentAt (rngAddr o + rngLen o - 1) →
    ∃ t, exec (.declareDead id) s = .next t ∧ opOf t id = none ∧
      t.mem.dead = [{ first := rngAddr o, last := rngAddr o + rngLen o - 128, posted := [] }] ∧
      t.mem.lines = s.mem.lines.filter (fun c => !(rngAddr o ≤ c.line && c.line ≤ rngAddr o + rngLen o - 128)) ∧ t.mem.hbm = s.mem.hbm) ∧
  (∀ s id o, opOf s id = some o → o.code = 0x13 → o.stage = 0 → o.f 32 4 = 2 ^ 31 + 1 → rngBad s o true = none →
    (∀ d ∈ s.mem.dead, d.first % 128 = 0 ∧ d.first ≤ d.last) →
    ∃ t, exec (.declareDeadRetire id) s = .next t ∧ opOf t id = none ∧
      (∀ d ∈ t.mem.dead, d.last < rngAddr o ∨ rngAddr o + rngLen o ≤ d.first) ∧
      (bit (ringCfg s o.ring) 6 = false → t.mem.lines = s.mem.lines ∧ t.mem.hbm = s.mem.hbm))) ∧
  ((∀ s id o, opOf s id = some o → o.stage = 0 →
    (∀ st, mapBad s o = some st → (o.code = 0x14 → exec (.plotMap id) s = .next (keepWork s (refuse s id st))) ∧
      (o.code = 0x15 → exec (.plotUnmap id) s = .next (keepWork s (refuse s id st)))) ∧
    (mapBad s o = none → (∃ x ∈ mapSlots s o, x.1 = .bad) →
      (o.code = 0x14 → exec (.plotMap id) s = .next (keepWork s (refuse s id 4))) ∧
      (o.code = 0x15 → exec (.plotUnmap id) s = .next (keepWork s (refuse s id 4)))) ∧
    (o.code = 0x14 → mapBad s o = none → (∀ x ∈ mapSlots s o, ∃ a, x.1 = .at_ a ∧ bit (entryAtSlot s (opPart s o) x.1) 0 = false) →
      ∃ u, exec (.plotMap id) s = .next (keepWork s (finish u id 0)) ∧ u.mem.maps = s.mem.maps ++ mapWays s o ∧
        OnlyIn [.mem, .hbm, .fab, .krn, .evt, .free] s u ∧
        u.mem.hbm = (putLeaves s (opPart s o) (mapSlots s o) (fun a _ => a + (if bit (o.f 27 1) 1 then 3 else 7))).mem.hbm) ∧
    (o.code = 0x15 → mapBad s o = none →
      (∀ x ∈ mapSlots s o, ∃ a, x.1 = .at_ a ∧ entryAtSlot s (opPart s o) x.1 % 4 = 3 ∧ bit (entryAtSlot s (opPart s o) x.1) 3 = false ∧
        entryAddr (entryAtSlot s (opPart s o) x.1) = x.2) →
      (∀ left u, left = (mapWays s o).foldl (fun m w => m.erase w) s.mem.maps → u = 576 + o.f 24 1 →
        ((∃ w ∈ mapWays s o, w ∈ s.mem.maps ∧ ∀ m ∈ left, m.2.2 ≠ w.2.2) →
          (bumpSoon s u = true → exec (.plotUnmap id) s = .next s) ∧
          (bumpSoon s u = false → ∃ v, exec (.plotUnmap id) s = .next (keepWork s (finish (bumpEpoch v u) id 0)) ∧ v.mem.maps = left)) ∧
        ((∀ w ∈ mapWays s o, w ∈ s.mem.maps → ∃ m ∈ left, m.2.2 = w.2.2) →
          ∃ v, exec (.plotUnmap id) s = .next (keepWork s (finish v id 0)) ∧ v.mem.maps = left ∧
            (memQuiet s → s.fab.bkt = [] → v.mem.hbm = (putLeaves s (opPart s o) (mapSlots s o) (fun _ e => e - 1)).mem.hbm))))) ∧
  (∀ s u, ((tget s.fab.epoch {} (unitKey u)).last.all (fun x => x + 10000 ≤ s.tick)) = true →
    ∃ t, exec (.roleEpochIncrement u) s = .next t ∧ epochOf t (unitKey u) = (epochOf s (unitKey u) + 1) % 256 ∧
      (tget t.fab.epoch {} (unitKey u)).last = some s.tick ∧ (∀ v, v ≠ unitKey u → epochOf t v = epochOf s v) ∧ OnlyIn [.fab] s t) ∧
  (∀ s u x, (tget s.fab.epoch {} (unitKey u)).last = some x → s.tick < x + 10000 →
    ∃ t, exec (.roleEpochIncrement u) s = .next t ∧ (∀ v, epochOf t v = epochOf s v) ∧
      (tget t.fab.epoch {} (unitKey u)).wait = (tget s.fab.epoch {} (unitKey u)).wait + 1 ∧ OnlyIn [.fab] s t))

/-- O33. R346 to R349, R354, R366: a Span port is enabled, senses, trains, is tested and secured, and is disabled
again. R346, R350 to R352, R355: retraining, the return from DOWN, the flit layer's replay buffer and a KEY_UPDATE. -/
def Obligations.SpanPortsTrainRetrainAndStop : Prop :=
  ((∀ s n, n < 18 → s.dev.st = .open_ → bit s.dev.spanOut n = false → 81 + n / 6 ∉ s.pwr.railOff →
    ((portOf s n).draining = false → (portOf s n).enable = false → exec (.spanPortEnable n) s = .next (setPort s n
      { cnt := (portOf s n).cnt, coeff := (portOf s n).coeff, sess := (portOf s n).sess, narrowed := (portOf s n).narrowed, enable := true, st := 1 })) ∧
    ((portOf s n).draining = true → exec (.spanPortEnable n) s = .next (setPort s n { portOf s n with pend := true }))) ∧
  (∀ s n, n < 18 →
    ((portOf s n).pend = true → exec (.spanPortDisable n) s = .next (setPort s n { portOf s n with pend := false })) ∧
    ((portOf s n).pend = false → (portOf s n).enable = true → s.span.ops = [] → ∃ t, exec (.spanPortDisable n) s = .next t ∧
      t = keepSpan s (stopPort s n) ∧ (portOf t n).enable = false ∧ portUp t n = false)) ∧
  (∀ s n, (portOf s n).draining = true → (tget s.fab.epoch {} (584 + n)).wait = 0 →
    ((portOf s n).pend = false → ∃ t, exec (.spanPortDrainDone n) s = .next t ∧
      (portOf t n).st = 0 ∧ (portOf t n).draining = false ∧ OnlyIn [.span, .pwr] s t) ∧
    ((portOf s n).pend = true → n < 18 → s.dev.st = .open_ → bit s.dev.spanOut n = false → 81 + n / 6 ∉ s.pwr.railOff →
      ∃ t, exec (.spanPortDrainDone n) s = .next t ∧ (portOf t n).st = 1 ∧ (portOf t n).enable = true ∧ (portOf t n).draining = false ∧
      OnlyIn [.span, .pwr] s t)) ∧
  (∀ s n, (portOf s n).draining = true → (tget s.fab.epoch {} (584 + n)).wait ≠ 0 → exec (.spanPortDrainDone n) s = .next s) ∧
  (∀ s n ls, (portOf s n).st = 1 → LaneSense.transmitter ∉ ls.take 4 →
    (LaneSense.receiver ∈ ls.take 4 → exec (.spanSense n ls) s = .next (setPort s n { portOf s n with st := 2, lanes := [] })) ∧
    (LaneSense.receiver ∉ ls.take 4 → exec (.spanSense n ls) s = .next s)) ∧
  (∀ s n ls, (portOf s n).st = 1 → (portOf s n).miswired = false → LaneSense.transmitter ∈ ls.take 4 →
    ∃ t, exec (.spanSense n ls) s = .next t ∧ portOf t n = { portOf s n with st := 6, miswired := true } ∧
      (t.evt.q ≠ s.evt.q ∨ posting s = false) ∧ OnlyIn [.span, .evt] s t) ∧
  (∀ s n, (portOf s n).st = 2 →
    ((portOf s n).lanes = [] → exec (.spanTrainTimeout n) s = .next (setPort s n { portOf s n with st := 1, lanes := [] })) ∧
    (∀ ls, s.span.ops = [] → ∃ t, exec (.spanEqualisationDone n ls false) s = .next t ∧ (portOf t n).st = 7 ∧ (portOf t n).reason = 2 ∧
      (portOf t n).width = 0 ∧ OnlyIn [.span, .evt] s t) ∧
    (∀ ls k, keptId (ls.take 4) = some k → k.1 ≠ spanAddr s → ∃ t, exec (.spanEqualisationDone n ls true) s = .next t ∧
      (portOf t n).st = 2 ∧ (portOf t n).peer = some k.1 ∧ (portOf t n).lanes = keptLanes (ls.take 4) k ∧ (portOf t n).fromSaved = useSaved s n k.1 ∧ OnlyIn [.span] s t) ∧
    (∀ good, (portOf s n).lanes.any (·.isSome) = true → widthOf (portOf s n) good ≠ 0 → ∃ t, exec (.spanLinkTest n good) s = .next t ∧
      (portOf t n).st = 3 ∧ (portOf t n).width = widthOf (portOf s n) good ∧
      (widthOf (portOf s n) good = 4 → t.evt = s.evt) ∧ OnlyIn [.span, .evt] s t)) ∧
  (∀ s n peer cert cfg, (portOf s n).st = 3 → s.span.ops = [] → s.span.wait = [] →
    (bits (portCfg s n) 16 16 = 0xFFFF ∨ bits (portCfg s n) 16 16 = peer →
      ∃ t, exec (.spanSecureDone n true peer cert cfg) s = .next t ∧ (portOf t n).st = 4 ∧ (portOf t n).peer = some peer ∧
        (portOf t n).secure = true ∧ (portOf t n).width = (portOf s n).width ∧ t.trust.seq = ((s.trust.seq + 1) % 2 ^ 32 + 1) % 2 ^ 32 ∧
        OnlyIn [.span, .evt, .trust] s t) ∧
    (∃ t, exec (.spanSecureDone n false peer cert cfg) s = .next t ∧ (portOf t n).st = 7 ∧ (portOf t n).reason = 4 ∧
      t.trust = s.trust ∧ OnlyIn [.span, .evt] s t))) ∧
  ((∀ s n, (portOf s n).st = 7 → (portOf s n).reason ≠ 3 → (portOf s n).reason ≠ 6 → ∃ t, exec (.spanDownRetry n) s = .next t ∧
    (portOf t n).st = 1 ∧ (portOf t n).reason = 0 ∧ (portOf t n).enable = (portOf s n).enable ∧ OnlyIn [.span] s t) ∧
  (∀ s n, (portOf s n).st = 7 → (portOf s n).reason = 3 ∨ (portOf s n).reason = 6 → exec (.spanDownRetry n) s = .next s) ∧
  (∀ s n c, portUp s n = true → c ≠ .replays → s.span.ops = [] →
    (((portOf s n).retrains.filter (fun t => s.tick < t + 100000000)).length < 3 → ∃ t, exec (.spanRetrain n c) s = .next t ∧
      (portOf t n).st = 5 ∧ (portOf t n).replay = (portOf s n).replay ∧ (portOf t n).secure = (portOf s n).secure ∧
      OnlyIn [.span, .evt] s t) ∧
    (3 ≤ ((portOf s n).retrains.filter (fun t => s.tick < t + 100000000)).length → ∃ t, exec (.spanRetrain n c) s = .next t ∧
      (portOf t n).st = 7 ∧ (portOf t n).reason = 5 ∧ (portOf t n).replay = [] ∧ (portOf t n).secure = false ∧
      OnlyIn [.span, .evt] s t)) ∧
  (∀ s n good, (portOf s n).st = 5 → s.span.ops = [] → s.span.wait = [] →
    (widthOf (portOf s n) good ≠ 0 → ∃ t, exec (.spanRetrainDone n good) s = .next t ∧ (portOf t n).st = 4 ∧
      (portOf t n).width = widthOf (portOf s n) good ∧ (portOf t n).replay = (portOf s n).replay ∧ OnlyIn [.span, .evt] s t) ∧
    (widthOf (portOf s n) good = 0 → ∃ t, exec (.spanRetrainDone n good) s = .next t ∧ (portOf t n).st = 7 ∧ (portOf t n).reason = 1 ∧
      OnlyIn [.span, .evt] s t)) ∧
  (∀ s n (f : Flit), (portOf s n).st = 3 ∨ (portOf s n).st = 4 → fecBad f = 0 → crcOk f = true →
    ((portOf s n).discarding = false ∨ flitReplay f = true → ∃ t, exec (.spanFlitReceive n f) s = .next t ∧ OnlyIn [.span] s t ∧
      (portOf t n).credits = (portOf s n).credits + flitCredits f ∧
      (flitSeq f = (portOf s n).rxSeq → (portOf t n).rxSeq = ((portOf s n).rxSeq + 1) % 4096 ∧ (portOf t n).discarding = false) ∧
      (flitSeq f ≠ (portOf s n).rxSeq → (portOf t n).rxSeq = (portOf s n).rxSeq ∧ (portOf t n).discarding = (portOf s n).discarding) ∧
      ((∀ e ∈ (portOf s n).replay, e.1 ≠ flitAckNo f) → (portOf t n).replay = (portOf s n).replay) ∧
      ((∃ e ∈ (portOf s n).replay, e.1 = flitAckNo f) →
        (portOf t n).replay = ((portOf s n).replay.dropWhile (fun e => e.1 != flitAckNo f)).drop 1) ∧
      (flitNack f = false → t.span.wire = s.span.wire) ∧
      (flitNack f = true → ∃ q, q.rxSeq = (portOf t n).rxSeq ∧
        t.span.wire = s.span.wire ++ (portOf t n).replay.map (fun e => (n, flitBytes q e.2.1 e.1 true false e.2.2)))) ∧
    ((portOf s n).discarding = true → flitReplay f = false → ∃ t, exec (.spanFlitReceive n f) s = .next t ∧
      (portOf t n).rxSeq = (portOf s n).rxSeq ∧ (portOf t n).replay = (portOf s n).replay ∧ t.span.wire = s.span.wire ∧ OnlyIn [.span] s t)) ∧
  (∀ s n (f : Flit), (portOf s n).st = 3 ∨ (portOf s n).st = 4 → 0 < fecBad f ∨ crcOk f = false →
    ∃ t, exec (.spanFlitReceive n f) s = .next t ∧ (portOf t n).discarding = true ∧ (portOf t n).rxSeq = (portOf s n).rxSeq ∧
      t.span.wire = s.span.wire ++ [(n, flitBytes (portOf s n) 0 (portOf s n).txSeq false true (zeros 242))] ∧
      (portOf t n).txSeq = ((portOf s n).txSeq + 1) % 4096 ∧ OnlyIn [.span] s t) ∧
  (∀ s n f, (portOf s n).st ≠ 3 → (portOf s n).st ≠ 4 → exec (.spanFlitReceive n f) s = .next s) ∧
  (∀ s n tx, (portOf s n).st = 4 → exec (.spanKeyUpdate n tx) s = .next (setPort s n (if tx
    then { portOf s n with txGen := (portOf s n).txGen + 1, txCount := 0 }
    else { portOf s n with rxGen := (portOf s n).rxGen + 1, rxCount := 0 }))))

/-- O34. R357 to R359, R364, R365: a collective or point-to-point operation with a bad field, group or scratch is
refused before any message; one that passes joins the active operations; its timeout and the repeat after BUSY. -/
def Obligations.SpanOperationsAreAdmitted : Prop :=
  (∀ s id o k, opOf s id = some o → o.code = 0x20 → o.stage = 0 → o.f 16 1 = k →
    ∀ cmd, (k, cmd) ∈ ([(0, .allReduce id), (1, .reduceScatter id), (2, .allGather id), (3, .allToAll id)] : List (Nat × Instr)) →
      (collFieldsOk o = false → exec cmd s = .next (keepSpan s (refuse s id 3))) ∧
      (collFieldsOk o = true →
        (∀ st, groupTable s o (o.f 24 8) = .inl st →
          exec cmd s = .next (keepSpan s (if st = 3 then refuse s id 3 else finish s id st))) ∧
        (∀ g, groupTable s o (o.f 24 8) = .inr g →
          (collApart (collOp s o g) = false → exec cmd s = .next (keepSpan s (refuse s id 3))) ∧
          (collApart (collOp s o g) = true → g.scratchLen < scratchNeed (collOp s o g) →
            exec cmd s = .next (keepSpan s (refuse s id 1))) ∧
          (collApart (collOp s o g) = true → scratchNeed (collOp s o g) ≤ g.scratchLen →
            exec cmd s = .next (keepSpan s (joinSpan s (collOp s o g))))))) ∧
  (∀ s id o k c cmd, opOf s id = some o → o.stage = 0 → o.code = c →
    (k, c, cmd) ∈ ([(4, 0x21, .spanSend id), (5, 0x22, .spanRecv id)] : List (Nat × Nat × Instr)) →
      (o.f 16 8 % 64 ≠ 0 ∨ o.f 26 2 ≠ 0 ∨ o.f 32 8 % 128 ≠ 0 → exec cmd s = .next (keepSpan s (refuse s id 3))) ∧
      (∀ g, o.f 16 8 % 64 = 0 → o.f 26 2 = 0 → o.f 32 8 % 128 = 0 → allZero (slice o.desc 52 12) = true → 1 ≤ o.f 40 8 →
        o.f 40 8 ≤ 2 ^ 36 → groupTable s o (o.f 16 8) = .inr g →
        (o.f 24 2 = g.rank ∨ g.ranks.length ≤ o.f 24 2 → exec cmd s = .next (keepSpan s (refuse s id 3))) ∧
        (o.f 24 2 < g.ranks.length → o.f 24 2 ≠ g.rank → exec cmd s = .next (keepSpan s (joinSpan s
          { op := id, part := opPart s o, ctx := opCtx s o, kind := k, elem := 0, red := 0, seq := o.f 28 4, grp := g,
            src := o.f 32 8, dst := o.f 32 8, count := o.f 40 8, running := false, peer := o.f 24 2 }))))) ∧
  (∀ s id o x, opOf s id = some o → spOp s id = some x →
    (x.kind ≤ 3 → o.f 56 4 = 0 ∨ s.tick < o.tick + 100000 * o.f 56 4 → exec (.spanOperationTimeout id) s = .next s) ∧
    (∀ ms, ms = (if x.kind ≤ 3 then o.f 56 4 else o.f 48 4) → ms ≠ 0 → o.tick + 100000 * ms ≤ s.tick →
      exec (.spanOperationTimeout id) s = .next (keepSpan s (pump (failSpan s id 8 x.grp.rank)))) ∧
    (x.retry = [] → (∀ y ∈ s.span.ops, y.op = id → y = x) → exec (.spanBusyRetry id) s = .next s) ∧
    (∀ r q ty, x.retry = [r] → (∀ y ∈ s.span.ops, y.op = id → y = x) → pickPort s (rankPorts x.grp r) = some q →
      (x.kind, ty) ∈ ([(0, 2), (1, 2), (2, 2), (4, 3)] : List (Nat × Nat)) → ∃ t m, exec (.spanBusyRetry id) s = .next t ∧
        t.span.out = s.span.out ++ [(q, m)] ∧ m.type = ty ∧ m.dst = rankAddr x.grp r ∧ m.group = x.grp.id ∧ m.seq = x.seq ∧
        (∀ y, spOp t id = some y → y.retry = []) ∧ OnlyIn [.span] s t))

/-- O35. R353, R355 to R357, R363 to R368: a message is judged by its tag, its epoch, its address and its partition
before it has any effect; then DATA, the control messages, NACK and RELEASE act on the operation they belong to. -/
def Obligations.SpanMessagesAreJudgedAndTaken : Prop :=
  (∀ s (i : SpanIn) cmd ty, (ty, cmd) ∈ ([(1, .spanData i), (2, .spanReady i), (3, .spanReq i), (4, .spanClear i), (5, .spanDone i),
      (6, .spanCounts i), (7, .spanGo i), (8, .spanAbort i), (9, .spanNack i), (10, .spanRelease i)] : List (Nat × Instr)) → i.msg.type = ty →
    ((portOf s i.port).st ≠ 4 → exec cmd s = .next s) ∧
    ((portOf s i.port).st = 4 → i.tagOk = true → i.epoch ≠ epochOf s (584 + i.port) →
      ∃ t, exec cmd s = .next t ∧ t.span = s.span ∧ (∀ u, epochOf t u = epochOf s u) ∧ OnlyIn [.fab, .evt] s t) ∧
    ((portOf s i.port).st = 4 → i.tagOk = false → s.span.ops = [] →
      ∃ t, exec cmd s = .next t ∧ (portOf t i.port).st = 3 ∧ (portOf t i.port).replay = [] ∧ (portOf t i.port).secure = false ∧
        OnlyIn [.span, .evt] s t) ∧
    (ty ≠ 10 → (portOf s i.port).st = 4 → i.tagOk = true → i.epoch = epochOf s (584 + i.port) → i.msg.dst ≠ spanAddr s →
      2 ≤ i.msg.ttl → spanFwd s i.msg.dst < 18 → portPart s (spanFwd s i.msg.dst) = portPart s i.port →
      portUp s (spanFwd s i.msg.dst) = true → ∃ t, exec cmd s = .next t ∧
        t.span.out = s.span.out ++ [(spanFwd s i.msg.dst, { i.msg with ttl := i.msg.ttl - 1 })] ∧ t.mem = s.mem ∧ OnlyIn [.span] s t)) ∧
  (∀ s (i : SpanIn) cmd ty, (ty, cmd) ∈ ([(2, .spanReady i), (6, .spanCounts i), (7, .spanGo i)] : List (Nat × Instr)) → i.msg.type = ty →
    Judged s i → s.span.ops = [] →
    holdRoom s (portPart s i.port) = true →
    ∃ t, exec cmd s = .next t ∧ t.span.held = s.span.held ++ [(portPart s i.port, i.msg)] ∧ t.span.out = s.span.out ∧ OnlyIn [.span] s t) ∧
  (∀ s (i : SpanIn), i.msg.type = 3 → Judged s i → s.span.ops = [] → holdRoom s (portPart s i.port) = true →
    ∃ t, exec (.spanReq i) s = .next t ∧ t.span.reqs = s.span.reqs ++ [(portPart s i.port, i.msg)] ∧ OnlyIn [.span] s t) ∧
  (∀ s (i : SpanIn), i.msg.type = 1 → Judged s i → s.span.ops = [] →
    ∃ t, exec (.spanData i) s = .next t ∧ t.mem = s.mem ∧ (∃ m, t.span.out = s.span.out ++ [(i.port, m)] ∧ m.type = 9 ∧ m.info = 1 ∧
      m.dst = i.msg.src ∧ m.group = i.msg.group ∧ m.seq = i.msg.seq) ∧ OnlyIn [.span] s t) ∧
  (∀ s (i : SpanIn) cmd ty, (ty, cmd) ∈ ([(4, .spanClear i), (5, .spanDone i), (8, .spanAbort i), (9, .spanNack i)] : List (Nat × Instr)) →
    i.msg.type = ty → Judged s i → s.span.ops = [] →
    exec cmd s = .next (counted s i)) ∧
  (∀ s (i : SpanIn), i.msg.type = 10 → (portOf s i.port).st = 4 → i.tagOk = true → i.epoch = epochOf s (584 + i.port) → s.span.ops = [] →
    ∃ t, exec (.spanRelease i) s = .next t ∧ (portOf t i.port).st = 1 ∧ (portOf t i.port).enable = (portOf s i.port).enable ∧
      OnlyIn [.span] s t)

/-- O36. R91 to R93: attaching and detaching. A confidential LOCKED partition is denied; on detachment a group the
debugger halted resumes and one halted by a trap ends its launch with that trap, as of the time it was raised. R92,
R93: halt, step and resume act on the selected group of an attached partition; a halt takes effect when the group's
outstanding requests have completed and no step is in progress. A group that goes on settles its set, whose barriers
may be complete or diverged by now (R67). R92, R93: while the selected group is halted its registers and its core's
local store can be read and written, and DBG_LS_ADDR advances by 4 per access; otherwise the access is ignored and
sets REJECT. R454, R495: the reset of a core. Its epoch rises first, launches with sets on it end with ABORTED_RESET
and nothing is kept in it; the second reset by a hardware fault in one start enters its physical core in Ledger
section 7. -/
def Obligations.DebuggerAndCoreResets : Prop :=
  ((∀ s m, dbgUp s = true → ∃ t, exec (.debugAttach m) s = .next t ∧
    (∀ p, p < 8 → bit t.dbg.attach p = (bit s.dbg.attach p || (bit m p && !sealed s p))) ∧
    t.dbg.denied = (s.dbg.denied || (parts8 m).any (sealed s)) ∧ OnlyIn [.dbg, .trust] s t) ∧
  (∀ s m, dbgUp s = false → exec (.debugAttach m) s = .next s ∧ exec (.debugDetach m) s = .next s) ∧
  (∀ s p, dbgUp s = true → attached s p = true →
    (∀ c ∈ s.krn.cores, (∀ g ∈ c.2.grps, ∀ h, g.2.halt = some h → 0x10 ≤ h) ∧
      ∀ k ∈ c.2.sets, k.bars = [] ∧ ∃ sl ∈ k.slots, ∃ g, grpOf s c.1 sl = some g ∧ g.live ≠ 0) →
    ∃ t, exec (.debugDetach (2 ^ p)) s = .next t ∧ (∀ q, q < 8 → bit t.dbg.attach q = (bit s.dbg.attach q && q != p)) ∧
      (∀ core slot g, grpOf s core slot = some g → partOfCore s core = p →
        grpOf t core slot = some { g with halt := none, haltReq := false, stepping := false, stepBlocked := false }) ∧
      (∀ core, partOfCore s core ≠ p → coreOf t core = coreOf s core) ∧ OnlyIn [.dbg, .krn] s t) ∧
  (∀ s m, dbgUp s = true → ∃ t, exec (.debugDetach m) s = .next t ∧ OnlyIn [.dbg, .krn, .evt] s t ∧
    (∀ p, p < 8 → bit t.dbg.attach p = (bit s.dbg.attach p && !bit m p))) ∧
  (∀ s p core slot g l h, dbgUp s = true → attached s p = true → s.krn.cores = [(core, { coreOf s core with grps := [(slot, g)] })] →
    partOfCore s core = p → g.halt = some h → h < 0x10 → launchOf s g.launch = some l → l.trap = none → l.ended = false →
    ∃ t l', exec (.debugDetach (2 ^ p)) s = .next t ∧ launchOf t g.launch = some l' ∧ l'.ended = true ∧
      l'.trap = some (g.trapAt, h, core, slot) ∧ l'.status = trapStatus h g.trapFmt ∧ OnlyIn [.dbg, .krn, .evt] s t)) ∧
  ((∀ s, dbgOn s = true →
    (∀ g, grpOf s (dbgCore s) (dbgSlot s) = some g →
      (g.halt.isSome = true → exec .dbgHalt s = .next (setGrp s (dbgCore s) (dbgSlot s) g)) ∧
      (g.halt = none → exec .dbgHalt s = .next (setGrp s (dbgCore s) (dbgSlot s) { g with haltReq := true })) ∧
      (g.halt.isSome = true → exec .dbgResume s = .next (settleOf
        (setGrp s (dbgCore s) (dbgSlot s) { g with halt := none, haltReq := false, stepBlocked := false }) (dbgCore s) (dbgSlot s))) ∧
      (∀ o, g.halt.isSome = true → ∃ t, exec (.dbgStep o) s = .next t ∧ OnlyIn [.krn, .regs] s t ∧
        grpOf t (dbgCore s) (dbgSlot s) = some { g with halt := none, stepping := true, stepBlocked := false } ∧
        bit (rawReg t 0x100008 0 0) 8 = o)) ∧
    (∃ t, exec .dbgHaltCore s = .next t ∧ OnlyIn [.krn] s t ∧
      (∀ k, grpOf t (dbgCore s) k = (grpOf s (dbgCore s) k).map askHalt) ∧ (∀ c, c ≠ dbgCore s → coreOf t c = coreOf s c))) ∧
  (∀ s, dbgOn s = false → exec .dbgHalt s = .next s ∧ exec .dbgHaltCore s = .next s ∧ exec .dbgResume s = .next s ∧
    exec (.dbgStep true) s = .next s ∧ exec (.dbgStep false) s = .next s ∧ exec .dbgResetCore s = .next s) ∧
  (∀ s core slot, (∀ t, setOf (coreOf s core) slot = some t → ∀ x ∈ (coreOf s core).sets, isSet t.launch t.idx x = true →
    x.bars = [] ∧ ∃ y ∈ setGroups s core x, y.2.live ≠ 0) → settleOf s core slot = s) ∧
  (∀ s core slot g, grpOf s core slot = some g →
    (g.haltReq = true → g.stepping = false → (∀ o ∈ (coreOf s core).outst, o.slot ≠ slot) →
      exec (.haltTakesEffect core slot) s = .next (setGrp s core slot { g with halt := some 0x12, haltReq := false })) ∧
    (g.haltReq = false ∨ g.stepping = true ∨ (∃ o ∈ (coreOf s core).outst, o.slot = slot) →
      exec (.haltTakesEffect core slot) s = .next s))) ∧
  ((∀ s w g, dbgReach s = true → grpOf s (dbgCore s) (dbgSlot s) = some g → g.halt.isSome = true →
    (exec (.dbgRegData none) s = .next s) ∧
    (∃ t g', exec (.dbgRegData (some w)) s = .next t ∧ grpOf t (dbgCore s) (dbgSlot s) = some g' ∧
      regVal (dbgCore s) g' (dbgLane s) (dbgReg s) = w ∧ g'.pc = g.pc ∧ g'.active = g.active ∧
      (∀ l r, r < 256 → (l, r) ≠ (dbgLane s, dbgReg s) → regVal (dbgCore s) g' l r = regVal (dbgCore s) g l r) ∧ OnlyIn [.krn] s t) ∧
    (∃ t, exec (.dbgLsData none) s = .next t ∧ t.regs.sel = s.regs.sel ∧ OnlyIn [.regs] s t ∧
      (dbgLsAddr s % 4 = 0 → dbgLsAddr s + 4 < 0x200000 → dbgLsAddr t = dbgLsAddr s + 4)) ∧
    (dbgLsAddr s % 4 = 0 → dbgLsAddr s + 4 < 0x200000 → dbgLsAddr s + 4 ≤ lsBytes (coreOf s (dbgCore s)).split → ∃ t, exec (.dbgLsData (some w)) s = .next t ∧
      OnlyIn [.krn, .regs] s t ∧ dbgLsAddr t = dbgLsAddr s + 4 ∧
      coreOf t (dbgCore s) = lsWrite (dbgCore s) (coreOf s (dbgCore s)) (dbgLsAddr s) (le 4 w.toNat) false)) ∧
  (∀ s w, dbgReach s = true → (∀ g, grpOf s (dbgCore s) (dbgSlot s) = some g → g.halt = none) →
    exec (.dbgRegData w) s = .next { s with dbg := { s.dbg with reject := true } } ∧
    exec (.dbgLsData w) s = .next { s with dbg := { s.dbg with reject := true } }) ∧
  (∀ s w, dbgReach s = false → exec (.dbgRegData w) s = .next s ∧ exec (.dbgLsData w) s = .next s)) ∧
  ((∀ s, dbgOn s = true → ∃ t, exec .dbgResetCore s = .next t ∧ coreOf t (dbgCore s) = clearedCore (coreOf s (dbgCore s)) ∧
    (∀ l ∈ s.krn.launches, l.ended = false → (∃ x ∈ (coreOf s (dbgCore s)).sets, x.launch = l.op) →
      ({ l with ended := true, status := 9 } : Launch) ∈ t.krn.launches) ∧
    epochOf t (dbgCore s) = epochOf (bumpEpoch s (dbgCore s)) (dbgCore s) ∧ (∀ c, c ≠ dbgCore s → coreOf t c = coreOf s c) ∧
    OnlyIn [.krn, .fab] s t) ∧
  (∀ s k, s.dev.st = .open_ → ∃ t, exec (.coreFaultReset k) s = .next t ∧
    coreOf t k = { clearedCore (coreOf s k) with faults := (coreOf s k).faults + 1 } ∧
    epochOf t k = epochOf (bumpEpoch s k) k ∧ (∀ c, c ≠ k → coreOf t c = coreOf s c) ∧
    ((coreOf s k).faults ≠ 1 → t.boot = s.boot) ∧
    ((coreOf s k).faults = 1 → t.boot = (recordDefect s (.core (k / 64) (k / 8 % 8) (tget s.dev.physOf 0 k))).boot) ∧
    OnlyIn [.krn, .fab, .evt, .boot] s t) ∧
  (∀ s k, s.dev.st ≠ .open_ → exec (.coreFaultReset k) s = .next s))

/-- O37. R290, R292, R293, R295, R302, R304, R305, R306: which requests to a BAR are served; what becomes of one with
an ECRC error, one its stream discards and one its function does not serve; which accesses BAR4 serves, with what
status the others complete, what a served read answers, and what a request that fails its IDE check does. -/
def Obligations.HostApertureServesOrRefuses : Prop :=
  (∀ s fn r b how, barGate s fn r b how = .served ↔ s.link.cfgReady = true ∧ fn ≤ 8 ∧ (how.ecrcBad = true → s.link.ecrcChk = false) ∧
    ideBlocks s fn how.ide = false ∧ barOk s fn = true ∧ (fn ≠ 0 → tget s.trust.tdi 0 (fn - 1) = 2 → how.ide = .trusted) ∧
    (how.ep = true → r = true ∨ b = true)) ∧
  (∀ s fn, barOk s fn = true → fnLive s fn = true ∧ fn ∈ s.link.memSpace ∧ (fn ≠ 0 → tget s.trust.tdi 0 (fn - 1) ≠ 3)) ∧
  (∀ s fn off len d ep how, s.link.cfgReady = true → fn ≤ 8 →
    (how.ecrcBad = true → s.link.ecrcChk = true →
      exec (.bar4Read fn off len how) s = .next (aer s fn 5) ∧ exec (.bar4Write fn off d ep how) s = .next (aer s fn 5)) ∧
    ((how.ecrcBad = true → s.link.ecrcChk = false) → ideBlocks s fn how.ide = false →
      barOk s fn = false ∨ (fn ≠ 0 ∧ tget s.trust.tdi 0 (fn - 1) = 2 ∧ how.ide ≠ .trusted) →
      exec (.bar4Read fn off len how) s = .next (hostReply (aer s fn 1) (.completion fn 1 [] false)) ∧
      exec (.bar4Write fn off d ep how) s = .next (aer s fn 1))) ∧
  (∀ s fn off len, s.dev.st ≠ .open_ ∨ barOk s fn = false ∨ partConf s (partOfFn s fn) = true ∨ partExists s (partOfFn s fn) = false ∨
    partOfFn s fn ∈ s.evt.failed → bar4Bad s fn off len = some 1) ∧
  (∀ s fn off len l, l ∈ linesIn (bar4Base s (partOfFn s fn) + off) len →
    ownHbm s (partOfFn s fn) l = false ∨ inReserve s (partOfFn s fn) l 128 = true ∨ outOfService s l = true →
    bar4Bad s fn off len = some 1 ∨ bar4Bad s fn off len = some 2) ∧
  (∀ s fn off len how st, barGate s fn true true how = .served → 0 < len → off + len ≤ bar4Size s fn → bar4Bad s fn off len = some st →
    ∃ u, exec (.bar4Read fn off len how) s = .next u ∧ u.link.out = s.link.out ++ [.completion fn st [] false] ∧
      u.link.aer = s.link.aer ++ [(fn, st)] ∧ OnlyIn [.link] s u) ∧
  (∀ s fn off d ep how st, barGate s fn false true how = .served → d ≠ [] → off + d.length ≤ bar4Size s fn → bar4Bad s fn off d.length = some st →
    ∃ u, exec (.bar4Write fn off d ep how) s = .next u ∧ u.link.out = s.link.out ∧
      u.link.aer = s.link.aer ++ [(fn, st)] ∧ OnlyIn [.link] s u) ∧
  (∀ s fn off len how b, barGate s fn true true how = .served → 0 < len → off + len ≤ bar4Size s fn → bar4Bad s fn off len = none →
    hostWaits s (partOfFn s fn) len = false → peek s (bar4Base s (partOfFn s fn) + off) len = some b →
    ∃ u, exec (.bar4Read fn off len how) s = .next u ∧ u.link.out = s.link.out ++
        [.completion fn 0 (if anyPois b then zeros len else bytesOf b) (anyPois b)] ∧
      u.link.aer = s.link.aer ∧ OnlyIn [.link, .mem, .hbm, .fab, .krn, .evt, .free] s u) ∧
  (∀ s fn off len how, barGate s fn true true how = .served → 0 < len → off + len ≤ bar4Size s fn → bar4Bad s fn off len = none →
    hostWaits s (partOfFn s fn) len = false → peek s (bar4Base s (partOfFn s fn) + off) len = none →
    ∃ u, exec (.bar4Read fn off len how) s = .next u ∧ u.link.out = s.link.out ++ [.completion fn 2 [] false] ∧
      u.link.aer = s.link.aer ++ [(fn, 2)] ∧ OnlyIn [.link, .mem, .hbm, .fab, .krn, .evt, .free] s u) ∧
  (∀ s fn off d ep how, barGate s fn false true how = .served → d ≠ [] → off + d.length ≤ bar4Size s fn → bar4Bad s fn off d.length = none →
    hostWaits s (partOfFn s fn) d.length = false → ep = true → busMode s (partOfFn s fn) = true →
    ∃ u, exec (.bar4Write fn off d ep how) s = .next u ∧ u.mem = s.mem ∧ u.link.aer = s.link.aer ++ [(fn, 3)] ∧ OnlyIn [.link] s u) ∧
  (∀ s fn off len d ep how, barGate s fn true true how = .served → barGate s fn false true how = .served →
    (0 < len → off + len ≤ bar4Size s fn → bar4Bad s fn off len = none → hostWaits s (partOfFn s fn) len = true →
      ∃ u, exec (.bar4Read fn off len how) s = .next u ∧ OnlyIn [.fab] s u ∧ (bucketAt u (portKey 3 (partOfFn s fn) 2)).held =
        (bucketAt s (portKey 3 (partOfFn s fn) 2)).held ++ [.host (.bar4Read fn off len how)]) ∧
    (d ≠ [] → off + d.length ≤ bar4Size s fn → bar4Bad s fn off d.length = none → hostWaits s (partOfFn s fn) d.length = true →
      ∃ u, exec (.bar4Write fn off d ep how) s = .next u ∧ OnlyIn [.fab] s u ∧ (bucketAt u (portKey 3 (partOfFn s fn) 2)).held =
        (bucketAt s (portKey 3 (partOfFn s fn) 2)).held ++ [.host (.bar4Write fn off d ep how)])) ∧
  (∀ s fn off len d ep how, how.ecrcBad = false → ideBlocks s fn how.ide = true → how.ide = .trusted ∨ fn ∈ s.trust.ideBad →
    exec (.bar4Read fn off len how) s = .next s ∧ exec (.bar4Write fn off d ep how) s = .next s) ∧
  (∀ s fn off len d ep how, how.ide = .failed → how.ecrcBad = false → fn ≤ 8 → fnThere s fn = true → fn ∉ s.trust.ideBad →
    fn = 0 ∨ lockedTdi s (fn - 1) = false →
    ∃ u, exec (.bar4Read fn off len how) s = .next u ∧ exec (.bar4Write fn off d ep how) s = .next u ∧
      (∀ f, f ∈ u.trust.ideBad ↔ f = fn ∨ f ∈ s.trust.ideBad) ∧ u.evt.cnt = (countEv s 0x514 (partOfFn s fn)).evt.cnt ∧
      OnlyIn [.trust, .evt] s u) ∧
  (∀ s fn off len d ep how, how.ide = .failed → how.ecrcBad = false → fn ≤ 8 → fnThere s fn = true → fn ∉ s.trust.ideBad → fn ≠ 0 →
    lockedTdi s (fn - 1) = true →
    ∃ u, exec (.bar4Read fn off len how) s = .next u ∧ exec (.bar4Write fn off d ep how) s = .next u ∧
      (∀ f, f ∈ u.trust.ideBad ↔ f = fn ∨ f ∈ s.trust.ideBad) ∧ tget u.trust.tdi 0 (fn - 1) = 3)

/-- O38. R292, R306: a host write that BAR4 serves, over lines with no dead range and no waiting requests, puts its
bytes where the aperture maps them, with the poison of EP on each half it touches, and changes no other byte. -/
def Obligations.HostWritesReachTheirBytesOnly : Prop :=
  ∀ s fn off d ep how a, barGate s fn false true how = .served → d ≠ [] → off + d.length ≤ bar4Size s fn →
    bar4Bad s fn off d.length = none → hostWaits s (partOfFn s fn) d.length = false → a = bar4Base s (partOfFn s fn) + off → (ep = true → busMode s (partOfFn s fn) = false) →
    cacheOk s → memQuiet s → s.mem.dead = [] → (∀ l ∈ linesIn a d.length, cutOff s 8 (tentAt l) = false ∧ (busAt s l = true → freshLine s l {} {} = false)) →
    ∃ u, exec (.bar4Write fn off d ep how) s = .next u ∧
      (∀ i, i < d.length → memByte u (a + i) = d.getD i 0 ∧ (ep = true → memMark u (a + i) = true)) ∧
      (∀ b, b < a ∨ a + d.length ≤ b → memByte u b = memByte s b) ∧
      (∀ b, (∀ i, i < d.length → (a + i) / 64 ≠ b / 64) → memMark u b = memMark s b) ∧
      u.link.out = s.link.out ∧ OnlyIn [.link, .mem, .hbm, .fab, .krn, .evt, .free] s u

/-- O39. R295 to R297, R454, R455: VF Enable set, latched and cleared, and the Function Level Resets. R91, R303, R305:
which interface may be locked, what locking detaches, and how it starts and stops. -/
def Obligations.FunctionsAndDeviceInterfaces : Prop :=
  ((∀ s n, s.link.cfgReady = true → 0 < n → n ≤ 8 →
    (s.link.vfShut = true → exec (.vfEnable n) s = .next { s with link := { s.link with vfPend := some n } }) ∧
    (s.link.vfShut = false → s.link.numVfs = 0 → exec (.vfEnable n) s = .next { s with link := { s.link with numVfs := n } })) ∧
  (∀ s n, s.link.vfPend = some n →
    exec .vfDisable s = .next { s with link := { s.link with vfPend := none } } ∧
    (s.link.vfShut = true → exec .vfShutdownDone s = .next { s with link := { s.link with vfShut := false, numVfs := n, vfPend := none } })) ∧
  (∀ s, s.link.vfPend = none → s.link.vfShut = true → s.link.numVfs = 0 →
    exec .vfDisable s = .next s ∧ exec .vfShutdownDone s = .next { s with link := { s.link with vfShut := false } }) ∧
  (∀ s, s.link.vfPend = none → s.link.numVfs ≠ 0 → single s = false → ∃ t, exec .vfDisable s = .next t ∧ t.link.numVfs = 0 ∧
    t.link.vfShut = true ∧ (∀ f, f ≠ 0 → f ∉ t.link.memSpace ∧ f ∉ t.link.ats ∧ f ∉ t.link.d3) ∧
    t = { (List.range s.link.numVfs).foldl resetPart s with link := t.link }) ∧
  (∀ s vf, 0 < vf → vf ≤ s.link.numVfs → single s = false →
    (lockedTdi s (vf - 1) = true → ∃ t, exec (.vfFlr vf) s = .next t ∧ tget t.trust.tdi 0 (vf - 1) = 3 ∧
      (∀ k ∈ t.trust.keys, k.1 / 16 ≠ vf - 1) ∧ (∀ b ∈ t.krn.bundles, b.part ≠ vf - 1)) ∧
    (lockedTdi s (vf - 1) = false → downOf s (vf - 1) ≠ none → exec (.vfFlr vf) s = .next s) ∧
    (lockedTdi s (vf - 1) = false → downOf s (vf - 1) = none → partExists s (vf - 1) = true →
      ∃ t, exec (.vfFlr vf) s = .next t ∧ (∀ b ∈ t.krn.bundles, b.part ≠ vf - 1) ∧ tget t.krn.policy {} (vf - 1) = {} ∧
        (∀ r ∈ ringsOf s (vf - 1), ringOf t r = {}) ∧ (∀ o ∈ t.span.ops, o.part ≠ vf - 1) ∧
        OnlyIn [.mem, .hbm, .fab, .krn, .evt, .free, .link, .rng, .dev, .regs, .span] s t)) ∧
  (∀ s, s.link.cfgReady = true → single s = false → ∃ t, exec .pfFlr s = .next t ∧
    (∀ r, r < 256 → vfOwned s r = false → ringOf t r = {}) ∧ tfind t.evt.ring 0 = none ∧
    (∀ v, v < 64 → v ∉ t.link.unmasked ∧ v ∉ t.link.pba) ∧ (∀ e ∈ t.link.atc, e.1 ≠ 0) ∧
    OnlyIn [.mem, .hbm, .fab, .krn, .evt, .free, .link, .rng, .dev, .regs] s t)) ∧
  ((∀ s vf, 0 < vf → vf ≤ s.link.numVfs → single s = false → partExists s (vf - 1) = true →
    (partConf s (vf - 1) = false → exec (.lockInterfaceRequest vf) s = .next s) ∧
    (s.trust.tapOpen = true → exec (.lockInterfaceRequest vf) s = .next s) ∧
    (partConf s (vf - 1) = true → tget s.trust.tdi 0 (vf - 1) = 0 → s.trust.tapOpen = false → downOf s (vf - 1) = none →
      ∃ t, exec (.lockInterfaceRequest vf) s = .next t ∧ tget t.trust.tdi 0 (vf - 1) = 1 ∧ attached t (vf - 1) = false ∧
        (∀ p, p ≠ vf - 1 → tget t.trust.tdi 0 p = tget s.trust.tdi 0 p) ∧ OnlyIn [.trust, .dbg, .krn, .evt] s t)) ∧
  (∀ s vf, 0 < vf →
    (tget s.trust.tdi 0 (vf - 1) = 1 → downOf s (vf - 1) = none → ∃ t, exec (.startInterfaceRequest vf) s = .next t ∧
      tget t.trust.tdi 0 (vf - 1) = 2 ∧ (∀ p, p ≠ vf - 1 → tget t.trust.tdi 0 p = tget s.trust.tdi 0 p) ∧ OnlyIn [.trust] s t) ∧
    (tget s.trust.tdi 0 (vf - 1) ≠ 1 → exec (.startInterfaceRequest vf) s = .next s) ∧
    (tget s.trust.tdi 0 (vf - 1) = 0 → exec (.stopInterfaceRequest vf) s = .next s) ∧
    (tget s.trust.tdi 0 (vf - 1) ≠ 0 → downOf s (vf - 1) = none → ∃ t, exec (.stopInterfaceRequest vf) s = .next t ∧
      downOf t (vf - 1) = some { part := vf - 1, step := 1, stop := true, back := true } ∧
      tget t.trust.tdi 0 (vf - 1) = tget s.trust.tdi 0 (vf - 1) ∧ (∀ b ∈ t.krn.bundles, b.part ≠ vf - 1))))

/-- O40. R298 to R301, R306: D3hot holds what a function would send, a masked vector holds its message, the answers to
the device's reads reach their requesters, and an Invalidate Request waits for the reads that use its pages and
completes with the last. -/
def Obligations.FunctionPowerInterruptsAndAnswers : Prop :=
  (∀ s fn, s.link.cfgReady = true → fn ≤ s.link.numVfs →
    (∃ t, exec (.d3hotEntry fn) s = .next t ∧ fn ∈ t.link.d3 ∧ t.link.out = s.link.out ∧ OnlyIn [.link] s t) ∧
    (fn ∈ s.link.d3 → (∀ o ∈ s.rng.ops, o.code = 8 → o.stage = 1 → opFn s o ≠ fn) → ∃ t, exec (.d0Return fn) s = .next t ∧
      fn ∉ t.link.d3 ∧ t.link.out = s.link.out ++ s.link.held.filter (fun m => msgFn m == fn) ∧
      t.link.held = s.link.held.filter (fun m => msgFn m != fn) ∧ OnlyIn [.link] s t) ∧
    (∀ v, v < 64 → ∃ t, exec (.msixUnmask fn v) s = .next t ∧ 64 * fn + v ∈ t.link.unmasked ∧ 64 * fn + v ∉ t.link.pba ∧
      (64 * fn + v ∉ s.link.pba → t.link.out = s.link.out) ∧
      (64 * fn + v ∈ s.link.pba → fn ∉ s.link.d3 → t.link.out = s.link.out ++ [.interrupt fn v]) ∧
      (64 * fn + v ∈ s.link.pba → fn ∈ s.link.d3 → t.link.held = s.link.held ++ [.interrupt fn v]) ∧ OnlyIn [.link] s t) ∧
    (∀ a n, 0 < n → (∃ r ∈ s.link.reads, r.fn = fn ∧ a / 4096 ≤ r.addr / 4096 ∧ r.addr / 4096 ≤ (a + n - 1) / 4096) →
      exec (.atsInvalidateRequest fn a n) s = .next { s with link := { s.link with inval := s.link.inval ++ [(fn, a, n)] } }) ∧
    (∀ a n, 0 < n → (∀ r ∈ s.link.reads, r.fn = fn → r.addr / 4096 < a / 4096 ∨ (a + n - 1) / 4096 < r.addr / 4096) →
      ∃ t, exec (.atsInvalidateRequest fn a n) s = .next t ∧ t.link.out = s.link.out ++ [.invalidated fn a n] ∧
        (∀ e, e ∈ t.link.atc ↔ e ∈ s.link.atc ∧ ¬ (e.1 = fn ∧ a / 4096 ≤ e.2 ∧ e.2 ≤ (a + n - 1) / 4096)) ∧ OnlyIn [.link] s t)) ∧
  (∀ s tag r core id o g lane a b ep, s.link.reads.find? (fun r => r.tag == tag) = some r → r.why = .core core id →
    outstOf (coreOf s core) id = some o → o.lanes = [(lane, a)] → o.width = 4 → o.dst < 256 → grpOf s core o.slot = some g →
    (ep = true → busMode s (partOfCore s core) = false) →
    ∃ t g', exec (.hostReadCompletion tag (.ok b ep)) s = .next t ∧ grpOf t core o.slot = some g' ∧
      regVal core g' lane o.dst = BitVec.ofNat 32 (fld (slice b (a - r.addr) 4) 0 4) ∧ regPois g' lane o.dst = ep ∧
      t.link.reads = s.link.reads.filter (fun x => x.tag != tag) ∧ OnlyIn [.link, .krn, .evt, .fab, .free] s t) ∧
  (∀ s tag r core id o g l, s.link.reads.find? (fun r => r.tag == tag) = some r → r.why = .core core id →
    outstOf (coreOf s core) id = some o → grpOf s core o.slot = some g → launchOf s g.launch = some l → l.ended = false →
    l.trap = none → attached s l.part = false → ∀ res, res = .ur ∨ res = .ca ∨ res = .timeout ∨ res = .denied →
    ∃ t l', exec (.hostReadCompletion tag res) s = .next t ∧ launchOf t g.launch = some l' ∧ l'.ended = true ∧ l'.status = (if res = .denied then 4 else 6) ∧
      (res = .timeout → r.at_ + s.link.cplTimeout ≤ s.tick → exec (.hostCompletionTimeout tag) s = .next t) ∧
      OnlyIn [.link, .krn, .evt, .fab, .free] s t) ∧
  (∀ s r core id x res, s.link.reads = [r] → r.why = .core core id → s.link.inval = [x] →
    ∃ t, exec (.hostReadCompletion r.tag res) s = .next t ∧ t.link.inval = [] ∧ .invalidated x.1 x.2.1 x.2.2 ∈ t.link.out ∧
      (∀ e ∈ t.link.atc, ¬ (e.1 = x.1 ∧ x.2.1 / 4096 ≤ e.2 ∧ e.2 ≤ (x.2.1 + x.2.2 - 1) / 4096))) ∧
  (∀ s tag res, (∀ r ∈ s.link.reads, r.tag ≠ tag) →
    exec (.hostReadCompletion tag res) s = .next s ∧ exec (.hostCompletionTimeout tag) s = .next s) ∧
  (∀ s tag, (∀ r ∈ s.link.reads, r.tag = tag → s.tick < r.at_ + s.link.cplTimeout) → exec (.hostCompletionTimeout tag) s = .next s)

/-- O41. R386 to R389: before PITCHED the responder answers Busy; from PITCHED a measurement, a signature, a log
excerpt and the rest of a long answer leave on the request's connection (layouts of SPDM 1.3 PRESUMED; DOE connections
are the even ones). R391: KEY_IMPORT stores a key only inside a secured session and for a confidential LOCKED
partition, logs it as kind 7 and posts EV_KEY_IMPORT; elsewhere it answers status 2 and stores nothing; KEY_DROP
clears one slot. -/
def Obligations.ResponderAnswersAndKeysAreGuarded : Prop :=
  ((∀ s c n code b p q k, s.dev.st = .pitching → s.link.cfgReady = true → ∀ u, u = Host.Outcome.next (spdmSend s c (spdmError 3)) →
    exec (.getMeasurements c n) s = u ∧ exec (.spdmRequest c code b) s = u ∧ exec (.pqCert c p) s = u ∧ exec (.pqSig c) s = u ∧
    exec (.getLog c p q) s = u ∧ exec (.keyImport c p q k) s = u ∧ exec (.keyDrop c p q) s = u ∧ exec (.chunkGet c) s = u) ∧
  (∀ s c n, posting s = true → c % 2 = 0 → ∀ r, r = measurements s ++ edSig s (measurements s ++ n) →
    ∃ t, exec (.getMeasurements c n) s = .next t ∧ t.link.out = s.link.out ++ [.doe c (r.take chunkLen)] ∧
      connOf t c = { connOf s c with signed := some (measurements s ++ n), chunk := r.drop chunkLen } ∧ OnlyIn [.trust, .link] s t) ∧
  (∀ s c, posting s = true → c % 2 = 0 →
    (∀ x r, (connOf s c).signed = some x → r = vendorHead ++ Config.shake256 (edSig s x) ++ pqSigOf s x →
      ∃ t, exec (.pqSig c) s = .next t ∧ t.link.out = s.link.out ++ [.doe c (r.take chunkLen)] ∧
        connOf t c = { connOf s c with chunk := r.drop chunkLen } ∧ OnlyIn [.trust, .link] s t) ∧
    (∀ o, ∃ t, exec (.pqCert c o) s = .next t ∧
      t.link.out = s.link.out ++ [.doe c ((vendorHead ++ (certChain s true).drop o).take chunkLen)] ∧ OnlyIn [.trust, .link] s t) ∧
    (∀ a, ∃ t, exec (.getLog c a 8) s = .next t ∧ t.link.out = s.link.out ++ [.doe c ((vendorHead ++
        le 4 (s.trust.log.filter (fun e => decide (a ≤ e.seq))).length ++ (s.trust.log.filter (fun e => decide (a ≤ e.seq))).flatMap logBytes ++
        s.trust.chain ++ (parts s).flatMap (fun p => (tget s.trust.pchain (zeros 64, 0) p).1)).take chunkLen)] ∧ OnlyIn [.trust, .link] s t) ∧
    ((connOf s c).chunk ≠ [] → ∃ t, exec (.chunkGet c) s = .next t ∧ t.link.out = s.link.out ++ [.doe c ((connOf s c).chunk.take chunkLen)] ∧
      connOf t c = { connOf s c with chunk := (connOf s c).chunk.drop chunkLen } ∧ OnlyIn [.trust, .link] s t) ∧
    (∀ b a code, code = 0x83 ∨ code = 0xE4 → a = Config.spdmAnswer code (certChain s false) b → ∃ t, exec (.spdmRequest c code b) s = .next t ∧
      t.link.out = s.link.out ++ [.doe c ((a ++ edSig s (a ++ b)).take chunkLen)] ∧ (connOf t c).signed = some (a ++ b) ∧
      OnlyIn [.trust, .link] s t) ∧
    (∀ b, (connOf s c).secured = false → 4 ≤ secured s → ∃ t, exec (.spdmRequest c 0xE5 b) s = .next t ∧
      t.link.out = s.link.out ++ [.doe c (spdmError 0x0A)] ∧ t.trust = s.trust ∧ OnlyIn [.link] s t) ∧
    (∀ b, ∃ t, exec (.spdmRequest c 0xEC b) s = .next t ∧ (connOf t c).secured = false ∧ OnlyIn [.trust, .link] s t))) ∧
  ((∀ s c p q k, posting s = true → c % 2 = 0 →
    ((connOf s c).secured = false ∨ sealed s p = false ∨ 16 ≤ q ∨ k.length ≠ 32 ∨ downOf s p ≠ none →
      ∃ t, exec (.keyImport c p q k) s = .next t ∧ t.trust = s.trust ∧ t.link.out = s.link.out ++ [.doe c (vendorHead ++ le 1 2)] ∧
        OnlyIn [.link] s t) ∧
    ((connOf s c).secured = true → sealed s p = true → q < 16 → k.length = 32 → downOf s p = none → s.trust.log.length < 16384 →
      ∃ t, exec (.keyImport c p q k) s = .next t ∧ tfind t.trust.keys (16 * p + q) = some k ∧
        (∀ j, j ≠ 16 * p + q → tfind t.trust.keys j = tfind s.trust.keys j) ∧ t.trust.seq = (s.trust.seq + 1) % 2 ^ 32 ∧
        (∃ e, t.trust.log = s.trust.log ++ [e] ∧ e.kind = 7 ∧ e.part = p ∧ e.seq = s.trust.seq ∧ e.ts = s.tick) ∧
        t.link.out = s.link.out ++ [.doe c (vendorHead ++ le 1 0)] ∧ OnlyIn [.trust, .link, .evt] s t)) ∧
  (∀ s c p q, posting s = true → c % 2 = 0 → p < 8 → q < 16 →
    ∃ t, exec (.keyDrop c p q) s = .next t ∧ tfind t.trust.keys (16 * p + q) = none ∧
      (∀ j, j ≠ 16 * p + q → tfind t.trust.keys j = tfind s.trust.keys j) ∧ OnlyIn [.trust, .link] s t))

/-- O42. R513: register writes take effect only as naturally aligned 4-byte writes; any other that is served changes
nothing. R11, R304, R310, R448, R514, R515, R518, R529, R530: what a register write changes and when it is ignored.
R285, R287, R293, R296, R301, R305, R403, R513, R514, R516, R524: W1C bits clear unless hardware sets them in the same
cycle, a low word's read latches the high word and a read of 8 bytes answers both, VMIN records restart, and a
configuration write acts on its function and is answered. -/
def Obligations.RegisterWritesObeyTheMap : Prop :=
  (∀ s acc off w n how, n ≠ 4 ∨ off % 4 ≠ 0 →
    exec (.registerWrite acc off w n how) s = .next (if acc ≤ 8 then barEntry (fun _ t => t) acc false false how (fun t => t) s else s) ∧
    ((acc ≤ 8 → barGate s acc false false how = .served) → exec (.registerWrite acc off w n how) s = .next s)) ∧
  ((∀ s acc off w how, Served s acc off false how → regAt s acc off = none → exec (.registerWrite acc off w 4 how) s = .next s) ∧
  (∀ s acc off o m w how, Served s acc off false how → regAt s acc off = some o → selMask o = some m → o < 0x100008 →
    ∃ t, exec (.registerWrite acc off w 4 how) s = .next t ∧ selVal t acc o = w.toNat &&& m ∧ t.regs.w = s.regs.w ∧
      (∀ a p, (a, p) ≠ (acc, o) → a < 2048 → acc < 2048 → p < 2 ^ 25 → o < 2 ^ 25 → selVal t a p = selVal s a p) ∧ OnlyIn [.regs] s t) ∧
  (∀ s acc off o r w how, Served s acc off false how → regAt s acc off = some o → o < 0x100000 → selMask o = none → o ≠ 0x1000C →
    instOk s acc o = true → rwlList.find? (fun r => r.off = o && r.inst = instOf s acc o) = some r →
    (1 ≤ acc ∧ acc ≤ 8 → exec (.registerWrite acc off w 4 how) s = .next s) ∧
    (acc = 0 ∨ 8 < acc → pageLocked s acc o = false →
      (s.dev.commitOp.isSome = true → exec (.registerWrite acc off w 4 how) s = .next { s with dev := { s.dev with cfgWriteLost := true } }) ∧
      (s.dev.commitOp = none → s.dev.locked = true → exec (.registerWrite acc off w 4 how) s = .next s) ∧
      (s.dev.commitOp = none → s.dev.locked = false → ∃ t, exec (.registerWrite acc off w 4 how) s = .next t ∧
        rawReg t o r.inst r.reset = (rawReg s o r.inst r.reset &&& (0xFFFFFFFF - r.mask)) ||| (w.toNat &&& r.mask) ∧
        (∀ k, k ≠ rkey o r.inst → tfind t.regs.w k = tfind s.regs.w k) ∧ OnlyIn [.regs] s t))) ∧
  (∀ s off o w how, Served s 0 off false how → regAt s 0 off = some o → pageLocked s 0 o = true → selMask o = none →
    exec (.registerWrite 0 off w 4 how) s = .next s) ∧
  (∀ s acc off o w how, Served s acc off false how → regAt s acc off = some o → 0x20000 ≤ o → o < 0x24000 →
    (ringOf s ((o - 0x20000) / 0x40)).st ≠ 0 → exec (.registerWrite acc off w 4 how) s = .next s) ∧
  (∀ s acc off o w how, Served s acc off false how → regAt s acc off = some o → lowWord o = true → o < 0x100000 →
    ∃ t, exec (.registerWrite acc off w 4 how) s = .next t ∧ t.regs.w = s.regs.w ∧ OnlyIn [.regs] s t) ∧
  (∀ s acc off o w how l, Served s acc off false how → regAt s acc off = some o → 4 ≤ o → o < 0x100000 → lowWord (o - 4) = true →
    (0x20000 ≤ o → o < 0x24000 → (ringOf s ((o - 0x20000) / 0x40)).st = 0) → (0xE0000 ≤ o → (evRing s (evFn acc)).on = false) →
    tfind s.regs.stage (rkey (o - 4) (instOf s acc o)) = some l →
    ∃ t, exec (.registerWrite acc off w 4 how) s = .next t ∧ rawReg t (o - 4) (instOf s acc o) 0 = l.toNat ∧
      rawReg t o (instOf s acc o) 0 = (rawReg s o (instOf s acc o) 0 &&& (0xFFFFFFFF - ((rwMask o).getD (0, 0)).1)) |||
        (w.toNat &&& ((rwMask o).getD (0, 0)).1) ∧ OnlyIn [.regs] s t) ∧
  (∀ s acc off w how, Served s acc off false how → regAt s acc off = some 0x80030 → bit w.toNat 0 = true →
    ∃ t, exec (.registerWrite acc off w 4 how) s = .next t ∧ tfind t.pwr.vmin (selVal s acc 0x80020) = none ∧ OnlyIn [.pwr] s t) ∧
  (∀ s off w how, Served s 0 off false how → regAt s 0 off = some 0x100008 → sealed s (dbgPart s) = false → manyCtl w.toNat = true →
    exec (.registerWrite 0 off w 4 how) s = .next { s with dbg := { s.dbg with reject := true } })) ∧
  ((∀ s fn off v now how, barGate s fn false false how = .served →
    (regAt s fn off = none → exec (.w1cClear fn off v now how) s = .next s) ∧
    (regAt s fn off = some 0x108 → ∃ t, exec (.w1cClear fn off v now how) s = .next t ∧
      t.dev.cfgWriteLost = (s.dev.cfgWriteLost && (bit now 0 || !bit v 0)) ∧
      t.dev.strikeRefused = (s.dev.strikeRefused && (bit now 2 || !bit v 2)) ∧ t.dev.fatal = s.dev.fatal ∧ OnlyIn [.dev] s t) ∧
    (regAt s fn off = some 0x10010 → ∃ t, exec (.w1cClear fn off v now how) s = .next t ∧
      t.boot.busy = (s.boot.busy && (bit now 8 || !bit v 8)) ∧ t.boot.phase = s.boot.phase ∧ OnlyIn [.boot] s t) ∧
    (∀ r, r < 256 → regAt s fn off = some (0x20018 + 0x40 * r) → ∃ t, exec (.w1cClear fn off v now how) s = .next t ∧
      ringOf t r = { ringOf s r with dbErr := (ringOf s r).dbErr && (bit now 4 || !bit v 4) } ∧
      (∀ q, q ≠ r → ringOf t q = ringOf s q) ∧ OnlyIn [.rng] s t) ∧
    (regAt s fn off = some 0xE0010 → bit v 0 = true → bit now 0 = false → ∃ t, exec (.w1cClear fn off v now how) s = .next t ∧
      (evRing t fn).overflow = false ∧ (evRing t fn).lost = 0 ∧ (evRing t fn).on = (evRing s fn).on ∧
      (∀ f, f ≠ fn → evRing t f = evRing s f) ∧ OnlyIn [.evt] s t) ∧
    (regAt s fn off = some 0x10000C → sealed s (dbgPart s) = false → ∃ t, exec (.w1cClear fn off v now how) s = .next t ∧
      t.dbg.reject = (s.dbg.reject && (bit now 2 || !bit v 2)) ∧ t.dbg.denied = (s.dbg.denied && (bit now 3 || !bit v 3)) ∧
      t.dbg.attach = s.dbg.attach ∧ OnlyIn [.dbg] s t)) ∧
  (∀ s acc off o n how, regAt s acc off = some o → isDbgData o = false →
    (acc ≤ 8 → barGate s acc true false how = .served) → n = 4 →
    ∃ t, exec (.lowWordRead acc off n how) s = .next t ∧ t.regs.w = s.regs.w ∧ t.regs.sel = s.regs.sel ∧
      t.link.out = (if acc ≤ 8 then s.link.out ++ [.completion acc 0 (le 4 (barRead s acc off)) false] else s.link.out) ∧
      (roLowWord o = true → tfind t.regs.latch (rkey (o + 4) acc) = some (BitVec.ofNat 32 (wide s acc o / 2 ^ 32 % 2 ^ 32)) ∧
        (∀ k, k ≠ rkey (o + 4) acc → tfind t.regs.latch k = tfind s.regs.latch k)) ∧
      (roLowWord o = false → lowWord o = true →
        tfind t.regs.latch (rkey (o + 4) acc) = some (BitVec.ofNat 32 (rawReg s (o + 4) (instOf s acc o) 0))) ∧
      (roLowWord o = false → lowWord o = false → tfind t.regs.latch (rkey o acc) = none) ∧ OnlyIn [.regs, .link] s t) ∧
  (∀ s off how, barGate s 0 true false how = .served → regAt s 0 off = some off → roLowWord off = true → off < 0x100000 →
    tfind s.regs.latch (rkey off 0) = none →
    ∃ t, exec (.lowWordRead 0 off 8 how) s = .next t ∧ t.link.out = s.link.out ++
      [.completion 0 0 (le 4 (wide s 0 off % 2 ^ 32) ++ le 4 (wide s 0 off / 2 ^ 32 % 2 ^ 32)) false] ∧ OnlyIn [.regs, .link] s t) ∧
  (∀ s, (regOk s 0 0x80000 = false → exec .pwrVminCtlClear s = .next s) ∧
    (regOk s 0 0x80000 = true → ∃ t, exec .pwrVminCtlClear s = .next t ∧ tfind t.pwr.vmin (selVal s 0 0x80020) = none ∧
      (∀ k, k ≠ selVal s 0 0x80020 → tfind t.pwr.vmin k = tfind s.pwr.vmin k) ∧ OnlyIn [.pwr] s t)) ∧
  (∀ s fn, s.dev.st ≠ .stowed → s.dev.st ≠ .tripped →
    (∀ w, s.link.cfgReady = false → exec (.configurationWrite fn w) s = .next (hostReply s (.retry fn))) ∧
    (∀ w, s.link.cfgReady = true → fnThere s fn = false →
      exec (.configurationWrite fn w) s = .next (hostReply (aer s fn 1) (.completion fn 1 [] false))) ∧
    (fnThere s fn = true →
      (∀ on, ∃ t, exec (.configurationWrite fn (.memSpace on)) s = .next t ∧ (fn ∈ t.link.memSpace ↔ on = true) ∧
        (∀ f, f ≠ fn → (f ∈ t.link.memSpace ↔ f ∈ s.link.memSpace)) ∧ t.link.out = s.link.out ++ [.completion fn 0 [] false] ∧ OnlyIn [.link] s t) ∧
      (∃ t, exec (.configurationWrite fn (.ats false)) s = .next t ∧ fn ∉ t.link.ats ∧ (∀ e ∈ t.link.atc, e.1 ≠ fn) ∧
        t.link.out = s.link.out ++ [.completion fn 0 [] false] ∧ OnlyIn [.link] s t) ∧
      (∀ k, k ≤ 6 → fn = 0 → ∃ t, exec (.configurationWrite fn (.resizeBar4 k)) s = .next t ∧ bar4Size t 0 = 2 ^ k * 2 ^ 30 ∧
        (∀ f, f ≠ 0 → bar4Size t f = bar4Size s f) ∧ OnlyIn [.link] s t) ∧
      (∀ k, k ≤ 6 → fn = 0 → ∃ t, exec (.configurationWrite fn (.resizeVfBar4 k)) s = .next t ∧ bar4Size t 0 = bar4Size s 0 ∧
        (∀ f, f ≠ 0 → bar4Size t f = 2 ^ k * 2 ^ 30) ∧ OnlyIn [.link] s t) ∧
      (∀ k, 6 < k ∨ fn ≠ 0 → exec (.configurationWrite fn (.resizeBar4 k)) s = .next (hostReply s (.completion fn 0 [] false)) ∧
        exec (.configurationWrite fn (.resizeVfBar4 k)) s = .next (hostReply s (.completion fn 0 [] false))) ∧
      (fn ≠ 0 → lockedTdi s (fn - 1) = true → ∃ t, exec (.configurationWrite fn .lockedField) s = .next t ∧
        tget t.trust.tdi 0 (fn - 1) = 3) ∧
      (fn = 0 ∨ lockedTdi s (fn - 1) = false →
        exec (.configurationWrite fn .lockedField) s = .next (hostReply s (.completion fn 0 [] false))))))

/-- O43. R27, R201, R202, R206, R214, R220 to R222, R273: a slice takes the request that its arbiter grants: one that
its destination check turns away is answered so (R267, R282), a hit is performed, a reduction on a cached line is
queued, a miss joins the line's list, meets a dead range, is forwarded, takes a miss register or, a whole write,
installs its line at once. What comes about in the slice's arrays comes first (R223, R225). R202, R207, R221 to R223,
R249, R253, R256: after what comes about in the slice's arrays, a fill whose banks may be activated comes in as its
two sectors decode, but for a newly uncorrectable one in BUS_ERROR mode, whose waiters take a bus error; queued
reductions act on their cached line, and memory-side atomics on the sectors they concern. -/
def Obligations.SlicesServeRequestsFillsAndReductions : Prop :=
  ((∀ s k, nextReq s k = none → exec (.sliceRequest k .none) s = .next s) ∧
  (∀ s k f, ∃ w, exec (.sliceRequest k .none) (arrays s k f) = .next w ∧ exec (.sliceRequest k f) s = .next (keepSlice s w)) ∧
  (∀ s k l lo hi, s.mem.reqs = [] → servedAt s l = k → inPlot l = false → resident s l ≠ none → lo = true ∨ hi = true →
    ∃ t, exec (.sliceRequest k (.parity l lo hi)) s = .next t ∧ upsetAt t l = upsetAt s l ||| (b2n lo + 2 * b2n hi) ∧
      t.mem.lines = s.mem.lines ∧ OnlyIn [.mem] s t) ∧
  (∀ s k set way c, s.mem.reqs = [] → lineIn s k set way = some c → ∃ t, exec (.sliceRequest k (.tagBoth set way)) s = .next t ∧
    t.mem.lines = s.mem.lines.filter (fun x => x.line != c.line) ∧ t.mem.hbm = s.mem.hbm ∧ OnlyIn [.mem, .hbm, .krn, .fab, .evt, .free] s t) ∧
  (∀ s k i d, s.mem.reqs = [] → (deadIn s k)[i]? = some d → ∃ t, exec (.sliceRequest k (.deadBoth i)) s = .next t ∧
    { d with lost := sadd d.lost k } ∈ t.mem.dead ∧ t.mem.lines = s.mem.lines ∧ OnlyIn [.mem, .hbm, .krn, .fab, .evt, .free] s t) ∧
  (∀ s k r g, nextReq s k = some r →
    g = markLate (takenOff { s with mem := { s.mem with ptr := tset s.mem.ptr k ((srcOrder r + 1) % 513) } } r) r →
    (backed s r.line = false → exec (.sliceRequest k .none) s = .next (keepSlice s (answer g r none false))) ∧
    (∀ w, away s r = some w → exec (.sliceRequest k .none) s = .next (keepSlice s (turnAway g r w))) ∧
    (away s r = none →
      (inPlot r.line = true ∨ isRed r.act = false ∧ resident s r.line ≠ none →
        exec (.sliceRequest k .none) s = .next (keepSlice s (perform (drainRed g r.line) r))) ∧
      (inPlot r.line = false → isRed r.act = true → resident s r.line ≠ none →
        exec (.sliceRequest k .none) s = .next { g with mem := { g.mem with redq := s.mem.redq ++ [r] } }) ∧
      (∀ m, inPlot r.line = false → resident s r.line = none → missOf s r.line = some m →
        (¬ (m.waiters = [] ∧ wholeWrite r.act = true) →
          ∃ t m', exec (.sliceRequest k .none) s = .next t ∧ missOf t r.line = some m' ∧ m'.waiters = m.waiters ++ [r] ∧
            t.mem.lines = s.mem.lines ∧ t.mem.hbm = s.mem.hbm ∧ OnlyIn [.mem, .fab] s t) ∧
        (m.waiters = [] → wholeWrite r.act = true →
          exec (.sliceRequest k .none) s = .next (keepSlice s (perform (install { g with mem := { g.mem with
            miss := s.mem.miss.filter (fun x => x.line != r.line) } } r.line (hbmLine s r.line) true) r)))) ∧
      (∀ d, inPlot r.line = false → resident s r.line = none → missOf s r.line = none → deadAt s r.line = some d →
        exec (.sliceRequest k .none) s = .next (keepSlice s (deadReq g r d))) ∧
      (inPlot r.line = false → resident s r.line = none → missOf s r.line = none → deadAt s r.line = none →
        (isRed r.act = true → victim s (sliceAt r.line) (setAt r.line) = none →
          ∃ t, exec (.sliceRequest k .none) s = .next t ∧ t.mem.msa = s.mem.msa ++ [r] ∧ t.mem.lines = s.mem.lines ∧ OnlyIn [.mem, .fab] s t) ∧
        (wholeWrite r.act = true →
          exec (.sliceRequest k .none) s = .next (keepSlice s (perform (install g r.line (hbmLine s r.line) true) r))) ∧
        (isRed r.act = false ∨ victim s (sliceAt r.line) (setAt r.line) ≠ none → wholeWrite r.act = false →
          ∃ t m, exec (.sliceRequest k .none) s = .next t ∧
            t.mem.miss = s.mem.miss ++ [m] ∧ m.line = r.line ∧ m.waiters = [r] ∧ t.mem.lines = s.mem.lines ∧ OnlyIn [.mem, .fab] s t))))) ∧
  ((∀ s k l lo hi, s.mem.miss.find? (fun m => m.slice == k && m.line == l) = none ∨ fillable s k l = false →
    exec (.fillArrival k l lo hi) s = .next s) ∧
  (∀ s k l lo hi f, ∃ w, exec (.fillArrival k l lo hi) (arrays s k f) = .next w ∧
    exec (.fillArrival k l lo hi f) s = .next (keepSlice s w)) ∧
  (∀ s k l lo hi m v, s.mem.miss.find? (fun m => m.slice == k && m.line == l) = some m → fillable s k l = true →
    v = readSectors s l lo hi 0 ((m.waiters.head?.map srcIdx).getD 0) →
    (busAt s l = false ∨ freshLine s l lo hi = false →
      exec (.fillArrival k l lo hi) s = .next (keepSlice s (fillDone v m (hbmRead s l lo hi)))) ∧
    (busAt s l = true → freshLine s l lo hi = true →
      exec (.fillArrival k l lo hi) s = .next (keepSlice s (m.waiters.foldl (fun s r => answer s r none false)
        { v with mem := { v.mem with miss := v.mem.miss.filter (fun x => x.line != l) } })))) ∧
  (∀ s k, s.mem.redq.find? (fun r => sliceAt r.line == k) = none → exec (.reductionPerform k) s = .next s) ∧
  (∀ s k r, s.mem.redq.find? (fun r => sliceAt r.line == k) = some r → inPlot r.line = false → busAt s r.line = false →
    upsetAt s r.line = 0 → isRed r.act = true → (∀ x ∈ s.mem.lines, x.line = r.line → some x = resident s r.line) → resident s r.line ≠ none →
    ∃ t, exec (.reductionPerform k) s = .next t ∧ lineVal t r.line = applyDo r.act (lineVal s r.line) ∧
      t.mem.hbm = s.mem.hbm ∧ t.mem.plot = s.mem.plot ∧ t.mem.redq = s.mem.redq.filter (fun x => x.id != r.id) ∧
      (∀ l, l ≠ r.line → lineVal t l = lineVal s l) ∧ OnlyIn [.mem, .krn, .fab, .evt, .free] s t) ∧
  (∀ s k lo hi, s.mem.msa.find? (fun r => sliceAt r.line == k) = none → exec (.memorySideAtomic k lo hi) s = .next s) ∧
  (∀ s k r lo hi v, s.mem.msa.find? (fun r => sliceAt r.line == k) = some r → v = hbmRead s r.line lo hi →
    (busAt s r.line = false ∨ meetsPoison r.act v = false ∧ (∀ h ∈ redHalves r.act, bit v.pois h = false) →
      ∃ t, exec (.memorySideAtomic k lo hi) s = .next t ∧
        t.mem.hbm = ((redHalves r.act).foldl (fun s h => putSector s (r.line + 64 * h) (slice (applyDo r.act v).data (64 * h) 64)
          (bit (applyDo r.act v).pois h)) s).mem.hbm ∧
        t.mem.hbmPois = ((redHalves r.act).foldl (fun s h => putSector s (r.line + 64 * h) (slice (applyDo r.act v).data (64 * h) 64)
          (bit (applyDo r.act v).pois h)) s).mem.hbmPois ∧
        t.mem.msa = s.mem.msa.filter (fun x => x.id != r.id) ∧ t.mem.lines = s.mem.lines ∧ OnlyIn [.mem, .hbm, .krn, .fab, .evt, .free] s t) ∧
    (busAt s r.line = true → meetsPoison r.act v = true ∨ (∃ h ∈ redHalves r.act, bit v.pois h = true) →
      exec (.memorySideAtomic k lo hi) s = .next (keepSlice s (answer ((redHalves r.act).foldl (fun s h =>
        readSector s (r.line + 64 * h) (if h = 0 then lo else hi) 8 (chanAt r.line / 48))
          { s with mem := { s.mem with msa := s.mem.msa.filter (fun x => x.id != r.id) } }) r none false)))))

/-- O44. R57, R88, R89, R92: an instruction whose group may not issue changes nothing; one whose bytes cannot be read
traps. R59 to R61: a branch on a poisoned condition traps; a uniform one leaves the stack alone; a divergent one
pushes the taken path and falls through; a push beyond 32 pending entries overflows, entries whose path has been taken
not counting; a call leaves the address behind it in its link register (log entry 76); paths meet again at the
reconvergence address. -/
def Obligations.GroupsIssueBranchAndReconverge : Prop :=
  ((∀ s i, (∀ rs, issuable s i rs = none) → ∀ u, u = Host.Outcome.next s →
    (∀ c t r k, exec (.branch i c t r k) s = u ∧ exec (.indirectBranch i t r k) s = u ∧ exec (.join i c t) s = u ∧
      exec (.lockAcq i r) s = u ∧ exec (.lockRel i r) s = u) ∧
    exec (.exit i) s = u ∧ exec (.brk i) s = u ∧ (∀ m, exec (.trap i m) s = u) ∧ (∀ c, exec (.fence i c) s = u) ∧
    (∀ o d l, exec (.vectorInstruction i o d l) s = u) ∧ (∀ f d x, exec (.specialFunction i f d x) s = u) ∧
    (∀ a, exec (.loadStore i a) s = u) ∧ (∀ a, exec (.atomic i a) s = u) ∧
    (∀ k d f x y z n, exec (.xln i k d f x y z n) s = u) ∧ (∀ k d f x, exec (.tally i k d f x) s = u)) ∧
  (∀ s i rs l t g, issuable s i rs = some (l, t, g) → l.ended = false ∧ g.active ≠ 0 ∧ busyAny g rs = false ∧ (domOf s i.core).st = 2) ∧
  (∀ s i l t g c, issuable s i [] = some (l, t, g) → fetchTrap s l i.core g.pc i.len = some c →
    exec (.exit i) s = .next (keepKrn s (raise s i.core i.slot c)) ∧ exec (.brk i) s = .next (keepKrn s (raise s i.core i.slot c)))) ∧
  ((∀ s i c tgt r l t g, Issues s i [c] l t g →
    ((∃ x ∈ actives g, regPois g x c = true) → exec (.branch i c tgt r) s = .next (keepKrn s (raise s i.core i.slot 5))) ∧
    ((∀ x ∈ actives g, regPois g x c = false) →
      ((∀ x ∈ actives g, regVal i.core g x c = 0) → exec (.branch i c tgt r) s = .next (updGrp s i.core i.slot (advance i.len))) ∧
      ((∀ x ∈ actives g, regVal i.core g x c ≠ 0) → g.stepping = false → ∃ u, exec (.branch i c tgt r) s = .next u ∧
        grpOf u i.core i.slot = some (settlePaths { g with pc := tgt }) ∧ OnlyIn [.krn] s u) ∧
      (∀ m, m = maskOf ((actives g).filter (fun x => truth (regVal i.core g x c))) → m ≠ g.active → m ≠ 0 →
        (stackFull g 1 = true → exec (.branch i c tgt r) s = .next (keepKrn s (raise s i.core i.slot 0xC))) ∧
        (stackFull g 1 = false → g.stepping = false → ∃ u, exec (.branch i c tgt r) s = .next u ∧ grpOf u i.core i.slot = some (settlePaths
          { g with stack := .pend tgt m r :: g.stack, active := g.active &&& ~~~m, pc := g.pc + i.len }) ∧ OnlyIn [.krn] s u)))) ∧
  (∀ g n, ((∀ f ∈ g.stack, ∃ t m r, f = .pend t m r) → stackFull g n = decide (32 < g.stack.length + n)) ∧
    ((∀ f ∈ g.stack, ∃ r m, f = .join r m) → stackFull g n = decide (32 < n))) ∧
  (∀ s i c tgt r k l t g, Issues s i [c, k] l t g → k < 256 → g.stepping = false →
    (∀ x ∈ actives g, regPois g x c = false ∧ regVal i.core g x c ≠ 0) →
    ∃ u g', exec (.branch i c tgt r (some k)) s = .next u ∧ grpOf u i.core i.slot = some g' ∧ OnlyIn [.krn] s u ∧
      ∀ x ∈ actives g, regVal i.core g' x k = BitVec.ofNat 32 (g.pc + i.len) ∧ regPois g' x k = false) ∧
  (∀ s i r k q a l t g, Issues s i [r, k] l t g → k < 256 → g.stepping = false → stackFull g 0 = false →
    (∀ x ∈ actives g, regPois g x r = false ∧ (regVal i.core g x r).toNat = a) →
    ∃ u g', exec (.indirectBranch i r q (some k)) s = .next u ∧ grpOf u i.core i.slot = some g' ∧ OnlyIn [.krn] s u ∧
      ∀ x ∈ actives g, regVal i.core g' x k = BitVec.ofNat 32 (g.pc + i.len) ∧ regPois g' x k = false) ∧
  (∀ s i r q l t g, Issues s i [r] l t g →
    ((∃ x ∈ actives g, regPois g x r = true) → exec (.indirectBranch i r q) s = .next (keepKrn s (raise s i.core i.slot 5))) ∧
    (∀ a, (∀ x ∈ actives g, regPois g x r = false ∧ (regVal i.core g x r).toNat = a) → g.stepping = false → g.stack.length ≤ 32 →
      ∃ u, exec (.indirectBranch i r q) s = .next u ∧ grpOf u i.core i.slot = some (settlePaths { g with pc := a }) ∧ OnlyIn [.krn] s u)) ∧
  (∀ (g : Grp) t m r rest, g.stack = .pend t m r :: rest → g.active ≠ 0 → g.pc = r → t ≠ r →
    settlePaths g = { g with stack := .join r g.active :: rest, active := m &&& g.live, pc := t }) ∧
  (∀ (g : Grp) a r, g.stack = [.join r a] → g.active ≠ 0 → g.pc = r →
    settlePaths g = { g with stack := [], active := (g.active ||| a) &&& g.live }))

/-- O45. R61, R65 to R70: exit, barriers and locks. -/
def Obligations.ExitBarriersAndLocks : Prop :=
  (∀ s i l t g, Issues s i [] l t g →
    ((∃ x ∈ actives g, ∃ k ∈ g.locks, k.1 = x) → exec (.exit i) s = .next (keepKrn s (raise s i.core i.slot 0xA))) ∧
    ((∀ x ∈ actives g, ∀ k ∈ g.locks, k.1 ≠ x) → ∃ u, exec (.exit i) s = .next u ∧ OnlyIn [.krn, .evt] s u ∧
      (grpOf u i.core i.slot = none ∨ ∃ g', grpOf u i.core i.slot = some g' ∧ g'.live = g.live &&& ~~~g.active))) ∧
  (∀ s i b n l t g, Issues s i [] l t g →
    (l.entry.barriers ≤ b → exec (.join i b n) s = .next (keepKrn s (raise s i.core i.slot 1))) ∧
    (b < l.entry.barriers → ∃ u, exec (.join i b n) s = .next u ∧ OnlyIn [.krn, .evt] s u ∧
      ∀ x v, x = (match tfind t.bars b with
          | some x => { x with arrived := x.arrived + (actives g).length }
          | none => { n, arrived := (actives g).length, exited := 0 }) →
        v = updSet s i.core t.launch t.idx (fun t => { t with bars := tset t.bars b x }) →
        u = keepKrn s (updGrp (settleSet (setGrp { v with krn := { v.krn with order := v.krn.order + 1 } } i.core i.slot
          (settlePaths { g with active := 0, parked := g.parked ++ (actives g).map (fun x =>
            { lane := x, why := .barrier b, since := v.krn.order, pc := g.pc + i.len }) })) i.core t.launch t.idx) i.core i.slot stepOver))) ∧
  (∀ (s : State) core (t : GSet) b x, tfind t.bars b = some x →
    (x.arrived < (if x.n = 0 then liveThreads s core t else x.n - x.exited) → barDone core t s b = s) ∧
    ((if x.n = 0 then liveThreads s core t else x.n - x.exited) ≤ x.arrived → ∀ sl g, grpOf s core sl = some g → sl ∈ t.slots →
      ∃ g', grpOf (barDone core t s b) core sl = some g' ∧ parkedAt (.barrier b) g' = [] ∧ (parkedAt (.barrier b) g ≠ [] → g'.spin = false))) ∧
  (∀ s i r l t g, Issues s i [r] l t g →
    (∀ c, lockBad t i.core g r = some c → exec (.lockAcq i r) s = .next (keepKrn s (raise s i.core i.slot c)) ∧
      exec (.lockRel i r) s = .next (keepKrn s (raise s i.core i.slot c))) ∧
    (lockBad t i.core g r = none →
      (∃ u, exec (.lockAcq i r) s = .next u ∧ OnlyIn [.krn, .evt] s u ∧
        ∀ tgt : Nat → Nat, ∀ q v, (∀ x, tgt x = (regVal i.core g x r).toNat) →
          q = (distinct ((actives g).map tgt)).foldl (fun acc a => acquire1 i t acc a ((actives g).filter (fun x => tgt x == a))) (s, []) →
          v = updGrp { q.1 with krn := { q.1.krn with order := s.krn.order + 1 } } i.core i.slot (fun h => settlePaths
            { h with pc := h.pc + i.len, active := h.active &&& ~~~(maskOf (q.2.map (·.1)))
                     parked := h.parked ++ q.2.map (fun f => { lane := f.1, why := .lock f.2, since := s.krn.order, pc := g.pc + i.len }) }) →
          u = keepKrn s (updGrp (settleSet v i.core t.launch t.idx) i.core i.slot stepOver)) ∧
      ((∃ x ∈ actives g, lsWord s i.core (t.lsBase + (regVal i.core g x r).toNat) ≠ lockWord i.slot x) →
        exec (.lockRel i r) s = .next (keepKrn s (raise s i.core i.slot 0xA))) ∧
      ((∀ x ∈ actives g, lsWord s i.core (t.lsBase + (regVal i.core g x r).toNat) = lockWord i.slot x) →
        ∃ u, exec (.lockRel i r) s = .next u ∧ OnlyIn [.krn, .evt] s u ∧
          u = keepKrn s (updGrp (settleSet ((distinct ((actives g).map (fun x => (regVal i.core g x r).toNat))).foldl (release1 i t)
            (updGrp s i.core i.slot (fun g => settlePaths { g with pc := g.pc + i.len }))) i.core t.launch t.idx) i.core i.slot stepOver)))) ∧
  (∀ s i (t : GSet) f a x rest g, grpOf s i.core i.slot = some g → lsWord s i.core (t.lsBase + a) = 0 → i.slot < 32 → x < 32 →
    cellsWf (lsDefault i.core (coreOf s i.core)) (coreOf s i.core).ls = true →
    lsWord (acquire1 i t (s, f) a (x :: rest)).1 i.core (t.lsBase + a) = lockWord i.slot x ∧
      (acquire1 i t (s, f) a (x :: rest)).2 = f ++ rest.map (fun y => (y, a)) ∧
      (grpOf (acquire1 i t (s, f) a (x :: rest)).1 i.core i.slot).map (·.locks) = some (g.locks ++ [(x, a)])) ∧
  (∀ s i (t : GSet) f a ls, lsWord s i.core (t.lsBase + a) ≠ 0 → acquire1 i t (s, f) a ls = (s, f ++ ls.map (fun y => (y, a)))) ∧
  (∀ slot lane, slot < 32 → lane < 32 → ownerOf (lockWord slot lane) = some (slot, lane))

/-- O46. R37, R52, R58, R62, R86, R486: what vector and special-function instructions write in each active lane, with
its mark. -/
def Obligations.VectorResultsPerLane : Prop :=
  (∀ s i op d xs l t g, Issues s i (d :: (d + 1) :: xs.flatMap srcRegs) l t g →
    (xs.length ≠ vopArity op → exec (.vectorInstruction i op d xs) s = .next (keepKrn s (raise s i.core i.slot 1))) ∧
    (∀ rs, xs.length = vopArity op → vecRes s i l g op xs = some rs → exec (.vectorInstruction i op d xs) s =
      .next (updGrp (setGrp { s with free := s.free + 32 } i.core i.slot (putLanes g d (wideRes op) rs)) i.core i.slot (advance i.len)))) ∧
  (∀ s i op d xs l t g, Issues s i (d :: (d + 1) :: xs.flatMap srcRegs) l t g → vecRes s i l g op xs = none →
    exec (.vectorInstruction i op d xs) s = .next (keepKrn s (raise s i.core i.slot 1))) ∧
  (∀ s i f d x l t g, Issues s i (d :: (srcRegs x).take 1) l t g →
    exec (.specialFunction i f d x) s = .next (updGrp (setGrp s i.core i.slot (putLanes g d false ((actives g).map (fun n =>
      (n, (specialVal f (srcVal i.core g n x).1).toNat, (srcVal i.core g n x).2))))) i.core i.slot (advance i.len))) ∧
  (∀ s c l g n (x : Nat → Nat × Bool) k, (x 0).1 < 2 ^ 32 → (x 1).1 < 2 ^ 32 →
    vecVal s c l g n (.add .int32) x k = some (((x 0).1 + (x 1).1) % 2 ^ 32, (x 0).2 || (x 1).2) ∧
    vecVal s c l g n .and x k = some ((x 0).1 &&& (x 1).1, (x 0).2 || (x 1).2) ∧
    vecVal s c l g n .not x k = some (2 ^ 32 - 1 - (x 0).1, (x 0).2) ∧
    vecVal s c l g n .sel x k = some (if (x 0).1 ≠ 0 then ((x 1).1, (x 0).2 || (x 1).2) else ((x 2).1, (x 0).2 || (x 2).2)) ∧
    ((x 1).1 < 32 → vecVal s c l g n .shl x k = some ((x 0).1 * 2 ^ (x 1).1 % 2 ^ 32, (x 0).2 || (x 1).2)) ∧
    vecVal s c l g n (.sreg .lane) x k = some (n, false) ∧ vecVal s c l g n (.sreg .coreIdx) x k = some (c, false) ∧
    vecVal s c l g n (.sreg .tscLo) x k = some (s.tick % 2 ^ 32, false)) ∧
  (∀ f w, ofFp32 w = .nan → specialVal f w = nanW) ∧
  (∀ f n, specialVal .recip (atPlace n 0) = atPlace n 0x7F800000 ∧ specialVal .rsqrt (atPlace n 0) = atPlace n 0x7F800000 ∧
    specialVal .log2 (atPlace n 0) = 0xFF800000#32 ∧ specialVal .sin (atPlace n 0x7F800000) = nanW ∧
    specialVal .cos (atPlace n 0x7F800000) = nanW ∧ specialVal .tanh (atPlace n 0x7F800000) = atPlace n 0x3F800000 ∧
    (f = .log2 ∨ f = .rsqrt ∨ f = .sqrt → specialVal f 0xFF800000#32 = nanW)) ∧
  (∀ w, specialVal .sqrt w = fsqrt w ∨ ofFp32 w = .nan) ∧ fsqrt 0x40800000#32 = 0x40000000#32 ∧ fsqrt 0xBF800000#32 = nanW ∧
  fsqrt 0x40000000#32 = 0x3FB504F3#32

/-- O47. R64: the value of each tally over the active lanes, and the poisoned result that any poisoned input gives. -/
def Obligations.TalliesActOverTheActiveMask : Prop :=
  (∀ (act : List Nat) (v : Nat → Word) n, act = lanesOf (maskOf act) → n ∈ act →
    (tallyOf .every act v n).1 = (if ∀ x ∈ act, v x ≠ 0 then 1 else 0) ∧ (tallyOf .some_ act v n).1 = (if ∃ x ∈ act, v x ≠ 0 then 1 else 0) ∧
    (∀ j, (tallyOf .map act v n).1.getLsbD j = decide (j ∈ act ∧ v j ≠ 0)) ∧
    ((tallyOf .count act v n).1.toNat = (act.filter (fun x => v x != 0)).length) ∧
    (∀ j, (tallyOf .kin act v n).1.getLsbD j = decide (j ∈ act ∧ v j = v n)) ∧
    ((∀ x ∈ act, v x = v n) → tallyOf .same act v n = (maskOf act, true)) ∧
    ((∃ x ∈ act, v x ≠ v n) → tallyOf .same act v n = (0, false))) ∧
  (∀ s i k d f x l t g, Issues s i (d :: f :: (srcRegs x).take 1) l t g → d < 256 → f < 256 → d ≠ f → g.stepping = false →
    ∃ u g', exec (.tally i k d f x) s = .next u ∧ grpOf u i.core i.slot = some g' ∧ OnlyIn [.krn] s u ∧
      ∀ n ∈ actives g, regVal i.core g' n d = (tallyOf k (actives g) (fun y => (srcVal i.core g y x).1) n).1 ∧
        regPois g' n d = (actives g).any (fun y => (srcVal i.core g y x).2) ∧
        (k = .same → regVal i.core g' n f = flagW (tallyOf k (actives g) (fun y => (srcVal i.core g y x).1) n).2))

/-- O48. R63: the source lane of each exchange, the value and XF that an active thread receives, and where poison
comes through. -/
def Obligations.LaneExchangesTakeTheirSourceLane : Prop :=
  (∀ i sel span, span = 2 ∨ span = 4 ∨ span = 8 ∨ span = 16 ∨ span = 32 → i < 32 → ∀ sg, sg = i - i % span →
    xlnLane .at_ i sel span = some (sg + sel % span) ∧
    xlnLane .below i sel span = (if sel ≤ i - sg then some (i - sel) else none) ∧
    xlnLane .above i sel span = (if i + sel < sg + span then some (i + sel) else none) ∧
    xlnLane .flip i sel span = some (i ^^^ (sel % span)) ∧ (i ^^^ (sel % span)) / span = i / span) ∧
  (∀ s i k d f x y z span l t g, Issues s i (d :: f :: [x, y, z].flatMap (fun q => (srcRegs q).take 1)) l t g →
    (span ≠ 2 → span ≠ 4 → span ≠ 8 → span ≠ 16 → span ≠ 32 →
      exec (.xln i k d f x y z span) s = .next (keepKrn s (raise s i.core i.slot 1))) ∧
    (span = 2 ∨ span = 4 ∨ span = 8 ∨ span = 16 ∨ span = 32 → d < 256 → f < 256 → d ≠ f → g.stepping = false →
      ∃ u g', exec (.xln i k d f x y z span) s = .next u ∧ grpOf u i.core i.slot = some g' ∧ OnlyIn [.krn] s u ∧
        ∀ n ∈ actives g, ∀ q, q = srcVal i.core g n y →
          (∀ j, xlnLane k n q.1.toNat span = some j → g.active.getLsbD j = true →
            regVal i.core g' n d = (srcVal i.core g j x).1 ∧ regVal i.core g' n f = 1 ∧
            regPois g' n d = ((srcVal i.core g j x).2 || q.2)) ∧
          ((∀ j, xlnLane k n q.1.toNat span = some j → g.active.getLsbD j = false) →
            regVal i.core g' n d = (srcVal i.core g n z).1 ∧ regVal i.core g' n f = 0 ∧
            regPois g' n d = ((srcVal i.core g n z).2 || q.2))))

/-- O49. R62, R71, R73, R88, R217, R487: where a lane's access goes or traps, and what loads, stores and atomics on
the local store of one active lane do. -/
def Obligations.LocalLoadsStoresAndAtomics : Prop :=
  (∀ s l t sp w n a p, tgtAt s l t sp w n (a, p) = .ls (t.lsBase + a) ↔
    p = false ∧ a % n = 0 ∧ sp = .local_ ∧ a + n ≤ t.lsLen) ∧
  (∀ s l t n a w, tgtAt s l t .local_ w n (a, true) = .bad 5 ∧ (a % n ≠ 0 → tgtAt s l t .local_ w n (a, false) = .bad 2) ∧
    (a % n = 0 → t.lsLen < a + n → tgtAt s l t .local_ w n (a, false) = .bad 3)) ∧
  (∀ s i a l t g n, Issues s i (pairRegs a.space a.addr ++ (List.range (cdiv a.width 4)).map (· + a.data)) l t g → fenced s i g = false →
    actives g = [n] → a.space = .local_ →
    (∀ c, tgtAt s l t .local_ a.store a.width (laneAddr i.core g .local_ n a.addr a.off) = .bad c →
      ∃ u, exec (.loadStore i a) s = .next u ∧ u = keepKrn s (raise (updGrp s i.core i.slot (fun g => { g with fencing := false })) i.core i.slot c)) ∧
    (∀ y, tgtAt s l t .local_ a.store a.width (laneAddr i.core g .local_ n a.addr a.off) = .ls y → a.width = 4 → a.data < 256 →
      y % 4 = 0 → g.stepping = false →
      (a.store = false → ∃ u g', exec (.loadStore i a) s = .next u ∧ grpOf u i.core i.slot = some g' ∧
        regVal i.core g' n a.data = BitVec.ofNat 32 (unle (lsRead i.core (coreOf s i.core) y 4)) ∧
        regPois g' n a.data = lsMarked (coreOf s i.core) y 4 ∧ (coreOf u i.core).ls = (coreOf s i.core).ls ∧ OnlyIn [.krn] s u) ∧
      (a.store = true → cellsWf (lsDefault i.core (coreOf s i.core)) (coreOf s i.core).ls = true →
        ∃ u, exec (.loadStore i a) s = .next u ∧ lsRead i.core (coreOf u i.core) y 4 = le 4 (regVal i.core g n a.data).toNat ∧
          lsMarked (coreOf u i.core) y 4 = regPois g n a.data ∧
          (∀ b, b < y ∨ y + 4 ≤ b → lsByte i.core (coreOf u i.core) b = lsByte i.core (coreOf s i.core) b) ∧ OnlyIn [.krn] s u))) ∧
  (∀ s i a l t g n y op d, Issues s i (atomRegs a) l t g → fenced s i g = false → actives g = [n] → a.space = .local_ →
    a.kind = .ret op false d → d < 256 → g.stepping = false →
    tgtAt s l t .local_ true 4 (laneAddr i.core g .local_ n a.addr a.off) = .ls y →
    cellsWf (lsDefault i.core (coreOf s i.core)) (coreOf s i.core).ls = true →
    ∃ u g', exec (.atomic i a) s = .next u ∧ grpOf u i.core i.slot = some g' ∧ OnlyIn [.krn] s u ∧
      regVal i.core g' n d = BitVec.ofNat 32 (unle (lsRead i.core (coreOf s i.core) y 4)) ∧
      lsRead i.core (coreOf u i.core) y 4 = le 4 (atomVal op 32 (unle (lsRead i.core (coreOf s i.core) y 4))
        (regVal i.core g n a.src).toNat (regVal i.core g n a.cmp).toNat) ∧
      g'.spin = decide (atomVal op 32 (unle (lsRead i.core (coreOf s i.core) y 4))
        (regVal i.core g n a.src).toNat (regVal i.core g n a.cmp).toNat = unle (lsRead i.core (coreOf s i.core) y 4))) ∧
  (∀ old x c, old < 2 ^ 32 → x < 2 ^ 32 → atomVal .add 32 old x c = (old + x) % 2 ^ 32 ∧ atomVal .exch 32 old x c = x ∧
    atomVal .cas 32 old x c = (if old = c then x else old) ∧ atomVal .and 32 old x c = old &&& x)

/-- O50. R54, R56, R62, R190, R217, R275, R282: a load of memory that the L1 cannot serve sends one read for its line
and leaves its register waiting; a store leaves its bytes dirty in the L1; an atomic travels to the line's slice; each
request bears its deadline, and towards another Tent's Plot ways their role epoch; a FENCE holds them back. -/
def Obligations.MemoryAccessesGoThroughTheL1 : Prop :=
  (∀ s i a l t g, Issues s i (pairRegs a.space a.addr ++ (List.range (cdiv a.width 4)).map (· + a.data)) l t g → fenced s i g = true →
    exec (.loadStore i a) s = .next s) ∧
  (∀ s i a l t g n pa, Issues s i (pairRegs a.space a.addr ++ (List.range (cdiv a.width 4)).map (· + a.data)) l t g → fenced s i g = false →
    actives g = [n] → a.width = 4 → pa % 4 = 0 → a.data < 256 → g.stepping = false →
    tgtAt s l t a.space a.store 4 (laneAddr i.core g a.space n a.addr a.off) = .mem pa →
    (a.store = false → l1Hit (coreOf s i.core) pa 4 = none → l1Find (coreOf s i.core) (lineOf pa) = none →
      hasLimit s (portKey 0 i.core (accessCls l a.cls)) = false → ∃ u g', exec (.loadStore i a) s = .next u ∧
        u.mem.reqs = s.mem.reqs ++ [stamp s { id := s.mem.nextReq, src := .core i.core, cls := accessCls l a.cls, line := lineOf pa, act := .read, part := l.part }] ∧
        grpOf u i.core i.slot = some g' ∧ 256 * n + a.data ∈ g'.busy ∧
        (∃ o ∈ (coreOf u i.core).outst, o.id = s.mem.nextReq ∧ o.lanes = [(n, pa)] ∧ o.dst = a.data) ∧ OnlyIn [.krn, .mem, .fab] s u) ∧
    (a.store = true → regPois g n a.data = false → (coreOf s i.core).split ≤ 4 →
      ∃ u e, exec (.loadStore i a) s = .next u ∧ l1Find (coreOf u i.core) (lineOf pa) = some e ∧
        (∀ k, k < 4 → tfind e.bytes (pa % 128 + k) = some ((le 4 (regVal i.core g n a.data).toNat).getD k 0) ∧ pa % 128 + k ∈ e.dirty) ∧
        OnlyIn [.krn, .mem, .fab, .free] s u)) ∧
  (∀ s i a l t g n pa, Issues s i (atomRegs a) l t g → fenced s i g = false → atomOk a.kind = true → actives g = [n] → a.space ≠ .local_ →
    tgtAt s l t a.space true (atomBytes a.kind) (laneAddr i.core g a.space n a.addr a.off) = .mem pa →
    (atomArgs i.core g a n).2.2 = false → l1Find (coreOf s i.core) (lineOf pa) = none → hasLimit s (portKey 0 i.core (accessCls l a.cls)) = false →
    ∃ u, exec (.atomic i a) s = .next u ∧ OnlyIn [.krn, .mem, .fab] s u ∧ u.mem.reqs = s.mem.reqs ++
      [stamp s { id := s.mem.nextReq, src := .core i.core, cls := accessCls l a.cls, line := lineOf pa, part := l.part, act :=
        match a.kind with
        | .ret op w64 _ => .atom op w64 (pa % 128) (atomArgs i.core g a n).1 (atomArgs i.core g a n).2.1 false
        | .red op ty => .red op ty [(pa % 128, (atomArgs i.core g a n).1)] 0 }]) ∧
  (∀ s r, (stamp s r).deadline = (units s.tick + tgtOf s r.part r.cls) % 4096 ∧
    (∀ i, r.src = .core i → inPlot r.line = true → plotTent r.line ≠ i / 64 → (stamp s r).epoch = some (epochOf s (576 + plotTent r.line))) ∧
    (inPlot r.line = false → (stamp s r).epoch = none))

/-- O51. R71, R73, R88 to R90: the status of each trap, what a trap does to its launch or its group, FENCE and the
spin bound. -/
def Obligations.TrapsFencesAndSpin : Prop :=
  (∀ f, trapStatus 1 f = 3 ∧ trapStatus 2 f = 6 ∧ trapStatus 3 f = 6 ∧ trapStatus 4 f = 4 ∧ trapStatus 5 f = 5 ∧ trapStatus 6 f = 6 ∧
    trapStatus 7 f = 3 ∧ trapStatus 8 f = 3 ∧ trapStatus 9 f = 3 ∧ trapStatus 0xA f = 3 ∧ trapStatus 0xB f = 8 ∧ trapStatus 0xC f = 3 ∧
    trapStatus 0xD f = 8 ∧ trapStatus 0xE f = 3 ∧ trapStatus 0xF true = 2 ∧ trapStatus 0xF false = 3) ∧
  (∀ s core slot code g l, grpOf s core slot = some g → launchOf s g.launch = some l →
    (attached s l.part = true → ∃ g', grpOf (raise s core slot code) core slot = some g' ∧ g'.halt = some code ∧ g'.regs = g.regs ∧
      g'.pc = g.pc ∧ (raise s core slot code).krn.launches = s.krn.launches ∧ OnlyIn [.krn] s (raise s core slot code)) ∧
    (attached s l.part = false → l.ended = false → l.trap = none → ∃ l', launchOf (raise s core slot code) g.launch = some l' ∧ l'.ended = true ∧
      l'.status = trapStatus code false ∧ l'.trap = some (s.tick, code, core, slot) ∧ OnlyIn [.krn, .evt] s (raise s core slot code)) ∧
    (∀ t c sl, attached s l.part = false → l.ended = true → l.trap = some (t, c, core, sl) → t < s.tick →
      ∃ l', launchOf (raise s core slot code) g.launch = some l' ∧ l'.status = l.status ∧ l'.trap = l.trap)) ∧
  (∀ s i l t g, Issues s i [] l t g →
    (fenced s i g = false → exec (.fence i .core) s =
      .next (updGrp (updGrp s i.core i.slot (fun g => { g with fencing := true })) i.core i.slot (advance i.len))) ∧
    (fenced s i g = false → (coreOf s i.core).l1 = [] → ∀ c, ∃ u, exec (.fence i c) s = .next u ∧ OnlyIn [.krn] s u ∧
      (g.stepping = false → (grpOf u i.core i.slot).map (·.fencing) = some true)) ∧
    (fenced s i g = true → ∀ c, exec (.fence i c) s = .next s)) ∧
  (∀ s core slot g l, grpOf s core slot = some g → launchOf s g.launch = some l →
    (g.spin = false ∨ l.spin = 0xFFFF ∨ l.ended = true ∨ grpRuns s core slot g = false → exec (.spinTimeout core slot) s = .next s) ∧
    (g.spin = true → l.spin ≠ 0xFFFF → l.ended = false → grpRuns s core slot g = true →
      exec (.spinTimeout core slot) s = .next (keepKrn s (raise s core slot 0xB))))

/-- O52. R72, R100 to R103, R117: MMA.ISSUE and ATT.ISSUE trap on a poisoned or divided address, wait on a full queue
or a full token count, trap on a refused descriptor and otherwise hand every active thread one token; MMA.WAIT takes
its token's fate. R95, R96, R101, R106, R159: the checks of a matrix descriptor in their order, the worked decode
tile, the rate of every permitted pair, and the number of cycles and K-steps of a stream. -/
def Obligations.MatrixIssueChecksAndRates : Prop :=
  ((∀ s i dst r l t g op f, Issues s i [dst, r] l t g →
    op = exec (.mmaIssue i dst r) s ∧ f = mmaDesc i.core ∨ op = exec (.attIssue i dst r) s ∧ f = attDesc i.core →
    ((∃ x ∈ actives g, regPois g x r = true) → op = .next (keepKrn s (raise s i.core i.slot 5))) ∧
    ((∀ x ∈ actives g, regPois g x r = false) →
      ((∃ x ∈ actives g, ∃ y ∈ actives g, regVal i.core g x r ≠ regVal i.core g y r) →
        op = .next (keepKrn s (raise s i.core i.slot 7))) ∧
      (∀ a, (∀ x ∈ actives g, (regVal i.core g x r).toNat = a) →
        (8 ≤ outstanding g ∨ 16 ≤ queued (coreOf s i.core) → op = .next s) ∧
        (outstanding g < 8 → queued (coreOf s i.core) < 16 →
          (∀ x, f s l t a = .inr x → op = .next (keepKrn s (raise s i.core i.slot x.1 0 x.2))) ∧
          (∀ d e, f s l t a = .inl (d, e) → dst < 256 → ∃ u g' m, op = .next u ∧ grpOf u i.core i.slot = some g' ∧
            (coreOf u i.core).mq = (coreOf s i.core).mq ++ [m] ∧ m.desc = d ∧ m.epi = e ∧ m.tok = g.nextTok ∧ m.stage = 0 ∧
            m.slot = i.slot ∧ m.launch = l.op ∧ g'.nextTok = (if g.nextTok = 0xFFFF then 1 else g.nextTok + 1) ∧
            (∀ n ∈ actives g, regVal i.core g' n dst = BitVec.ofNat 32 g.nextTok ∧ regPois g' n dst = false) ∧ OnlyIn [.krn] s u))))) ∧
  (∀ s i r l t g k, Issues s i [r] l t g → k = (regVal i.core g ((actives g).headD 0) r).toNat % 65536 →
    (g.toks.find? (fun x => x.t == k) = none → exec (.mmaWait i r) s = .next (keepKrn s (raise s i.core i.slot 8))) ∧
    (∀ x, g.toks.find? (fun x => x.t == k) = some x →
      (x.failed ≠ 0 → exec (.mmaWait i r) s = .next (keepKrn s (raise s i.core i.slot x.failed))) ∧
      (x.failed = 0 → x.done = true →
        exec (.mmaWait i r) s = .next (updGrp (setGrp s i.core i.slot { g with spin := false }) i.core i.slot (advance i.len))) ∧
      (x.failed = 0 → x.done = false → exec (.mmaWait i r) s = .next s)))) ∧
  ((∀ e mode len d, (mmaCheck e mode len d = none →
      fld d 2 1 < 3 ∧ fld d 3 1 < 16 ∧ fld d 56 4 = 0 ∧ pairOk (dA d) (dW d) = true ∧ bit e.formats (dA d) = true ∧ bit e.formats (dW d) = true ∧
      dBank d < e.accBanks ∧ 1 ≤ dK d ∧ dK d ≤ 16777215 ∧ dK d % blkLen (dA d) = 0 ∧ dK d % blkLen (dW d) = 0 ∧ 1 ≤ dN d ∧ dN d ≤ 256 ∧
      dAaddr d % 16 = 0 ∧ dAstride d % 16 = 0 ∧ dWaddr d % (if dSrc d = 0 then 16 else 128) = 0 ∧ dWstride d % (if dSrc d = 0 then 16 else 128) = 0 ∧
      elemBytes (dW d) (dK d) ≤ dWstride d ∧ dWscStride d % 8 = 0 ∧ (dDrain d = true → dEpi d % 64 = 0) ∧
      (∀ i ∈ rowsOf (dMask d), dRoom d mode = false → dAaddr d + i * dAstride d + elemBytes (dA d) (dK d) ≤ len)) ∧
    (fld d 2 1 < 3 → fld d 3 1 < 16 → fld d 56 4 = 0 →
      (pairOk (dA d) (dW d) = false ∨ bit e.formats (dA d) = false ∨ bit e.formats (dW d) = false → mmaCheck e mode len d = some (0xF, true)) ∧
      (pairOk (dA d) (dW d) = true → bit e.formats (dA d) = true → bit e.formats (dW d) = true →
        e.accBanks ≤ dBank d → mmaCheck e mode len d = some (1, false)))) ∧
  (∀ e mode, bit e.formats 9 = true → 1 ≤ e.accBanks → mode < 2 → mmaCheck e mode 0x1D540 decodeTile = none ∧
    mmaCheck e mode 0x1D53F decodeTile = some (0xF, false)) ∧
  (∀ a w, pairOk a w = true → ∀ n : Nat → Nat, n = (fun f => if (fmD f).bits = 4 then 4 else if (fmD f).bits < 16 then 2 else 1) →
    rateOf a w = (if w = 13 then (if (fmD a).bits = 4 then 8 else 4) else Nat.min (n a) (n w))) ∧
  (∀ r k, 0 < r → (kGroups r k).length = cdiv k r ∧ suml (kGroups r k) = k ∧ ∀ x ∈ kGroups r k, x ≤ r) ∧
  (kGroups (rateOf 9 9) 6400).length = 1600)

/-- O53. R46, R47, R99, R104, R111, R112, R114, R117, R407: an operation at the head waits for its bank and for its
rail's arbiter, which its freezes tell; it starts by reading its operands; a type clash fails it, an operand that
cannot be read marks its bank; each accumulator of a fed row and active column takes the products in cycles from
CLEAR's zero or from what the bank held, and every other one keeps what it held. -/
def Obligations.MatrixOperationAccumulates : Prop :=
  (∀ s core, (∀ m, headOp (coreOf s core) = some m → m.att = true ∨ m.stage ≠ 0 ∨
      launchOf s m.launch = none) → exec (.matrixOperationStart core) s = .next s) ∧
  (∀ s core m l, headOp (coreOf s core) = some m → launchOf s m.launch = some l → m.att = false → m.stage = 0 →
    (core / 8 ∈ s.pwr.hold → exec (.matrixOperationStart core) s = .next (updMat s core m (fun x => { x with met := x.met ||| 2 }))) ∧
    (core / 8 ∉ s.pwr.hold → drainHolds (coreOf s core) m (dBank m.desc) = true →
      exec (.matrixOperationStart core) s = .next (updMat s core m (fun x => { x with met := x.met ||| 1 })))) ∧
  (∀ s core m l, headOp (coreOf s core) = some m → launchOf s m.launch = some l → m.att = false → m.stage = 0 →
    core / 8 ∉ s.pwr.hold → drainHolds (coreOf s core) m (dBank m.desc) = false →
    (∀ k, ((bankOf (coreOf s core) m (dBank m.desc)).int = dInt m.desc ∨ dClear m.desc = true) →
      (readCols s core (baseOf (coreOf s core) m) l.ctx m.desc).2 = .inr k → ∃ u, exec (.matrixOperationStart core) s = .next u ∧
        ∀ i j, (bankAcc (tget (coreOf u core).banks {} (physBank (coreOf s core) m (dBank m.desc))) i j).pois = true) ∧
    ((bankOf (coreOf s core) m (dBank m.desc)).int ≠ dInt m.desc → dClear m.desc = false →
      exec (.matrixOperationStart core) s = .next (keepMat s (matFail s core m 0xF))) ∧
    (∀ cols, ((bankOf (coreOf s core) m (dBank m.desc)).int = dInt m.desc ∨ dClear m.desc = true) → dSrc m.desc = 0 →
      (readCols s core (baseOf (coreOf s core) m) l.ctx m.desc).2 = .inl cols →
      ∃ u m', exec (.matrixOperationStart core) s = .next u ∧ headOp (coreOf u core) = some m' ∧ m'.stage = 1 ∧ m'.tok = m.tok ∧
        (coreOf u core).ls = (coreOf s core).ls ∧ OnlyIn [.krn] s u ∧
        bankOf (coreOf u core) m (dBank m.desc) = accAll m.desc (opGroups m.desc l.policy.mode ((rowsOf (dMask m.desc)).map
          (actRow core (coreOf s core) (baseOf (coreOf s core) m) l.policy.mode m.desc)))
          ((rowsOf (dMask m.desc)).map (fun i => (i, actRow core (coreOf s core) (baseOf (coreOf s core) m) l.policy.mode m.desc i))) cols
          (bankOf (coreOf s core) m (dBank m.desc)))) ∧
  (∀ d gs (rows : List (Nat × ARow)) (cols : List WCol) b, (rows.map (·.1)).Nodup → (∀ r ∈ rows, r.1 < 32) → cols.length ≤ 256 →
    (∀ i j, j < 256 → ((∀ r ∈ rows, r.1 ≠ i) ∨ cols.length ≤ j) → bankAcc (accAll d gs rows cols b) i j = bankAcc b i j) ∧
    (∀ r ∈ rows, ∀ j c, cols[j]? = some c → bankAcc (accAll d gs rows cols b) r.1 j =
      { v := dotRun (dInt d) gs (if dClear d then 0 else (bankAcc b r.1 j).v) r.2.vals c.vals
        pois := (if dClear d then false else (bankAcc b r.1 j).pois) || r.2.p || c.p })) ∧
  (∀ a ps, accRun false [ps.length] a ps = toFp32 (sumN (ofFp32 a :: ps))) ∧
  (∀ int g gs a ps, accRun int (g :: gs) a ps = accRun int gs (accStep int a (ps.take g)) (ps.drop g)) ∧
  (∀ x : Int, iadd 0x7FFFFFFF#32 x = 0x7FFFFFFF#32 ∧ iadd 0x80000000#32 x = 0x80000000#32) ∧
  (∀ (a : Word) (x : Int), a ≠ 0x7FFFFFFF#32 → a ≠ 0x80000000#32 → -2147483648 ≤ a.toInt + x → a.toInt + x ≤ 2147483647 →
    (iadd a x).toInt = a.toInt + x)

/-- O54. R104, R112, R113, R117, R129 to R132, R136, R237: the end of a stream completes the operation or hands its
bank to one of two drain places; a drain with an identity FP32 epilogue writes the fed rows and nothing else; a split
partial goes to its record; arrivals count up to the last, whose core asks its reduction unit, and a launch that has
ended makes none; a write that fails marks the bank; the unit of a cluster in service takes requests of the present
epoch, and serves its oldest. -/
def Obligations.MatrixResultsDrainArriveAndCombine : Prop :=
  (∀ s core, ((∀ m, headOp (coreOf s core) = some m → m.att = true ∨ m.stage ≠ 1) → exec (.matrixOperationEnd core) s = .next s) ∧
    (∀ m, headOp (coreOf s core) = some m → m.att = false → m.stage = 1 →
      (dDrain m.desc = true → 2 ≤ ((coreOf s core).mq.filter (fun x => x.stage == 2)).length →
        exec (.matrixOperationEnd core) s = .next (updMat s core m (fun x => { x with met := x.met ||| 1 }))) ∧
      (dDrain m.desc = true → ((coreOf s core).mq.filter (fun x => x.stage == 2)).length < 2 →
        ∃ u, exec (.matrixOperationEnd core) s = .next u ∧ OnlyIn [.krn, .free] s u ∧
          (coreOf u core).mq = (coreOf s core).mq.map (fun x => if sameOp x m then { x with stage := 2 } else x)) ∧
      (∀ rest g, dDrain m.desc = false → (coreOf s core).mq = m :: rest → (∀ x ∈ rest, sameOp x m = false ∧ x.stage ≠ 6) →
        issuer s core m = some g → ∃ u g', exec (.matrixOperationEnd core) s = .next u ∧ OnlyIn [.krn, .free] s u ∧
          (coreOf u core).mq = rest ∧ grpOf u core m.slot = some g' ∧ ∀ k ∈ g'.toks, k.t = m.tok → k.failed = 0 → k.done = true))) ∧
  (∀ s core, ((coreOf s core).mq.find? (fun m => m.stage == 2) = none → exec (.bankDrain core) s = .next s) ∧
    (combHeld s (coreOf s core) = true → exec (.bankDrain core) s = .next s) ∧
    (∀ m l c b, c = coreOf s core → b = bankOf c m (dBank m.desc) → c.mq.find? (fun m => m.stage == 2) = some m → launchOf s m.launch = some l →
      combHeld s c = false →
      (eDest m.epi = 0 → eOut m.epi = 0 → fld m.epi 3 1 = 0 → eBias m.epi = 0 → eAct m.epi = 0 → dInt m.desc = false → dN m.desc ≤ 256 →
        4 * dN m.desc ≤ eStride m.epi → cellsWf (lsDefault core c) c.ls = true →
        ∃ u, exec (.bankDrain core) s = .next u ∧ OnlyIn [.krn] s u ∧
          (∀ i ∈ rowsOf (dMask m.desc), ∀ j, j < dN m.desc →
            lsRead core (coreOf u core) (baseOf c m + eAddr m.epi + i * eStride m.epi + 4 * j) 4 = le 4 (toFp32 (ofFp32 (bankAcc b i j).v)).toNat) ∧
          (∀ a, (∀ i ∈ rowsOf (dMask m.desc), a < baseOf c m + eAddr m.epi + i * eStride m.epi ∨
              baseOf c m + eAddr m.epi + i * eStride m.epi + 4 * dN m.desc ≤ a) → lsByte core (coreOf u core) a = lsByte core c a)) ∧
      (∀ w, eDest m.epi = 2 → eCount m.epi ≠ 1 →
        putRecord s l.ctx (eScratch m.epi + 32768 * eSplit m.epi) 1024 core (rowsOf (dMask m.desc)) (fun i =>
          ((List.range (dN m.desc)).map (fun j => ((bankAcc b i j).v, (bankAcc b i j).pois))).flatMap wordBytes) = w →
        (w.2 = 0 → exec (.bankDrain core) s = .next (keepMat s (updMat w.1 core m (fun m => { m with stage := 3 })))) ∧
        (w.2 ≠ 0 → exec (.bankDrain core) s = .next (keepMat s (writeFail w.1 core m w.2)))))) ∧
  (∀ s core m code i j, code = 4 ∨ code = 6 →
    (bankAcc (tget (coreOf (writeFail s core m code) core).banks {} (physBank (coreOf s core) m (dBank m.desc))) i j).pois = true) ∧
  (∀ s core, ((coreOf s core).mq.find? (fun m => m.stage == 3) = none → exec (.splitArrival core) s = .next s) ∧
    (∀ m l v, (coreOf s core).mq.find? (fun m => m.stage == 3) = some m → launchOf s m.launch = some l → isBack m = false →
      v = vnote s l.ctx (jobWord m.epi) 8 0 core →
      (l.ended = true → exec (.splitArrival core) s = .next (keepMat s (matDone v core m))) ∧
      (l.ended = false → vpeek v l.ctx (jobWord m.epi) 8 (core / 64) = .fault →
        exec (.splitArrival core) s = .next (keepMat s (writeFail v core m 4))) ∧
      (l.ended = false → vpeek v l.ctx (jobWord m.epi) 8 (core / 64) = .bus →
        exec (.splitArrival core) s = .next (keepMat s (writeFail v core m 6)))) ∧
    (∀ m l v b n, (coreOf s core).mq.find? (fun m => m.stage == 3) = some m → launchOf s m.launch = some l → isBack m = false →
      v = vnote s l.ctx (jobWord m.epi) 8 0 core → l.ended = false →
      vpeek v l.ctx (jobWord m.epi) 8 (core / 64) = .ok b → n = fld (bytesOf b) 0 4 →
      (eCount m.epi ≤ n → exec (.splitArrival core) s = .next (keepMat s (matFail v core m 0xF))) ∧
      (∀ w, n < eCount m.epi → devPut v l.ctx (jobWord m.epi) (plainBytes (le 4 (n + 1))) 0 core = (w, 0) →
        (n + 1 = eCount m.epi → exec (.splitArrival core) s = .next (keepMat s (updMat w core m (fun m => { m with stage := 4 })))) ∧
        (n + 1 < eCount m.epi → exec (.splitArrival core) s = .next (keepMat s (matDone w core m)))))) ∧
  (∀ s core ep, ((coreOf s core).mq.find? (fun m => m.stage == 4) = none → exec (.combineRequest core ep) s = .next s) ∧
    (∀ m l k, (coreOf s core).mq.find? (fun m => m.stage == 4) = some m → launchOf s m.launch = some l → isBack m = false → k = eHome m.epi →
      (ep ≠ epochOf s (512 + k) ∨ k ∈ s.fab.cut ∨ k ∈ s.pwr.railOff →
        exec (.combineRequest core ep) s = .next (keepMat s (matFail (staleReturn s (512 + k) l.part) core m 6))) ∧
      (ep = epochOf s (512 + k) → k ∉ s.fab.cut → k ∉ s.pwr.railOff →
        32 ≤ (tget s.krn.combq [] k).length ∨ (tget s.fab.epoch {} (512 + k)).wait ≠ 0 → exec (.combineRequest core ep) s = .next s) ∧
      (ep = epochOf s (512 + k) → k ∉ s.fab.cut → k ∉ s.pwr.railOff → (tget s.fab.epoch {} (512 + k)).wait = 0 → (tget s.krn.combq [] k).length < 32 → ∃ u q, exec (.combineRequest core ep) s = .next u ∧ OnlyIn [.krn] s u ∧
        tget u.krn.combq [] k = tget s.krn.combq [] k ++ [q] ∧ q.core = core ∧ q.desc = m.desc ∧ q.epi = m.epi ∧ q.ctx = l.ctx ∧
        q.int = (!m.att && dInt m.desc) ∧ (∀ j, j ≠ k → tget u.krn.combq [] j = tget s.krn.combq [] j) ∧
        (coreOf u core).mq = (coreOf s core).mq.map (fun x => if sameOp x m then { x with stage := 5 } else x)))) ∧
  (∀ s k, (tget s.krn.combq [] k = [] → exec (.combine k) s = .next s) ∧
    (∀ q rest, tget s.krn.combq [] k = q :: rest → ∃ u, exec (.combine k) s = .next u ∧ tget u.krn.combq [] k = rest ∧
      (∀ j, j ≠ k → tget u.krn.combq [] j = tget s.krn.combq [] j) ∧ OnlyIn [.krn, .mem, .hbm, .fab, .evt, .free, .link] s u))

/-- O55. R133, R134, R360: for every combine operation, the tree over more than one record splits at the largest power
of two below their number; INT32 sums that stay in range are exact; poison of any record marks the element; the worked
element. -/
def Obligations.PartialsCombineInTheFixedTree : Prop :=
  (∀ (α : Type) (c : α → α → α) d x, tree c d [x] = x) ∧
  (∀ (α : Type) (c : α → α → α) d (l : List α) h, 2 ^ h < l.length → l.length ≤ 2 ^ (h + 1) →
    tree c d l = c (tree c d (l.take (2 ^ h))) (tree c d (l.drop (2 ^ h)))) ∧
  (∀ l : List Word, l ≠ [] → (l.foldl (fun a w => a + w.toInt.natAbs) 0) < 2 ^ 31 → (sumInt l).toInt = l.foldl (fun a w => a + w.toInt) 0) ∧
  (∀ plain a b, finiteW (fadd a b) = false → sumFp plain [a, b] = fadd a b) ∧
  (∀ a b, sumFp true [a, b] = fadd a b) ∧
  (∀ q l, (combineAt q l).2 = l.any (·.2)) ∧
  (∀ q l, (combineAt q l).1 = if q.int then sumInt (l.map (·.1)) else sumFp (ePlain q.epi) (l.map (·.1))) ∧
  (∀ l : List Word, l = [0x3F800000#32, 0x33800000#32, 0x33800000#32, 0xBF800000#32, 0#32, 0#32] →
    sumFp true l = 0x33800000#32 ∧ sumFp false l = 0x34000000#32)

/-- O56. R146, R152 to R154, R161: one tally update adds a tile's counts with saturation, fires the triggers in exact
arithmetic and takes the guard from WATCHING to NOTED or PROMOTED once; a core takes the promotion only of a promoted
launch that it serves, and the operation then at its queue's head runs as issued. -/
def Obligations.GuardTalliesAndPromotes : Prop :=
  (∀ s op, launchOf s op = none ∨ (∃ l, launchOf s op = some l ∧ l.guard.queue = []) → exec (.tallyUpdate op) s = .next s) ∧
  (∀ s op l c rest t, launchOf s op = some l → l.guard.queue = c :: rest → t = tallyAdd l.guard.c c →
    ∃ u l', exec (.tallyUpdate op) s = .next u ∧ launchOf u op = some l' ∧ l'.guard.queue = rest ∧ l'.guard.c = t ∧
      l'.guard.clipTrig = (l.guard.clipTrig || clipFires l.policy t) ∧ l'.guard.shadTrig = (l.guard.shadTrig || c.fires) ∧
      l'.guard.saturated = (l.guard.saturated || tallySat l.guard.c c) ∧ l'.status = l.status ∧ l'.policy = l.policy ∧
      l'.guard.st = (if l.guard.st = 1 ∧ (clipFires l.policy t = true ∨ c.fires = true) then (if l.policy.mode = 2 then 3 else 2) else l.guard.st) ∧
      (l.guard.st ≠ 1 → l'.guard.ticks = l.guard.ticks) ∧ OnlyIn [.krn, .evt] s u) ∧
  (∀ a b : Counts, (tallyAdd a b).actElems = Nat.min (a.actElems + b.actElems) (2 ^ 64 - 1) ∧
    (tallyAdd a b).actClip = Nat.min (a.actClip + b.actClip) (2 ^ 32 - 1) ∧ (tallyAdd a b).actFlush = Nat.min (a.actFlush + b.actFlush) (2 ^ 32 - 1) ∧
    (tallyAdd a b).othClip = Nat.min (a.othClip + b.othClip) (2 ^ 32 - 1) ∧ (tallyAdd a b).othFlush = Nat.min (a.othFlush + b.othFlush) (2 ^ 32 - 1) ∧
    (tallyAdd a b).nonfinite = Nat.min (a.nonfinite + b.nonfinite) (2 ^ 16 - 1) ∧ (tallyAdd a b).weight = Nat.min (a.weight + b.weight) (2 ^ 32 - 1) ∧
    (tallyAdd a b).shadow = Nat.min (a.shadow + b.shadow) (2 ^ 16 - 1) ∧
    (tallyAdd a b).shadowOver = Nat.min (a.shadowOver + b.shadowOver) (2 ^ 16 - 1)) ∧
  (∀ p c, clipFires p c = true ↔ p.clipShift ≠ 0 ∧ 2 ^ p.minShift ≤ c.actElems ∧ c.actElems < c.actClip * 2 ^ p.clipShift) ∧
  (∀ p : Policy, p.clipShift = 7 → p.minShift = 16 → clipFires p { actElems := 1021952, actClip := 8012 } = true ∧
    clipFires p { actElems := 1017856, actClip := 7916 } = false) ∧
  (∀ s op core, ((∀ l, launchOf s op = some l → l.guard.st ≠ 3 ∨ core ∉ l.cores) → exec (.promotionReceipt op core) s = .next s) ∧
    (∀ l, launchOf s op = some l → l.guard.st = 3 → core ∈ l.cores → ∃ u l', exec (.promotionReceipt op core) s = .next u ∧
      launchOf u op = some l' ∧ core ∈ l'.guard.got ∧
      (∀ m, headOp (coreOf s core) = some m → m.launch = op → core ∉ l.guard.got →
        ∃ m', headOp (coreOf u core) = some m' ∧ m'.tok = m.tok ∧ m'.asIssued = true) ∧ (∀ k, k ≠ core → (k ∈ l'.guard.got ↔ k ∈ l.guard.got)) ∧ l'.guard.c = l.guard.c ∧
      OnlyIn [.krn] s u))

/-- O57. R140 to R142: the sorter keeps every key with its payload, in stable order; a bucket holds the keys between
its boundaries; automatic boundaries are powers of two; the worked lengths; a request at the head of its core's queue
writes the sorted keys and payloads, and a poisoned key fails it. -/
def Obligations.LengthSorterSortsAndBuckets : Prop :=
  (∀ f desc (ks : List Nat), f ≤ 2 → (sortKeys f desc ks).Perm ks.zipIdx ∧
    (sortKeys f desc ks).Pairwise (fun x y => keyLt f desc x.1 y.1 = true ∨ keyLt f desc y.1 x.1 = false ∧ x.2 < y.2)) ∧
  (∀ (bs : List Nat) x m, rising bs = true → m ≤ bs.length →
    (bucketOf bs x = m ↔ (m = 0 ∨ bs.getD (m - 1) 0 ≤ x) ∧ (m = bs.length ∨ x < bs.getD m 0))) ∧
  (∀ (ks : List Nat) z n m, ks ≠ [] → (∃ k ∈ ks, 2 ^ z ≤ Nat.max k 1 ∧ Nat.max k 1 < 2 ^ (z + 1)) → (∀ k ∈ ks, 2 ^ z ≤ Nat.max k 1) → m + 1 < n →
    (autoBounds ks n).getD m 0 = 2 ^ (z + m + 1)) ∧
  (∀ ks : List Nat, ks = [37, 512, 300, 37, 129] → autoBounds ks 4 = [64, 128, 256] ∧
    (List.range 16).map (bucketCount (autoBounds ks 4) ks 4) = [2, 0, 1, 2, 0, 0, 0, 0, 0, 0, 0, 0, 0, 0, 0, 0] ∧
    (sortKeys 0 false ks).map (·.2) = [0, 3, 4, 2, 1]) ∧
  (∀ s core, attHead s core 2 = none → exec (.sortRequest core) s = .next s) ∧
  (∀ s core m c b n, attHead s core 2 = some m → c = coreOf s core → b = baseOf c m → n = fld m.desc 4 4 →
    ((∃ k, k < n ∧ lsMarked c (b + fld m.desc 8 4 + 4 * k) 4 = true) → exec (.sortRequest core) s = .next (keepMat s (matFail s core m 5))) ∧
    (∀ ks, (∀ k, k < n → lsMarked c (b + fld m.desc 8 4 + 4 * k) 4 = false) → bits (fld m.desc 2 1) 1 2 = 0 →
      cellsWf (lsDefault core c) c.ls = true →
      (fld m.desc 16 4 + 4 * n ≤ fld m.desc 20 4 ∨ fld m.desc 20 4 + 4 * n ≤ fld m.desc 16 4) →
      ks = (List.range n).map (fun k => unle (lsRead core c (b + fld m.desc 8 4 + 4 * k) 4)) →
      ∃ u, exec (.sortRequest core) s = .next u ∧ OnlyIn [.krn] s u ∧
        ∀ k, k < n → ∀ x, (sortKeys (fld m.desc 1 1) (bit (fld m.desc 2 1) 0) ks)[k]? = some x →
          lsRead core (coreOf u core) (b + fld m.desc 16 4 + 4 * k) 4 = le 4 x.1 ∧
          lsRead core (coreOf u core) (b + fld m.desc 20 4 + 4 * k) 4 = lsRead core c (b + fld m.desc 12 4 + 4 * x.2) 4))

/-- O58. R166, R171 to R174, R176, R181: which keys a row sees; a block of keys that a row does not see leaves its
maximum, its sum and its accumulators as they are; an operation over no keys writes zeros and sets every row's flag,
and clears its banks. R183 to R187: a backward operation takes its next query tile while any is left: bank 3 takes
dPᵀ, bank 2 Sᵀ and then the dQ partial, banks 0 and 1 dV and dK; a read that fails fails it and marks its four banks;
its last step waits for its own combines and then writes dK and dV; a key that a row does not see carries it neither
weight nor poison. -/
def Obligations.AttentionSeesOnlyVisibleKeys : Prop :=
  ((∀ d len q k, visible d len q k = true ↔ k < len ∧ (bit (aMask d) 2 = true ∧ q < aPrefix d ∧ k < aPrefix d ∨
    (bit (aMask d) 0 = true → k ≤ q) ∧ (bit (aMask d) 1 = true → q < k + aWindow d ∧ k < q + aWindow d))) ∧
  (∀ d len b ks vs (r : RowSt), (∀ k, visible d len r.pos (128 * b + k) = false) → ofFp32 r.m ≠ .nan → toFp32 (ofFp32 r.l) = r.l →
    r.l ≠ 0x80000000#32 → attBlock d len b ks vs r = r) ∧
  (∀ s core, attReady s core 1 3 = none → exec (.attentionForward core) s = .next s) ∧
  (∀ s core m l t d, attReady s core 1 3 = some (m, l, t) → d = m.desc → aBatch d = false → aKvLen d = 0 → saveLse d = false → backRows d ≤ 32 →
    headDim d * elB (oFmt d) ≤ aOutStride d →
    (∀ i, i < backRows d → aFlag d + 4 ≤ aOut d + i * aOutStride d ∨ aOut d + i * aOutStride d + headDim d * elB (oFmt d) ≤ aFlag d) →
    cellsWf (lsDefault core (coreOf s core)) (coreOf s core).ls = true →
    ∃ u, exec (.attentionForward core) s = .next u ∧ OnlyIn [.krn, .free] s u ∧
      lsRead core (coreOf u core) (t.lsBase + aFlag d) 4 = le 4 (2 ^ backRows d - 1) ∧
      (∀ i k, i < backRows d → k < headDim d * elB (oFmt d) → lsByte core (coreOf u core) (t.lsBase + aOut d + i * aOutStride d + k) = 0) ∧
      (∀ k j n, k < 3 → bankAcc (tget (coreOf u core).banks {} (physBank (coreOf s core) m (aBank d + k))) j n = { v := 0, pois := false }))) ∧
  ((∀ s core, attReady s core 3 4 = none → exec (.attentionBackward core) s = .next s) ∧
  (∀ s core m l t v, attReady s core 3 4 = some (m, l, t) → m.tile < fld m.desc 172 2 → v = backNote (frzDraw s core true true true) core l.ctx m.desc m.tile →
    (∀ x, backIn s core l.ctx m.desc m.tile = .inr x → exec (.attentionBackward core) s = .next (keepMat s (banksFail v core m 4 x))) ∧
    (∀ b x, backIn s core l.ctx m.desc m.tile = .inl b → sliceKeys s core l.ctx m.desc false = .inr x →
      exec (.attentionBackward core) s = .next (keepMat s (banksFail v core m 4 x))) ∧
    (∀ b ks vs o w, backIn s core l.ctx m.desc m.tile = .inl b → sliceKeys s core l.ctx m.desc false = .inl ks →
      sliceKeys s core l.ctx m.desc true = .inl vs → m.tile = 0 → eCount (tileEpi m) ≠ 1 →
      o = backTile m.desc 0 b ks vs (fun _ _ => (0, false)) (fun _ _ => (0, false)) →
      putRecord (putRows (putRows (putRows (putRows (putRows v core m 3 o.dP) core m 2 o.sT) core m 1 o.dV) core m 0 o.dK) core m 2 o.q) l.ctx
        (eScratch (tileEpi m) + 32768 * eSplit (tileEpi m)) 1024 core (List.range (backRows m.desc))
        (fun i => ((List.range (headDim m.desc)).map (fun k => (o.dQ.getD i []).getD k (0, false))).flatMap wordBytes) = (w, 0) →
      exec (.attentionBackward core) s = .next (keepMat s (updMat w core m (fun m => { m with stage := 3 }))))) ∧
  (∀ s core m l t, attReady s core 3 4 = some (m, l, t) → fld m.desc 172 2 ≤ m.tile →
    ((∃ q ∈ s.krn.combq, ∃ x ∈ q.2, x.core = core ∧ x.launch = m.launch ∧ x.set = m.set ∧ x.slot = m.slot ∧ x.tok = m.tok) →
      exec (.attentionBackward core) s = .next s) ∧
    ((∀ q ∈ s.krn.combq, ∀ x ∈ q.2, x.core ≠ core ∨ x.launch ≠ m.launch ∨ x.set ≠ m.set ∨ x.slot ≠ m.slot ∨ x.tok ≠ m.tok) →
      translate s l.ctx (fld m.desc 160 8) true = .fault →
      ∃ u, exec (.attentionBackward core) s = .next (keepMat s (banksFail u core m 4 4)) ∧ OnlyIn [.krn, .evt, .mem] s u)) ∧
  (∀ d j (b : BackIn) sT k i, visible d (aKvLen d) (rowPos d (aQpos d + j * aTok d) i) (32 * fld d 174 2 + k) = false →
    backP d j b sT k i = (0, false)) ∧
  (∀ s core m n code k, k < n → ∃ u, banksFail s core m n code = matFail u core m code ∧ OnlyIn [.krn] s u ∧
    tget (coreOf u core).banks {} (physBank (coreOf s core) m (aBank m.desc + k)) = poisonBank (bankOf (coreOf s core) m (aBank m.desc + k))) ∧
  (∀ a i k, (bankAcc (poisonBank a) i k).pois = true))

/-- O59. R197 to R199, R209 to R216, R281 to R283, R392: a range operation, a dead range, a Plot mapping and a COPY of
a sealed container that no check stops end with their effect, and a role epoch rises by one. -/
def Obligations.RangePlotAndSealedCommandsComplete : Prop :=
  (∀ s id o, opOf s id = some o → o.stage = 0 →
    (o.code = 0x10 → rngBad s o true = none → ∃ u, exec (.prefetch id) s = .next (keepWork s (finish u id 0)) ∧
      (memQuiet s → u.mem.dead = s.mem.dead ∧ u.mem.lines = s.mem.lines ∧ u.mem.hbm = s.mem.hbm ∧ u.mem.plot = s.mem.plot)) ∧
    (o.code = 0x11 → rngBad s o false = none →
      exec (.flush id) s = .next (keepWork s (finish (flushPages s o false).1 id (flushPages s o false).2))) ∧
    (o.code = 0x12 → rngBad s o false = none →
      exec (.invalidate id) s = .next (keepWork s (finish (flushPages s o true).1 id (flushPages s o true).2)))) ∧
  (∀ s id o, opOf s id = some o → o.code = 0x13 → o.stage = 0 → rngBad s o true = none → rngFaults s o = false →
    (bit (o.f 32 4) 0 = false → deadPage s o = none → (installRuns s (rngRuns s o)).isSome = true →
      exec (.declareDead id) s = .next (keepWork s (finish ((installRuns ((rngRuns s o).foldl dropRun s) (rngRuns s o)).getD ((rngRuns s o).foldl dropRun s)) id 0))) ∧
    (bit (o.f 32 4) 0 = true → (∀ x ∈ rngLeads s o, ∀ a, x.2.2 ≠ .foreign a) →
      exec (.declareDeadRetire id) s = .next (keepWork s (finish ((rngRuns s o).foldl (fun s r => trimDead s r.1 r.2 false) s) id 0)))) ∧
  (∀ s id o, opOf s id = some o → o.stage = 0 → mapBad s o = none →
    (o.code = 0x14 → (∀ x ∈ mapSlots s o, isSlot x.1 = true ∧ bit (entryAtSlot s (opPart s o) x.1) 0 = false) →
      ∀ u, u = putLeaves s (opPart s o) (mapSlots s o) (fun a _ => a + 3 + (if bit (o.f 27 1) 1 then 0 else 4)) →
        exec (.plotMap id) s = .next (keepWork s (finish { u with mem := { u.mem with maps := u.mem.maps ++ mapWays u o } } id 0))) ∧
    (o.code = 0x15 → (∀ x ∈ mapSlots s o, isSlot x.1 = true ∧ entryAtSlot s (opPart s o) x.1 % 4 = 3 ∧
        bit (entryAtSlot s (opPart s o) x.1) 3 = false ∧ entryAddr (entryAtSlot s (opPart s o) x.1) = x.2) →
      ∀ left gone u, left = (mapWays s o).foldl (fun m w => m.erase w) s.mem.maps →
        gone = (mapWays s o).any (fun w => s.mem.maps.contains w && !left.any (fun m => m.2.2 == w.2.2)) →
        (gone = true → bumpSoon s (576 + o.f 24 1) = false) →
        u = drainKind (putLeaves s (opPart s o) (mapSlots s o) (fun _ e => e - 1))
          (fun r => inPlot r.line && plotTent r.line == o.f 24 1) →
        exec (.plotUnmap id) s = .next (keepWork s (finish (if gone then bumpEpoch { u with mem := { u.mem with maps := left } } (576 + o.f 24 1)
          else { u with mem := { u.mem with maps := left } }) id 0)))) ∧
  (∀ s u, bumpSoon s (unitKey u) = false → ∃ t, exec (.roleEpochIncrement u) s = .next t ∧
    epochOf t (unitKey u) = (epochOf s (unitKey u) + 1) % 256 ∧ OnlyIn [.fab] s t) ∧
  (∀ s id o src, opOf s id = some o → o.code = 0x08 → o.stage = 0 →
    (∀ h u v w b len span out, bit (o.f 40 4) 2 = true → chainFields o true true false = true → chainPhys o = false → o.f 16 8 % 128 = 0 →
      o.f 24 8 % 128 = 0 → 64 ≤ o.f 32 8 → o.f 32 8 ≤ 2 ^ 40 → meetsRegs s o (o.f 24 8) (o.f 32 8) = false →
      engineFull s o = false → hostHeld s o [(o.f 24 8, o.f 32 8)] = false → h = hostSrc s o [(o.f 24 8, o.f 32 8)] src →
      chainBytes h.1 o (o.f 24 8) 64 h.2 = (u, v, .inr b) → anyPois b = false → fld (bytesOf b) 0 4 = 0x31575356 → len = fld (bytesOf b) 8 8 →
      o.f 32 8 = 64 + len + 16 * ((len + 65535) / 65536) → span = (len + 127) / 128 * 128 → meetsRegs u o (o.f 16 8) span = false →
      overlapping (o.f 16 8) span (o.f 24 8) (o.f 32 8) = false → sealLoop (sealChunks len) u o (bytesOf b) v len 0 [] = (w, 0, out) →
      exec (.copySealed id src) s = .next (keepWork s (ready w id 0 0 len (Config.shake256 out)))))

/-- O60. R355, R359 to R365, R368: a Span message that passes its judgement acts on the operation it belongs to:
control messages are noted, DATA is written at its offset, a NACK asks for a repeat or fails the operation, an ABORT
fails it. -/
def Obligations.SpanMessagesActOnTheirOperations : Prop :=
  (∀ s (i : SpanIn) o ty cmd, ∀ ok : SpanOp → Bool, ∀ eff : State → State, Judged s i → i.msg.type = ty →
    (ty, cmd, ok, eff) ∈ ([
      (2, .spanReady i, fun o => o.kind ≤ 3, fun u => updSp u o.op (fun o => { o with ready := sadd o.ready i.msg.rank })),
      (4, .spanClear i, fun o => o.kind == 4 && o.agreed.isNone, fun u => updSp u o.op (fun o => { o with agreed := some o.count })),
      (5, .spanDone i, fun o => o.kind ≤ 3 || (o.kind == 4 && o.agreed.isSome && !o.done.contains o.peer),
        fun u => updSp u o.op (fun o => { o with done := sadd o.done i.msg.rank })),
      (6, .spanCounts i, fun o => o.kind == 3, fun u => takeRow u o i.msg.rank i.msg.payload),
      (7, .spanGo i, fun o => o.kind == 3, fun u => updSp u o.op (fun o => { o with go := sadd o.go i.msg.rank })),
      (8, .spanAbort i, fun _ => true, fun u => failSpan u o.op i.msg.info i.msg.rank)] :
        List (Nat × Instr × (SpanOp → Bool) × (State → State))) →
    msgOp s (portPart s i.port) i.msg (fun o => o.running && ok o) = some o →
    exec cmd s = .next (keepSpan s (pump (eff (noteUsed (counted s i) (some o.op) i.port))))) ∧
  (∀ s (i : SpanIn) o u, Judged s i → i.msg.type = 1 →
    msgOp s (portPart s i.port) i.msg (fun o => o.running &&
      (o.kind ≤ 3 || (o.kind == 5 && o.agreed.isSome && tget o.got 0 i.msg.rank < o.agreed.getD 0))) = some o →
    u = noteUsed (latFree (counted s i) 4 i.port (spanCls o) i.msg.payload.length) (some o.op) i.port →
    (i.msg.poison ≠ 0 → busMode s (portPart s i.port) = true →
      exec (.spanData i) s = .next (keepSpan s (pump (failSpan u o.op 6 o.grp.rank)))) ∧
    (∀ a k, i.msg.poison = 0 ∨ busMode s (portPart s i.port) = false →
      (a, k) = (if 1 < o.kind then (o.dst + 128 * i.msg.offset, i.msg.rank)
        else if i.msg.offset < ranksN o * recU o then (o.grp.scratch + 128 * i.msg.offset, i.msg.rank)
        else (o.dst + 128 * (i.msg.offset - ranksN o * recU o), 256 + i.msg.rank)) →
      exec (.spanData i) s = .next (keepSpan s (pump (spanWrite
        (updSp u o.op (fun o => { o with got := tupd o.got 0 k (· + i.msg.payload.length) })) o a
        (i.msg.payload.zipIdx.map (fun x => (x.1, bit i.msg.poison (x.2 / 64)))) 4 i.port))))) ∧
  (∀ s (i : SpanIn) o r, Judged s i → i.msg.type = 9 →
    s.span.ops.find? (fun o => o.running && o.part == portPart s i.port && o.grp.id == i.msg.group && o.seq == i.msg.seq) = some o →
    r = ((others o).filter (fun r => rankAddr o.grp r == i.msg.src)).headD o.grp.rank →
    exec (.spanNack i) s = .next (keepSpan s (pump (if i.msg.info = 4
      then updSp (counted s i) o.op (fun o => { o with retry := sadd o.retry r })
      else failSpan (counted s i) o.op (if i.msg.info = 1 then 7 else 6) r))))
end

