-- ==== Sys2Proof/Laws/Bytes.lean ====
section
/-! SUPPORT. Laws of little-endian bytes: what a field written into a string of bytes reads as. -/
namespace Sys2Proof.Machine

@[simp] theorem le_length (n x : Nat) : (le n x).length = n := by simp [le]
@[simp] theorem zeros_length (n : Nat) : (zeros n).length = n := by simp [zeros]
@[simp] theorem pad_length (b : Bytes) (n : Nat) : (pad b n).length = n := by simp [pad]; omega

theorem le_succ (n x : Nat) : le (n + 1) x = BitVec.ofNat 8 x :: le n (x / 256) := by
  simp only [le, List.range_succ_eq_map, List.map_cons, List.map_map, Nat.pow_zero, Nat.div_one]
  congr 1
  apply List.map_congr_left
  intro i _
  simp [Nat.pow_succ, Nat.div_div_eq_div_mul, Nat.mul_comm]

/-- A number written little-endian in `n` bytes reads back reduced to `n` bytes. -/
@[simp] theorem unle_le (n x : Nat) : unle (le n x) = x % 256 ^ n := by
  induction n generalizing x with
  | zero => simp [le, unle, Nat.mod_one]
  | succ n ih =>
    have h : unle (le (n + 1) x) = (BitVec.ofNat 8 x).toNat + 256 * unle (le n (x / 256)) := by rw [le_succ]; rfl
    rw [h, ih, BitVec.toNat_ofNat, show 256 ^ (n + 1) = 256 * 256 ^ n by rw [Nat.pow_succ, Nat.mul_comm], Nat.mod_mul]

/-- A slice that lies within the bytes is what stands there. -/
theorem slice_mid (a b c : Bytes) : slice (a ++ (b ++ c)) a.length b.length = b := by simp [slice]

/-- A field written between other bytes reads back. -/
theorem fld_mid (a c : Bytes) (n x : Nat) (k : Nat) (hk : a.length = k) : fld (a ++ (le n x ++ c)) k n = x % 256 ^ n := by
  have h := slice_mid a (le n x) c
  rw [le_length, hk] at h
  rw [fld, h, unle_le]

end Sys2Proof.Machine
end

