-- ==== Sys2Proof/Laws/Frame.lean ====
section
/-! SUPPORT. What each shared operation may change: one lemma per operation, in the form that a chain of
operations passes through (`OnlyIn ps s (op t …)` follows from `OnlyIn ps s t` when `ps` lists the parts of `op`). -/
namespace Sys2Proof.Laws
open Sys2Proof.Machine Sys2Proof.Safety

theorem onlyIn_refl (ps : List Part) (s : State) : OnlyIn ps s s :=
  ⟨rfl, fun p _ => by cases p <;> rfl⟩

theorem onlyIn_trans {ps : List Part} {s t u : State} (h : OnlyIn ps s t) (g : OnlyIn ps t u) : OnlyIn ps s u :=
  ⟨g.1.trans h.1, fun p hp => by
    have a := h.2 p hp
    have b := g.2 p hp
    cases p <;> simp only [Part.same] at a b ⊢ <;> exact b.trans a⟩

theorem onlyIn_mono {ps qs : List Part} {s t : State} (h : OnlyIn ps s t) (hs : ∀ p ∈ ps, p ∈ qs) : OnlyIn qs s t :=
  ⟨h.1, fun p hp => h.2 p (fun hm => hp (hs p hm))⟩

/-- The frame written out. -/
theorem onlyIn_iff {ps : List Part} {s t : State} : OnlyIn ps s t ↔
    t.pending = s.pending ∧ (.tick ∈ ps ∨ t.tick = s.tick) ∧ (.free ∈ ps ∨ t.free = s.free) ∧ (.dev ∈ ps ∨ t.dev = s.dev) ∧
    (.boot ∈ ps ∨ t.boot = s.boot) ∧ (.trust ∈ ps ∨ t.trust = s.trust) ∧ (.regs ∈ ps ∨ t.regs = s.regs) ∧
    (.link ∈ ps ∨ t.link = s.link) ∧ (.pwr ∈ ps ∨ t.pwr = s.pwr) ∧ (.thm ∈ ps ∨ t.thm = s.thm) ∧
    (.evt ∈ ps ∨ t.evt = s.evt) ∧ (.mgt ∈ ps ∨ t.mgt = s.mgt) ∧ (.gly ∈ ps ∨ t.gly = s.gly) ∧
    (.span ∈ ps ∨ t.span = s.span) ∧ (.rng ∈ ps ∨ t.rng = s.rng) ∧ (.krn ∈ ps ∨ t.krn = s.krn) ∧
    (.mem ∈ ps ∨ t.mem = s.mem) ∧ (.hbm ∈ ps ∨ t.hbm = s.hbm) ∧ (.fab ∈ ps ∨ t.fab = s.fab) ∧
    (.dbg ∈ ps ∨ t.dbg = s.dbg) ∧ (.down ∈ ps ∨ t.down = s.down) := by
  constructor
  · intro h
    refine ⟨h.1, ?_⟩
    repeat' apply And.intro
    all_goals exact (Classical.em _).imp id (h.2 _)
  · intro h
    refine ⟨h.1, fun p hp => ?_⟩
    cases p <;> simp only [Part.same] <;> simp_all

/-- A fold of steps that keep a frame keeps it. -/
theorem onlyIn_foldl {α : Type} {ps : List Part} (f : State → α → State) (h : ∀ s x, OnlyIn ps s (f s x)) :
    ∀ (l : List α) (s : State), OnlyIn ps s (l.foldl f s)
  | [], s => onlyIn_refl ps s
  | x :: l, s => onlyIn_trans (h s x) (onlyIn_foldl f h l (f s x))

/-- The same for a fold that carries a second value. -/
theorem onlyIn_foldl_fst {α β : Type} {ps : List Part} (f : State × β → α → State × β)
    (h : ∀ a x, OnlyIn ps a.1 (f a x).1) : ∀ (l : List α) (a : State × β), OnlyIn ps a.1 (l.foldl f a).1
  | [], a => onlyIn_refl ps a.1
  | x :: l, a => onlyIn_trans (h a x) (onlyIn_foldl_fst f h l (f a x))

/-- A step that keeps a smaller frame may stand at the end of a chain. -/
theorem onlyIn_then {ps qs : List Part} {s t u : State} (g : OnlyIn qs t u) (hs : ∀ p ∈ qs, p ∈ ps) (h : OnlyIn ps s t) :
    OnlyIn ps s u :=
  onlyIn_trans h (onlyIn_mono g hs)

/-! One part written at the end of a chain. -/
theorem onlyIn_tick {ps : List Part} {s t : State} {x : _} (h : OnlyIn ps s t) (hp : .tick ∈ ps) :
    OnlyIn ps s { t with tick := x } := by
  have k := onlyIn_iff.1 h
  exact onlyIn_iff.2 (by simp only [hp, true_or] at k ⊢; exact k)
theorem onlyIn_free {ps : List Part} {s t : State} {x : _} (h : OnlyIn ps s t) (hp : .free ∈ ps) :
    OnlyIn ps s { t with free := x } := by
  have k := onlyIn_iff.1 h
  exact onlyIn_iff.2 (by simp only [hp, true_or] at k ⊢; exact k)
theorem onlyIn_dev {ps : List Part} {s t : State} {x : _} (h : OnlyIn ps s t) (hp : .dev ∈ ps) :
    OnlyIn ps s { t with dev := x } := by
  have k := onlyIn_iff.1 h
  exact onlyIn_iff.2 (by simp only [hp, true_or] at k ⊢; exact k)
theorem onlyIn_boot {ps : List Part} {s t : State} {x : _} (h : OnlyIn ps s t) (hp : .boot ∈ ps) :
    OnlyIn ps s { t with boot := x } := by
  have k := onlyIn_iff.1 h
  exact onlyIn_iff.2 (by simp only [hp, true_or] at k ⊢; exact k)
theorem onlyIn_trust {ps : List Part} {s t : State} {x : _} (h : OnlyIn ps s t) (hp : .trust ∈ ps) :
    OnlyIn ps s { t with trust := x } := by
  have k := onlyIn_iff.1 h
  exact onlyIn_iff.2 (by simp only [hp, true_or] at k ⊢; exact k)
theorem onlyIn_regs {ps : List Part} {s t : State} {x : _} (h : OnlyIn ps s t) (hp : .regs ∈ ps) :
    OnlyIn ps s { t with regs := x } := by
  have k := onlyIn_iff.1 h
  exact onlyIn_iff.2 (by simp only [hp, true_or] at k ⊢; exact k)
theorem onlyIn_link {ps : List Part} {s t : State} {x : _} (h : OnlyIn ps s t) (hp : .link ∈ ps) :
    OnlyIn ps s { t with link := x } := by
  have k := onlyIn_iff.1 h
  exact onlyIn_iff.2 (by simp only [hp, true_or] at k ⊢; exact k)
theorem onlyIn_pwr {ps : List Part} {s t : State} {x : _} (h : OnlyIn ps s t) (hp : .pwr ∈ ps) :
    OnlyIn ps s { t with pwr := x } := by
  have k := onlyIn_iff.1 h
  exact onlyIn_iff.2 (by simp only [hp, true_or] at k ⊢; exact k)
theorem onlyIn_thm {ps : List Part} {s t : State} {x : _} (h : OnlyIn ps s t) (hp : .thm ∈ ps) :
    OnlyIn ps s { t with thm := x } := by
  have k := onlyIn_iff.1 h
  exact onlyIn_iff.2 (by simp only [hp, true_or] at k ⊢; exact k)
theorem onlyIn_evt {ps : List Part} {s t : State} {x : _} (h : OnlyIn ps s t) (hp : .evt ∈ ps) :
    OnlyIn ps s { t with evt := x } := by
  have k := onlyIn_iff.1 h
  exact onlyIn_iff.2 (by simp only [hp, true_or] at k ⊢; exact k)
theorem onlyIn_mgt {ps : List Part} {s t : State} {x : _} (h : OnlyIn ps s t) (hp : .mgt ∈ ps) :
    OnlyIn ps s { t with mgt := x } := by
  have k := onlyIn_iff.1 h
  exact onlyIn_iff.2 (by simp only [hp, true_or] at k ⊢; exact k)
theorem onlyIn_gly {ps : List Part} {s t : State} {x : _} (h : OnlyIn ps s t) (hp : .gly ∈ ps) :
    OnlyIn ps s { t with gly := x } := by
  have k := onlyIn_iff.1 h
  exact onlyIn_iff.2 (by simp only [hp, true_or] at k ⊢; exact k)
theorem onlyIn_span {ps : List Part} {s t : State} {x : _} (h : OnlyIn ps s t) (hp : .span ∈ ps) :
    OnlyIn ps s { t with span := x } := by
  have k := onlyIn_iff.1 h
  exact onlyIn_iff.2 (by simp only [hp, true_or] at k ⊢; exact k)
theorem onlyIn_rng {ps : List Part} {s t : State} {x : _} (h : OnlyIn ps s t) (hp : .rng ∈ ps) :
    OnlyIn ps s { t with rng := x } := by
  have k := onlyIn_iff.1 h
  exact onlyIn_iff.2 (by simp only [hp, true_or] at k ⊢; exact k)
theorem onlyIn_krn {ps : List Part} {s t : State} {x : _} (h : OnlyIn ps s t) (hp : .krn ∈ ps) :
    OnlyIn ps s { t with krn := x } := by
  have k := onlyIn_iff.1 h
  exact onlyIn_iff.2 (by simp only [hp, true_or] at k ⊢; exact k)
theorem onlyIn_mem {ps : List Part} {s t : State} {x : _} (h : OnlyIn ps s t) (hp : .mem ∈ ps) :
    OnlyIn ps s { t with mem := x } := by
  have k := onlyIn_iff.1 h
  exact onlyIn_iff.2 (by simp only [hp, true_or] at k ⊢; exact k)
theorem onlyIn_hbm {ps : List Part} {s t : State} {x : _} (h : OnlyIn ps s t) (hp : .hbm ∈ ps) :
    OnlyIn ps s { t with hbm := x } := by
  have k := onlyIn_iff.1 h
  exact onlyIn_iff.2 (by simp only [hp, true_or] at k ⊢; exact k)
theorem onlyIn_fab {ps : List Part} {s t : State} {x : _} (h : OnlyIn ps s t) (hp : .fab ∈ ps) :
    OnlyIn ps s { t with fab := x } := by
  have k := onlyIn_iff.1 h
  exact onlyIn_iff.2 (by simp only [hp, true_or] at k ⊢; exact k)
theorem onlyIn_dbg {ps : List Part} {s t : State} {x : _} (h : OnlyIn ps s t) (hp : .dbg ∈ ps) :
    OnlyIn ps s { t with dbg := x } := by
  have k := onlyIn_iff.1 h
  exact onlyIn_iff.2 (by simp only [hp, true_or] at k ⊢; exact k)
theorem onlyIn_down {ps : List Part} {s t : State} {x : _} (h : OnlyIn ps s t) (hp : .down ∈ ps) :
    OnlyIn ps s { t with down := x } := by
  have k := onlyIn_iff.1 h
  exact onlyIn_iff.2 (by simp only [hp, true_or] at k ⊢; exact k)

theorem onlyIn_krn_mem {ps : List Part} {s t : State} {k : Krn} {m : Mem} (h : OnlyIn ps s t) (hk : .krn ∈ ps) (hm : .mem ∈ ps) :
    OnlyIn ps s { t with krn := k, mem := m } :=
  onlyIn_mem (t := { t with krn := k }) (onlyIn_krn h hk) hm

/-! A part that every step of a fold, or both branches, leave. -/
@[simp] theorem foldl_pending {α : Type} (f : State → α → State) (l : List α) (s : State) (h : ∀ t x, (f t x).pending = t.pending) :
    (l.foldl f s).pending = s.pending := by
  induction l generalizing s <;> simp_all
@[simp] theorem foldl_tick {α : Type} (f : State → α → State) (l : List α) (s : State) (h : ∀ t x, (f t x).tick = t.tick) :
    (l.foldl f s).tick = s.tick := by
  induction l generalizing s <;> simp_all
@[simp] theorem foldl_free {α : Type} (f : State → α → State) (l : List α) (s : State) (h : ∀ t x, (f t x).free = t.free) :
    (l.foldl f s).free = s.free := by
  induction l generalizing s <;> simp_all
@[simp] theorem foldl_dev {α : Type} (f : State → α → State) (l : List α) (s : State) (h : ∀ t x, (f t x).dev = t.dev) :
    (l.foldl f s).dev = s.dev := by
  induction l generalizing s <;> simp_all
@[simp] theorem foldl_boot {α : Type} (f : State → α → State) (l : List α) (s : State) (h : ∀ t x, (f t x).boot = t.boot) :
    (l.foldl f s).boot = s.boot := by
  induction l generalizing s <;> simp_all
@[simp] theorem foldl_trust {α : Type} (f : State → α → State) (l : List α) (s : State) (h : ∀ t x, (f t x).trust = t.trust) :
    (l.foldl f s).trust = s.trust := by
  induction l generalizing s <;> simp_all
@[simp] theorem foldl_regs {α : Type} (f : State → α → State) (l : List α) (s : State) (h : ∀ t x, (f t x).regs = t.regs) :
    (l.foldl f s).regs = s.regs := by
  induction l generalizing s <;> simp_all
@[simp] theorem foldl_link {α : Type} (f : State → α → State) (l : List α) (s : State) (h : ∀ t x, (f t x).link = t.link) :
    (l.foldl f s).link = s.link := by
  induction l generalizing s <;> simp_all
@[simp] theorem foldl_pwr {α : Type} (f : State → α → State) (l : List α) (s : State) (h : ∀ t x, (f t x).pwr = t.pwr) :
    (l.foldl f s).pwr = s.pwr := by
  induction l generalizing s <;> simp_all
@[simp] theorem foldl_thm {α : Type} (f : State → α → State) (l : List α) (s : State) (h : ∀ t x, (f t x).thm = t.thm) :
    (l.foldl f s).thm = s.thm := by
  induction l generalizing s <;> simp_all
@[simp] theorem foldl_evt {α : Type} (f : State → α → State) (l : List α) (s : State) (h : ∀ t x, (f t x).evt = t.evt) :
    (l.foldl f s).evt = s.evt := by
  induction l generalizing s <;> simp_all
@[simp] theorem foldl_mgt {α : Type} (f : State → α → State) (l : List α) (s : State) (h : ∀ t x, (f t x).mgt = t.mgt) :
    (l.foldl f s).mgt = s.mgt := by
  induction l generalizing s <;> simp_all
@[simp] theorem foldl_gly {α : Type} (f : State → α → State) (l : List α) (s : State) (h : ∀ t x, (f t x).gly = t.gly) :
    (l.foldl f s).gly = s.gly := by
  induction l generalizing s <;> simp_all
@[simp] theorem foldl_span {α : Type} (f : State → α → State) (l : List α) (s : State) (h : ∀ t x, (f t x).span = t.span) :
    (l.foldl f s).span = s.span := by
  induction l generalizing s <;> simp_all
@[simp] theorem foldl_rng {α : Type} (f : State → α → State) (l : List α) (s : State) (h : ∀ t x, (f t x).rng = t.rng) :
    (l.foldl f s).rng = s.rng := by
  induction l generalizing s <;> simp_all
@[simp] theorem foldl_krn {α : Type} (f : State → α → State) (l : List α) (s : State) (h : ∀ t x, (f t x).krn = t.krn) :
    (l.foldl f s).krn = s.krn := by
  induction l generalizing s <;> simp_all
@[simp] theorem foldl_mem {α : Type} (f : State → α → State) (l : List α) (s : State) (h : ∀ t x, (f t x).mem = t.mem) :
    (l.foldl f s).mem = s.mem := by
  induction l generalizing s <;> simp_all
@[simp] theorem foldl_hbm {α : Type} (f : State → α → State) (l : List α) (s : State) (h : ∀ t x, (f t x).hbm = t.hbm) :
    (l.foldl f s).hbm = s.hbm := by
  induction l generalizing s <;> simp_all
@[simp] theorem foldl_fab {α : Type} (f : State → α → State) (l : List α) (s : State) (h : ∀ t x, (f t x).fab = t.fab) :
    (l.foldl f s).fab = s.fab := by
  induction l generalizing s <;> simp_all
@[simp] theorem foldl_dbg {α : Type} (f : State → α → State) (l : List α) (s : State) (h : ∀ t x, (f t x).dbg = t.dbg) :
    (l.foldl f s).dbg = s.dbg := by
  induction l generalizing s <;> simp_all
@[simp] theorem foldl_down {α : Type} (f : State → α → State) (l : List α) (s : State) (h : ∀ t x, (f t x).down = t.down) :
    (l.foldl f s).down = s.down := by
  induction l generalizing s <;> simp_all
@[simp] theorem foldl_fst_pending {α β : Type} (f : State × β → α → State × β) (l : List α) (a : State × β)
    (h : ∀ b x, (f b x).1.pending = b.1.pending) : (l.foldl f a).1.pending = a.1.pending := by
  induction l generalizing a <;> simp_all
@[simp] theorem foldl_fst_tick {α β : Type} (f : State × β → α → State × β) (l : List α) (a : State × β)
    (h : ∀ b x, (f b x).1.tick = b.1.tick) : (l.foldl f a).1.tick = a.1.tick := by
  induction l generalizing a <;> simp_all
@[simp] theorem foldl_fst_free {α β : Type} (f : State × β → α → State × β) (l : List α) (a : State × β)
    (h : ∀ b x, (f b x).1.free = b.1.free) : (l.foldl f a).1.free = a.1.free := by
  induction l generalizing a <;> simp_all
@[simp] theorem foldl_fst_dev {α β : Type} (f : State × β → α → State × β) (l : List α) (a : State × β)
    (h : ∀ b x, (f b x).1.dev = b.1.dev) : (l.foldl f a).1.dev = a.1.dev := by
  induction l generalizing a <;> simp_all
@[simp] theorem foldl_fst_boot {α β : Type} (f : State × β → α → State × β) (l : List α) (a : State × β)
    (h : ∀ b x, (f b x).1.boot = b.1.boot) : (l.foldl f a).1.boot = a.1.boot := by
  induction l generalizing a <;> simp_all
@[simp] theorem foldl_fst_trust {α β : Type} (f : State × β → α → State × β) (l : List α) (a : State × β)
    (h : ∀ b x, (f b x).1.trust = b.1.trust) : (l.foldl f a).1.trust = a.1.trust := by
  induction l generalizing a <;> simp_all
@[simp] theorem foldl_fst_regs {α β : Type} (f : State × β → α → State × β) (l : List α) (a : State × β)
    (h : ∀ b x, (f b x).1.regs = b.1.regs) : (l.foldl f a).1.regs = a.1.regs := by
  induction l generalizing a <;> simp_all
@[simp] theorem foldl_fst_link {α β : Type} (f : State × β → α → State × β) (l : List α) (a : State × β)
    (h : ∀ b x, (f b x).1.link = b.1.link) : (l.foldl f a).1.link = a.1.link := by
  induction l generalizing a <;> simp_all
@[simp] theorem foldl_fst_pwr {α β : Type} (f : State × β → α → State × β) (l : List α) (a : State × β)
    (h : ∀ b x, (f b x).1.pwr = b.1.pwr) : (l.foldl f a).1.pwr = a.1.pwr := by
  induction l generalizing a <;> simp_all
@[simp] theorem foldl_fst_thm {α β : Type} (f : State × β → α → State × β) (l : List α) (a : State × β)
    (h : ∀ b x, (f b x).1.thm = b.1.thm) : (l.foldl f a).1.thm = a.1.thm := by
  induction l generalizing a <;> simp_all
@[simp] theorem foldl_fst_evt {α β : Type} (f : State × β → α → State × β) (l : List α) (a : State × β)
    (h : ∀ b x, (f b x).1.evt = b.1.evt) : (l.foldl f a).1.evt = a.1.evt := by
  induction l generalizing a <;> simp_all
@[simp] theorem foldl_fst_mgt {α β : Type} (f : State × β → α → State × β) (l : List α) (a : State × β)
    (h : ∀ b x, (f b x).1.mgt = b.1.mgt) : (l.foldl f a).1.mgt = a.1.mgt := by
  induction l generalizing a <;> simp_all
@[simp] theorem foldl_fst_gly {α β : Type} (f : State × β → α → State × β) (l : List α) (a : State × β)
    (h : ∀ b x, (f b x).1.gly = b.1.gly) : (l.foldl f a).1.gly = a.1.gly := by
  induction l generalizing a <;> simp_all
@[simp] theorem foldl_fst_span {α β : Type} (f : State × β → α → State × β) (l : List α) (a : State × β)
    (h : ∀ b x, (f b x).1.span = b.1.span) : (l.foldl f a).1.span = a.1.span := by
  induction l generalizing a <;> simp_all
@[simp] theorem foldl_fst_rng {α β : Type} (f : State × β → α → State × β) (l : List α) (a : State × β)
    (h : ∀ b x, (f b x).1.rng = b.1.rng) : (l.foldl f a).1.rng = a.1.rng := by
  induction l generalizing a <;> simp_all
@[simp] theorem foldl_fst_krn {α β : Type} (f : State × β → α → State × β) (l : List α) (a : State × β)
    (h : ∀ b x, (f b x).1.krn = b.1.krn) : (l.foldl f a).1.krn = a.1.krn := by
  induction l generalizing a <;> simp_all
@[simp] theorem foldl_fst_mem {α β : Type} (f : State × β → α → State × β) (l : List α) (a : State × β)
    (h : ∀ b x, (f b x).1.mem = b.1.mem) : (l.foldl f a).1.mem = a.1.mem := by
  induction l generalizing a <;> simp_all
@[simp] theorem foldl_fst_hbm {α β : Type} (f : State × β → α → State × β) (l : List α) (a : State × β)
    (h : ∀ b x, (f b x).1.hbm = b.1.hbm) : (l.foldl f a).1.hbm = a.1.hbm := by
  induction l generalizing a <;> simp_all
@[simp] theorem foldl_fst_fab {α β : Type} (f : State × β → α → State × β) (l : List α) (a : State × β)
    (h : ∀ b x, (f b x).1.fab = b.1.fab) : (l.foldl f a).1.fab = a.1.fab := by
  induction l generalizing a <;> simp_all
@[simp] theorem foldl_fst_dbg {α β : Type} (f : State × β → α → State × β) (l : List α) (a : State × β)
    (h : ∀ b x, (f b x).1.dbg = b.1.dbg) : (l.foldl f a).1.dbg = a.1.dbg := by
  induction l generalizing a <;> simp_all
@[simp] theorem foldl_fst_down {α β : Type} (f : State × β → α → State × β) (l : List α) (a : State × β)
    (h : ∀ b x, (f b x).1.down = b.1.down) : (l.foldl f a).1.down = a.1.down := by
  induction l generalizing a <;> simp_all
@[simp] theorem ite_pending (c : Prop) [Decidable c] (s t : State) : (if c then s else t).pending = if c then s.pending else t.pending := apply_ite _ _ _ _
@[simp] theorem ite_tick (c : Prop) [Decidable c] (s t : State) : (if c then s else t).tick = if c then s.tick else t.tick := apply_ite _ _ _ _
@[simp] theorem ite_free (c : Prop) [Decidable c] (s t : State) : (if c then s else t).free = if c then s.free else t.free := apply_ite _ _ _ _
@[simp] theorem ite_dev (c : Prop) [Decidable c] (s t : State) : (if c then s else t).dev = if c then s.dev else t.dev := apply_ite _ _ _ _
@[simp] theorem ite_boot (c : Prop) [Decidable c] (s t : State) : (if c then s else t).boot = if c then s.boot else t.boot := apply_ite _ _ _ _
@[simp] theorem ite_trust (c : Prop) [Decidable c] (s t : State) : (if c then s else t).trust = if c then s.trust else t.trust := apply_ite _ _ _ _
@[simp] theorem ite_regs (c : Prop) [Decidable c] (s t : State) : (if c then s else t).regs = if c then s.regs else t.regs := apply_ite _ _ _ _
@[simp] theorem ite_link (c : Prop) [Decidable c] (s t : State) : (if c then s else t).link = if c then s.link else t.link := apply_ite _ _ _ _
@[simp] theorem ite_pwr (c : Prop) [Decidable c] (s t : State) : (if c then s else t).pwr = if c then s.pwr else t.pwr := apply_ite _ _ _ _
@[simp] theorem ite_thm (c : Prop) [Decidable c] (s t : State) : (if c then s else t).thm = if c then s.thm else t.thm := apply_ite _ _ _ _
@[simp] theorem ite_evt (c : Prop) [Decidable c] (s t : State) : (if c then s else t).evt = if c then s.evt else t.evt := apply_ite _ _ _ _
@[simp] theorem ite_mgt (c : Prop) [Decidable c] (s t : State) : (if c then s else t).mgt = if c then s.mgt else t.mgt := apply_ite _ _ _ _
@[simp] theorem ite_gly (c : Prop) [Decidable c] (s t : State) : (if c then s else t).gly = if c then s.gly else t.gly := apply_ite _ _ _ _
@[simp] theorem ite_span (c : Prop) [Decidable c] (s t : State) : (if c then s else t).span = if c then s.span else t.span := apply_ite _ _ _ _
@[simp] theorem ite_rng (c : Prop) [Decidable c] (s t : State) : (if c then s else t).rng = if c then s.rng else t.rng := apply_ite _ _ _ _
@[simp] theorem ite_krn (c : Prop) [Decidable c] (s t : State) : (if c then s else t).krn = if c then s.krn else t.krn := apply_ite _ _ _ _
@[simp] theorem ite_mem (c : Prop) [Decidable c] (s t : State) : (if c then s else t).mem = if c then s.mem else t.mem := apply_ite _ _ _ _
@[simp] theorem ite_hbm (c : Prop) [Decidable c] (s t : State) : (if c then s else t).hbm = if c then s.hbm else t.hbm := apply_ite _ _ _ _
@[simp] theorem ite_fab (c : Prop) [Decidable c] (s t : State) : (if c then s else t).fab = if c then s.fab else t.fab := apply_ite _ _ _ _
@[simp] theorem ite_dbg (c : Prop) [Decidable c] (s t : State) : (if c then s else t).dbg = if c then s.dbg else t.dbg := apply_ite _ _ _ _
@[simp] theorem ite_down (c : Prop) [Decidable c] (s t : State) : (if c then s else t).down = if c then s.down else t.down := apply_ite _ _ _ _

end Sys2Proof.Laws
end

