-- ==== Sys2Proof/Laws/Ops.lean ====
section
/-! SUPPORT. What the operations of Ops, Defects, RegMap, Operands and Traps may change: for each the parts it can touch (`_only`), and
the same as equations (`_frame`) for the simplifier. -/
namespace Sys2Proof.Laws
open Sys2Proof.Machine Sys2Proof.Safety

theorem draw_only (s : State) : OnlyIn [.free] s (draw s).2 := by
  unfold draw; try dsimp only
  (repeat' split) <;> simp [onlyIn_iff]
@[simp] theorem draw_frame (s : State) :
    (draw s).2.pending = s.pending ∧ (draw s).2.tick = s.tick ∧ (draw s).2.dev = s.dev ∧
    (draw s).2.boot = s.boot ∧ (draw s).2.trust = s.trust ∧ (draw s).2.regs = s.regs ∧
    (draw s).2.link = s.link ∧ (draw s).2.pwr = s.pwr ∧ (draw s).2.thm = s.thm ∧
    (draw s).2.evt = s.evt ∧ (draw s).2.mgt = s.mgt ∧ (draw s).2.gly = s.gly ∧
    (draw s).2.span = s.span ∧ (draw s).2.rng = s.rng ∧ (draw s).2.krn = s.krn ∧
    (draw s).2.mem = s.mem ∧ (draw s).2.hbm = s.hbm ∧ (draw s).2.fab = s.fab ∧
    (draw s).2.dbg = s.dbg ∧ (draw s).2.down = s.down := by
  simpa [onlyIn_iff] using draw_only s
theorem hostOut_only (s : State) (fn : Nat) (m : HostMsg) : OnlyIn [.link] s (hostOut s fn m) := by
  unfold hostOut; try dsimp only
  (repeat' split) <;> simp [onlyIn_iff]
@[simp] theorem hostOut_frame (s : State) (fn : Nat) (m : HostMsg) :
    (hostOut s fn m).pending = s.pending ∧ (hostOut s fn m).tick = s.tick ∧ (hostOut s fn m).free = s.free ∧
    (hostOut s fn m).dev = s.dev ∧ (hostOut s fn m).boot = s.boot ∧ (hostOut s fn m).trust = s.trust ∧
    (hostOut s fn m).regs = s.regs ∧ (hostOut s fn m).pwr = s.pwr ∧ (hostOut s fn m).thm = s.thm ∧
    (hostOut s fn m).evt = s.evt ∧ (hostOut s fn m).mgt = s.mgt ∧ (hostOut s fn m).gly = s.gly ∧
    (hostOut s fn m).span = s.span ∧ (hostOut s fn m).rng = s.rng ∧ (hostOut s fn m).krn = s.krn ∧
    (hostOut s fn m).mem = s.mem ∧ (hostOut s fn m).hbm = s.hbm ∧ (hostOut s fn m).fab = s.fab ∧
    (hostOut s fn m).dbg = s.dbg ∧ (hostOut s fn m).down = s.down := by
  simpa [onlyIn_iff] using hostOut_only s fn m
theorem useAtc_only (s : State) (fn addr : Nat) : OnlyIn [.link] s (useAtc s fn addr) := by
  unfold useAtc; try dsimp only
  (repeat' split) <;> simp [onlyIn_iff]
@[simp] theorem useAtc_frame (s : State) (fn addr : Nat) :
    (useAtc s fn addr).pending = s.pending ∧ (useAtc s fn addr).tick = s.tick ∧ (useAtc s fn addr).free = s.free ∧
    (useAtc s fn addr).dev = s.dev ∧ (useAtc s fn addr).boot = s.boot ∧ (useAtc s fn addr).trust = s.trust ∧
    (useAtc s fn addr).regs = s.regs ∧ (useAtc s fn addr).pwr = s.pwr ∧ (useAtc s fn addr).thm = s.thm ∧
    (useAtc s fn addr).evt = s.evt ∧ (useAtc s fn addr).mgt = s.mgt ∧ (useAtc s fn addr).gly = s.gly ∧
    (useAtc s fn addr).span = s.span ∧ (useAtc s fn addr).rng = s.rng ∧ (useAtc s fn addr).krn = s.krn ∧
    (useAtc s fn addr).mem = s.mem ∧ (useAtc s fn addr).hbm = s.hbm ∧ (useAtc s fn addr).fab = s.fab ∧
    (useAtc s fn addr).dbg = s.dbg ∧ (useAtc s fn addr).down = s.down := by
  simpa [onlyIn_iff] using useAtc_only s fn addr
theorem hostWrite_only (s : State) (fn addr : Nat) (data : Bytes) (ep : Bool) (ro : Bool) : OnlyIn [.link] s (hostWrite s fn addr data ep ro) := by
  unfold hostWrite; try dsimp only
  (repeat' split) <;> simp [onlyIn_iff]
@[simp] theorem hostWrite_frame (s : State) (fn addr : Nat) (data : Bytes) (ep : Bool) (ro : Bool) :
    (hostWrite s fn addr data ep ro).pending = s.pending ∧ (hostWrite s fn addr data ep ro).tick = s.tick ∧ (hostWrite s fn addr data ep ro).free = s.free ∧
    (hostWrite s fn addr data ep ro).dev = s.dev ∧ (hostWrite s fn addr data ep ro).boot = s.boot ∧ (hostWrite s fn addr data ep ro).trust = s.trust ∧
    (hostWrite s fn addr data ep ro).regs = s.regs ∧ (hostWrite s fn addr data ep ro).pwr = s.pwr ∧ (hostWrite s fn addr data ep ro).thm = s.thm ∧
    (hostWrite s fn addr data ep ro).evt = s.evt ∧ (hostWrite s fn addr data ep ro).mgt = s.mgt ∧ (hostWrite s fn addr data ep ro).gly = s.gly ∧
    (hostWrite s fn addr data ep ro).span = s.span ∧ (hostWrite s fn addr data ep ro).rng = s.rng ∧ (hostWrite s fn addr data ep ro).krn = s.krn ∧
    (hostWrite s fn addr data ep ro).mem = s.mem ∧ (hostWrite s fn addr data ep ro).hbm = s.hbm ∧ (hostWrite s fn addr data ep ro).fab = s.fab ∧
    (hostWrite s fn addr data ep ro).dbg = s.dbg ∧ (hostWrite s fn addr data ep ro).down = s.down := by
  simpa [onlyIn_iff] using hostWrite_only s fn addr data ep ro
theorem hostReply_only (s : State) (m : HostMsg) : OnlyIn [.link] s (hostReply s m) := by
  unfold hostReply; try dsimp only
  (repeat' split) <;> simp [onlyIn_iff]
@[simp] theorem hostReply_frame (s : State) (m : HostMsg) :
    (hostReply s m).pending = s.pending ∧ (hostReply s m).tick = s.tick ∧ (hostReply s m).free = s.free ∧
    (hostReply s m).dev = s.dev ∧ (hostReply s m).boot = s.boot ∧ (hostReply s m).trust = s.trust ∧
    (hostReply s m).regs = s.regs ∧ (hostReply s m).pwr = s.pwr ∧ (hostReply s m).thm = s.thm ∧
    (hostReply s m).evt = s.evt ∧ (hostReply s m).mgt = s.mgt ∧ (hostReply s m).gly = s.gly ∧
    (hostReply s m).span = s.span ∧ (hostReply s m).rng = s.rng ∧ (hostReply s m).krn = s.krn ∧
    (hostReply s m).mem = s.mem ∧ (hostReply s m).hbm = s.hbm ∧ (hostReply s m).fab = s.fab ∧
    (hostReply s m).dbg = s.dbg ∧ (hostReply s m).down = s.down := by
  simpa [onlyIn_iff] using hostReply_only s m
theorem interrupt_only (s : State) (fn v : Nat) : OnlyIn [.link] s (interrupt s fn v) := by
  unfold interrupt; try dsimp only
  (repeat' split) <;> simp [onlyIn_iff]
@[simp] theorem interrupt_frame (s : State) (fn v : Nat) :
    (interrupt s fn v).pending = s.pending ∧ (interrupt s fn v).tick = s.tick ∧ (interrupt s fn v).free = s.free ∧
    (interrupt s fn v).dev = s.dev ∧ (interrupt s fn v).boot = s.boot ∧ (interrupt s fn v).trust = s.trust ∧
    (interrupt s fn v).regs = s.regs ∧ (interrupt s fn v).pwr = s.pwr ∧ (interrupt s fn v).thm = s.thm ∧
    (interrupt s fn v).evt = s.evt ∧ (interrupt s fn v).mgt = s.mgt ∧ (interrupt s fn v).gly = s.gly ∧
    (interrupt s fn v).span = s.span ∧ (interrupt s fn v).rng = s.rng ∧ (interrupt s fn v).krn = s.krn ∧
    (interrupt s fn v).mem = s.mem ∧ (interrupt s fn v).hbm = s.hbm ∧ (interrupt s fn v).fab = s.fab ∧
    (interrupt s fn v).dbg = s.dbg ∧ (interrupt s fn v).down = s.down := by
  simpa [onlyIn_iff] using interrupt_only s fn v
theorem aer_only (s : State) (fn kind : Nat) : OnlyIn [.link] s (aer s fn kind) := by
  unfold aer; try dsimp only
  (repeat' split) <;> simp [onlyIn_iff]
@[simp] theorem aer_frame (s : State) (fn kind : Nat) :
    (aer s fn kind).pending = s.pending ∧ (aer s fn kind).tick = s.tick ∧ (aer s fn kind).free = s.free ∧
    (aer s fn kind).dev = s.dev ∧ (aer s fn kind).boot = s.boot ∧ (aer s fn kind).trust = s.trust ∧
    (aer s fn kind).regs = s.regs ∧ (aer s fn kind).pwr = s.pwr ∧ (aer s fn kind).thm = s.thm ∧
    (aer s fn kind).evt = s.evt ∧ (aer s fn kind).mgt = s.mgt ∧ (aer s fn kind).gly = s.gly ∧
    (aer s fn kind).span = s.span ∧ (aer s fn kind).rng = s.rng ∧ (aer s fn kind).krn = s.krn ∧
    (aer s fn kind).mem = s.mem ∧ (aer s fn kind).hbm = s.hbm ∧ (aer s fn kind).fab = s.fab ∧
    (aer s fn kind).dbg = s.dbg ∧ (aer s fn kind).down = s.down := by
  simpa [onlyIn_iff] using aer_only s fn kind
theorem countEv_only (s : State) (code part : Nat) : OnlyIn [.evt] s (countEv s code part) := by
  unfold countEv; try dsimp only
  (repeat' split) <;> simp [onlyIn_iff]
@[simp] theorem countEv_frame (s : State) (code part : Nat) :
    (countEv s code part).pending = s.pending ∧ (countEv s code part).tick = s.tick ∧ (countEv s code part).free = s.free ∧
    (countEv s code part).dev = s.dev ∧ (countEv s code part).boot = s.boot ∧ (countEv s code part).trust = s.trust ∧
    (countEv s code part).regs = s.regs ∧ (countEv s code part).link = s.link ∧ (countEv s code part).pwr = s.pwr ∧
    (countEv s code part).thm = s.thm ∧ (countEv s code part).mgt = s.mgt ∧ (countEv s code part).gly = s.gly ∧
    (countEv s code part).span = s.span ∧ (countEv s code part).rng = s.rng ∧ (countEv s code part).krn = s.krn ∧
    (countEv s code part).mem = s.mem ∧ (countEv s code part).hbm = s.hbm ∧ (countEv s code part).fab = s.fab ∧
    (countEv s code part).dbg = s.dbg ∧ (countEv s code part).down = s.down := by
  simpa [onlyIn_iff] using countEv_only s code part
theorem detect_only (s : State) (code sev part unit addr : Nat) (detail : Bytes) (ring : Nat) : OnlyIn [.evt] s (detect s code sev part unit addr detail ring) := by
  unfold detect; try dsimp only
  (repeat' split) <;> simp [onlyIn_iff]
@[simp] theorem detect_frame (s : State) (code sev part unit addr : Nat) (detail : Bytes) (ring : Nat) :
    (detect s code sev part unit addr detail ring).pending = s.pending ∧ (detect s code sev part unit addr detail ring).tick = s.tick ∧ (detect s code sev part unit addr detail ring).free = s.free ∧
    (detect s code sev part unit addr detail ring).dev = s.dev ∧ (detect s code sev part unit addr detail ring).boot = s.boot ∧ (detect s code sev part unit addr detail ring).trust = s.trust ∧
    (detect s code sev part unit addr detail ring).regs = s.regs ∧ (detect s code sev part unit addr detail ring).link = s.link ∧ (detect s code sev part unit addr detail ring).pwr = s.pwr ∧
    (detect s code sev part unit addr detail ring).thm = s.thm ∧ (detect s code sev part unit addr detail ring).mgt = s.mgt ∧ (detect s code sev part unit addr detail ring).gly = s.gly ∧
    (detect s code sev part unit addr detail ring).span = s.span ∧ (detect s code sev part unit addr detail ring).rng = s.rng ∧ (detect s code sev part unit addr detail ring).krn = s.krn ∧
    (detect s code sev part unit addr detail ring).mem = s.mem ∧ (detect s code sev part unit addr detail ring).hbm = s.hbm ∧ (detect s code sev part unit addr detail ring).fab = s.fab ∧
    (detect s code sev part unit addr detail ring).dbg = s.dbg ∧ (detect s code sev part unit addr detail ring).down = s.down := by
  simpa [onlyIn_iff] using detect_only s code sev part unit addr detail ring
theorem setEvRing_only (s : State) (fn : Nat) (r : EvRing) : OnlyIn [.evt] s (setEvRing s fn r) := by
  unfold setEvRing; try dsimp only
  (repeat' split) <;> simp [onlyIn_iff]
@[simp] theorem setEvRing_frame (s : State) (fn : Nat) (r : EvRing) :
    (setEvRing s fn r).pending = s.pending ∧ (setEvRing s fn r).tick = s.tick ∧ (setEvRing s fn r).free = s.free ∧
    (setEvRing s fn r).dev = s.dev ∧ (setEvRing s fn r).boot = s.boot ∧ (setEvRing s fn r).trust = s.trust ∧
    (setEvRing s fn r).regs = s.regs ∧ (setEvRing s fn r).link = s.link ∧ (setEvRing s fn r).pwr = s.pwr ∧
    (setEvRing s fn r).thm = s.thm ∧ (setEvRing s fn r).mgt = s.mgt ∧ (setEvRing s fn r).gly = s.gly ∧
    (setEvRing s fn r).span = s.span ∧ (setEvRing s fn r).rng = s.rng ∧ (setEvRing s fn r).krn = s.krn ∧
    (setEvRing s fn r).mem = s.mem ∧ (setEvRing s fn r).hbm = s.hbm ∧ (setEvRing s fn r).fab = s.fab ∧
    (setEvRing s fn r).dbg = s.dbg ∧ (setEvRing s fn r).down = s.down := by
  simpa [onlyIn_iff] using setEvRing_only s fn r
theorem evWrite_only (s : State) (fn : Nat) (e : Ev) (bare ok : Bool) : OnlyIn [.evt, .link] s (evWrite s fn e bare ok) := by
  unfold evWrite; try dsimp only
  (repeat' split) <;> simp [onlyIn_iff]
@[simp] theorem evWrite_frame (s : State) (fn : Nat) (e : Ev) (bare ok : Bool) :
    (evWrite s fn e bare ok).pending = s.pending ∧ (evWrite s fn e bare ok).tick = s.tick ∧ (evWrite s fn e bare ok).free = s.free ∧
    (evWrite s fn e bare ok).dev = s.dev ∧ (evWrite s fn e bare ok).boot = s.boot ∧ (evWrite s fn e bare ok).trust = s.trust ∧
    (evWrite s fn e bare ok).regs = s.regs ∧ (evWrite s fn e bare ok).pwr = s.pwr ∧ (evWrite s fn e bare ok).thm = s.thm ∧
    (evWrite s fn e bare ok).mgt = s.mgt ∧ (evWrite s fn e bare ok).gly = s.gly ∧ (evWrite s fn e bare ok).span = s.span ∧
    (evWrite s fn e bare ok).rng = s.rng ∧ (evWrite s fn e bare ok).krn = s.krn ∧ (evWrite s fn e bare ok).mem = s.mem ∧
    (evWrite s fn e bare ok).hbm = s.hbm ∧ (evWrite s fn e bare ok).fab = s.fab ∧ (evWrite s fn e bare ok).dbg = s.dbg ∧
    (evWrite s fn e bare ok).down = s.down := by
  simpa [onlyIn_iff] using evWrite_only s fn e bare ok
theorem alert_only (s : State) (b : Nat) : OnlyIn [.evt] s (alert s b) := by
  unfold alert; try dsimp only
  (repeat' split) <;> simp [onlyIn_iff]
@[simp] theorem alert_frame (s : State) (b : Nat) :
    (alert s b).pending = s.pending ∧ (alert s b).tick = s.tick ∧ (alert s b).free = s.free ∧
    (alert s b).dev = s.dev ∧ (alert s b).boot = s.boot ∧ (alert s b).trust = s.trust ∧
    (alert s b).regs = s.regs ∧ (alert s b).link = s.link ∧ (alert s b).pwr = s.pwr ∧
    (alert s b).thm = s.thm ∧ (alert s b).mgt = s.mgt ∧ (alert s b).gly = s.gly ∧
    (alert s b).span = s.span ∧ (alert s b).rng = s.rng ∧ (alert s b).krn = s.krn ∧
    (alert s b).mem = s.mem ∧ (alert s b).hbm = s.hbm ∧ (alert s b).fab = s.fab ∧
    (alert s b).dbg = s.dbg ∧ (alert s b).down = s.down := by
  simpa [onlyIn_iff] using alert_only s b
theorem postEv_only (s : State) (e : Ev) (ok : Bool) : OnlyIn [.dev, .link, .evt] s (postEv s e ok) := by
  unfold postEv; try dsimp only
  (repeat' split) <;> simp [onlyIn_iff]
@[simp] theorem postEv_frame (s : State) (e : Ev) (ok : Bool) :
    (postEv s e ok).pending = s.pending ∧ (postEv s e ok).tick = s.tick ∧ (postEv s e ok).free = s.free ∧
    (postEv s e ok).boot = s.boot ∧ (postEv s e ok).trust = s.trust ∧ (postEv s e ok).regs = s.regs ∧
    (postEv s e ok).pwr = s.pwr ∧ (postEv s e ok).thm = s.thm ∧ (postEv s e ok).mgt = s.mgt ∧
    (postEv s e ok).gly = s.gly ∧ (postEv s e ok).span = s.span ∧ (postEv s e ok).rng = s.rng ∧
    (postEv s e ok).krn = s.krn ∧ (postEv s e ok).mem = s.mem ∧ (postEv s e ok).hbm = s.hbm ∧
    (postEv s e ok).fab = s.fab ∧ (postEv s e ok).dbg = s.dbg ∧ (postEv s e ok).down = s.down := by
  simpa [onlyIn_iff] using postEv_only s e ok
theorem flushEv_only (s : State) : OnlyIn [.dev, .link, .evt] s (flushEv s) := by
  unfold flushEv; try dsimp only
  (repeat' split) <;> simp [onlyIn_iff]
@[simp] theorem flushEv_frame (s : State) :
    (flushEv s).pending = s.pending ∧ (flushEv s).tick = s.tick ∧ (flushEv s).free = s.free ∧
    (flushEv s).boot = s.boot ∧ (flushEv s).trust = s.trust ∧ (flushEv s).regs = s.regs ∧
    (flushEv s).pwr = s.pwr ∧ (flushEv s).thm = s.thm ∧ (flushEv s).mgt = s.mgt ∧
    (flushEv s).gly = s.gly ∧ (flushEv s).span = s.span ∧ (flushEv s).rng = s.rng ∧
    (flushEv s).krn = s.krn ∧ (flushEv s).mem = s.mem ∧ (flushEv s).hbm = s.hbm ∧
    (flushEv s).fab = s.fab ∧ (flushEv s).dbg = s.dbg ∧ (flushEv s).down = s.down := by
  simpa [onlyIn_iff] using flushEv_only s
theorem setDev_only (s : State) (d : DevSt) : OnlyIn [.dev, .evt] s (setDev s d) := by
  unfold setDev; try dsimp only
  (repeat' split) <;> simp [onlyIn_iff]
@[simp] theorem setDev_frame (s : State) (d : DevSt) :
    (setDev s d).pending = s.pending ∧ (setDev s d).tick = s.tick ∧ (setDev s d).free = s.free ∧
    (setDev s d).boot = s.boot ∧ (setDev s d).trust = s.trust ∧ (setDev s d).regs = s.regs ∧
    (setDev s d).link = s.link ∧ (setDev s d).pwr = s.pwr ∧ (setDev s d).thm = s.thm ∧
    (setDev s d).mgt = s.mgt ∧ (setDev s d).gly = s.gly ∧ (setDev s d).span = s.span ∧
    (setDev s d).rng = s.rng ∧ (setDev s d).krn = s.krn ∧ (setDev s d).mem = s.mem ∧
    (setDev s d).hbm = s.hbm ∧ (setDev s d).fab = s.fab ∧ (setDev s d).dbg = s.dbg ∧
    (setDev s d).down = s.down := by
  simpa [onlyIn_iff] using setDev_only s d
theorem logAppend_only (s : State) (kind part : Nat) (subject digest : Bytes) : OnlyIn [.trust, .evt] s (logAppend s kind part subject digest) := by
  unfold logAppend; try dsimp only
  (repeat' split) <;> simp [onlyIn_iff]
@[simp] theorem logAppend_frame (s : State) (kind part : Nat) (subject digest : Bytes) :
    (logAppend s kind part subject digest).pending = s.pending ∧ (logAppend s kind part subject digest).tick = s.tick ∧ (logAppend s kind part subject digest).free = s.free ∧
    (logAppend s kind part subject digest).dev = s.dev ∧ (logAppend s kind part subject digest).boot = s.boot ∧ (logAppend s kind part subject digest).regs = s.regs ∧
    (logAppend s kind part subject digest).link = s.link ∧ (logAppend s kind part subject digest).pwr = s.pwr ∧ (logAppend s kind part subject digest).thm = s.thm ∧
    (logAppend s kind part subject digest).mgt = s.mgt ∧ (logAppend s kind part subject digest).gly = s.gly ∧ (logAppend s kind part subject digest).span = s.span ∧
    (logAppend s kind part subject digest).rng = s.rng ∧ (logAppend s kind part subject digest).krn = s.krn ∧ (logAppend s kind part subject digest).mem = s.mem ∧
    (logAppend s kind part subject digest).hbm = s.hbm ∧ (logAppend s kind part subject digest).fab = s.fab ∧ (logAppend s kind part subject digest).dbg = s.dbg ∧
    (logAppend s kind part subject digest).down = s.down := by
  simpa [onlyIn_iff] using logAppend_only s kind part subject digest
theorem idWrite_only (s : State) (r : IdRec) (ok : Bool) : OnlyIn [.trust, .evt] s (idWrite s r ok) := by
  unfold idWrite; try dsimp only
  (repeat' split) <;> simp [onlyIn_iff]
@[simp] theorem idWrite_frame (s : State) (r : IdRec) (ok : Bool) :
    (idWrite s r ok).pending = s.pending ∧ (idWrite s r ok).tick = s.tick ∧ (idWrite s r ok).free = s.free ∧
    (idWrite s r ok).dev = s.dev ∧ (idWrite s r ok).boot = s.boot ∧ (idWrite s r ok).regs = s.regs ∧
    (idWrite s r ok).link = s.link ∧ (idWrite s r ok).pwr = s.pwr ∧ (idWrite s r ok).thm = s.thm ∧
    (idWrite s r ok).mgt = s.mgt ∧ (idWrite s r ok).gly = s.gly ∧ (idWrite s r ok).span = s.span ∧
    (idWrite s r ok).rng = s.rng ∧ (idWrite s r ok).krn = s.krn ∧ (idWrite s r ok).mem = s.mem ∧
    (idWrite s r ok).hbm = s.hbm ∧ (idWrite s r ok).fab = s.fab ∧ (idWrite s r ok).dbg = s.dbg ∧
    (idWrite s r ok).down = s.down := by
  simpa [onlyIn_iff] using idWrite_only s r ok
theorem bumpEpoch_only (s : State) (u : Nat) : OnlyIn [.fab] s (bumpEpoch s u) := by
  unfold bumpEpoch; try dsimp only
  (repeat' split) <;> simp [onlyIn_iff]
@[simp] theorem bumpEpoch_frame (s : State) (u : Nat) :
    (bumpEpoch s u).pending = s.pending ∧ (bumpEpoch s u).tick = s.tick ∧ (bumpEpoch s u).free = s.free ∧
    (bumpEpoch s u).dev = s.dev ∧ (bumpEpoch s u).boot = s.boot ∧ (bumpEpoch s u).trust = s.trust ∧
    (bumpEpoch s u).regs = s.regs ∧ (bumpEpoch s u).link = s.link ∧ (bumpEpoch s u).pwr = s.pwr ∧
    (bumpEpoch s u).thm = s.thm ∧ (bumpEpoch s u).evt = s.evt ∧ (bumpEpoch s u).mgt = s.mgt ∧
    (bumpEpoch s u).gly = s.gly ∧ (bumpEpoch s u).span = s.span ∧ (bumpEpoch s u).rng = s.rng ∧
    (bumpEpoch s u).krn = s.krn ∧ (bumpEpoch s u).mem = s.mem ∧ (bumpEpoch s u).hbm = s.hbm ∧
    (bumpEpoch s u).dbg = s.dbg ∧ (bumpEpoch s u).down = s.down := by
  simpa [onlyIn_iff] using bumpEpoch_only s u
theorem staleReturn_only (s : State) (u part : Nat) : OnlyIn [.evt, .fab] s (staleReturn s u part) := by
  unfold staleReturn; try dsimp only
  (repeat' split) <;> simp [onlyIn_iff]
@[simp] theorem staleReturn_frame (s : State) (u part : Nat) :
    (staleReturn s u part).pending = s.pending ∧ (staleReturn s u part).tick = s.tick ∧ (staleReturn s u part).free = s.free ∧
    (staleReturn s u part).dev = s.dev ∧ (staleReturn s u part).boot = s.boot ∧ (staleReturn s u part).trust = s.trust ∧
    (staleReturn s u part).regs = s.regs ∧ (staleReturn s u part).link = s.link ∧ (staleReturn s u part).pwr = s.pwr ∧
    (staleReturn s u part).thm = s.thm ∧ (staleReturn s u part).mgt = s.mgt ∧ (staleReturn s u part).gly = s.gly ∧
    (staleReturn s u part).span = s.span ∧ (staleReturn s u part).rng = s.rng ∧ (staleReturn s u part).krn = s.krn ∧
    (staleReturn s u part).mem = s.mem ∧ (staleReturn s u part).hbm = s.hbm ∧ (staleReturn s u part).dbg = s.dbg ∧
    (staleReturn s u part).down = s.down := by
  simpa [onlyIn_iff] using staleReturn_only s u part
theorem recordDefect_only (s : State) (d : Defect) : OnlyIn [.boot] s (recordDefect s d) := by
  unfold recordDefect; try dsimp only
  (repeat' split) <;> simp [onlyIn_iff]
@[simp] theorem recordDefect_frame (s : State) (d : Defect) :
    (recordDefect s d).pending = s.pending ∧ (recordDefect s d).tick = s.tick ∧ (recordDefect s d).free = s.free ∧
    (recordDefect s d).dev = s.dev ∧ (recordDefect s d).trust = s.trust ∧ (recordDefect s d).regs = s.regs ∧
    (recordDefect s d).link = s.link ∧ (recordDefect s d).pwr = s.pwr ∧ (recordDefect s d).thm = s.thm ∧
    (recordDefect s d).evt = s.evt ∧ (recordDefect s d).mgt = s.mgt ∧ (recordDefect s d).gly = s.gly ∧
    (recordDefect s d).span = s.span ∧ (recordDefect s d).rng = s.rng ∧ (recordDefect s d).krn = s.krn ∧
    (recordDefect s d).mem = s.mem ∧ (recordDefect s d).hbm = s.hbm ∧ (recordDefect s d).fab = s.fab ∧
    (recordDefect s d).dbg = s.dbg ∧ (recordDefect s d).down = s.down := by
  simpa [onlyIn_iff] using recordDefect_only s d
theorem setChan_only (s : State) (c : Nat) (x : Chan) : OnlyIn [.hbm] s (setChan s c x) := by
  unfold setChan; try dsimp only
  (repeat' split) <;> simp [onlyIn_iff]
@[simp] theorem setChan_frame (s : State) (c : Nat) (x : Chan) :
    (setChan s c x).pending = s.pending ∧ (setChan s c x).tick = s.tick ∧ (setChan s c x).free = s.free ∧
    (setChan s c x).dev = s.dev ∧ (setChan s c x).boot = s.boot ∧ (setChan s c x).trust = s.trust ∧
    (setChan s c x).regs = s.regs ∧ (setChan s c x).link = s.link ∧ (setChan s c x).pwr = s.pwr ∧
    (setChan s c x).thm = s.thm ∧ (setChan s c x).evt = s.evt ∧ (setChan s c x).mgt = s.mgt ∧
    (setChan s c x).gly = s.gly ∧ (setChan s c x).span = s.span ∧ (setChan s c x).rng = s.rng ∧
    (setChan s c x).krn = s.krn ∧ (setChan s c x).mem = s.mem ∧ (setChan s c x).fab = s.fab ∧
    (setChan s c x).dbg = s.dbg ∧ (setChan s c x).down = s.down := by
  simpa [onlyIn_iff] using setChan_only s c x
theorem setStack_only (s : State) (k : Nat) (x : Stack) : OnlyIn [.hbm] s (setStack s k x) := by
  unfold setStack; try dsimp only
  (repeat' split) <;> simp [onlyIn_iff]
@[simp] theorem setStack_frame (s : State) (k : Nat) (x : Stack) :
    (setStack s k x).pending = s.pending ∧ (setStack s k x).tick = s.tick ∧ (setStack s k x).free = s.free ∧
    (setStack s k x).dev = s.dev ∧ (setStack s k x).boot = s.boot ∧ (setStack s k x).trust = s.trust ∧
    (setStack s k x).regs = s.regs ∧ (setStack s k x).link = s.link ∧ (setStack s k x).pwr = s.pwr ∧
    (setStack s k x).thm = s.thm ∧ (setStack s k x).evt = s.evt ∧ (setStack s k x).mgt = s.mgt ∧
    (setStack s k x).gly = s.gly ∧ (setStack s k x).span = s.span ∧ (setStack s k x).rng = s.rng ∧
    (setStack s k x).krn = s.krn ∧ (setStack s k x).mem = s.mem ∧ (setStack s k x).fab = s.fab ∧
    (setStack s k x).dbg = s.dbg ∧ (setStack s k x).down = s.down := by
  simpa [onlyIn_iff] using setStack_only s k x
theorem setCore_only (s : State) (i : Nat) (c : Core) : OnlyIn [.krn] s (setCore s i c) := by
  unfold setCore; try dsimp only
  (repeat' split) <;> simp [onlyIn_iff]
@[simp] theorem setCore_frame (s : State) (i : Nat) (c : Core) :
    (setCore s i c).pending = s.pending ∧ (setCore s i c).tick = s.tick ∧ (setCore s i c).free = s.free ∧
    (setCore s i c).dev = s.dev ∧ (setCore s i c).boot = s.boot ∧ (setCore s i c).trust = s.trust ∧
    (setCore s i c).regs = s.regs ∧ (setCore s i c).link = s.link ∧ (setCore s i c).pwr = s.pwr ∧
    (setCore s i c).thm = s.thm ∧ (setCore s i c).evt = s.evt ∧ (setCore s i c).mgt = s.mgt ∧
    (setCore s i c).gly = s.gly ∧ (setCore s i c).span = s.span ∧ (setCore s i c).rng = s.rng ∧
    (setCore s i c).mem = s.mem ∧ (setCore s i c).hbm = s.hbm ∧ (setCore s i c).fab = s.fab ∧
    (setCore s i c).dbg = s.dbg ∧ (setCore s i c).down = s.down := by
  simpa [onlyIn_iff] using setCore_only s i c
theorem setRing_only (s : State) (r : Nat) (g : Ring) : OnlyIn [.rng] s (setRing s r g) := by
  unfold setRing; try dsimp only
  (repeat' split) <;> simp [onlyIn_iff]
@[simp] theorem setRing_frame (s : State) (r : Nat) (g : Ring) :
    (setRing s r g).pending = s.pending ∧ (setRing s r g).tick = s.tick ∧ (setRing s r g).free = s.free ∧
    (setRing s r g).dev = s.dev ∧ (setRing s r g).boot = s.boot ∧ (setRing s r g).trust = s.trust ∧
    (setRing s r g).regs = s.regs ∧ (setRing s r g).link = s.link ∧ (setRing s r g).pwr = s.pwr ∧
    (setRing s r g).thm = s.thm ∧ (setRing s r g).evt = s.evt ∧ (setRing s r g).mgt = s.mgt ∧
    (setRing s r g).gly = s.gly ∧ (setRing s r g).span = s.span ∧ (setRing s r g).krn = s.krn ∧
    (setRing s r g).mem = s.mem ∧ (setRing s r g).hbm = s.hbm ∧ (setRing s r g).fab = s.fab ∧
    (setRing s r g).dbg = s.dbg ∧ (setRing s r g).down = s.down := by
  simpa [onlyIn_iff] using setRing_only s r g
theorem setPort_only (s : State) (n : Nat) (p : Port) : OnlyIn [.span] s (setPort s n p) := by
  unfold setPort; try dsimp only
  (repeat' split) <;> simp [onlyIn_iff]
@[simp] theorem setPort_frame (s : State) (n : Nat) (p : Port) :
    (setPort s n p).pending = s.pending ∧ (setPort s n p).tick = s.tick ∧ (setPort s n p).free = s.free ∧
    (setPort s n p).dev = s.dev ∧ (setPort s n p).boot = s.boot ∧ (setPort s n p).trust = s.trust ∧
    (setPort s n p).regs = s.regs ∧ (setPort s n p).link = s.link ∧ (setPort s n p).pwr = s.pwr ∧
    (setPort s n p).thm = s.thm ∧ (setPort s n p).evt = s.evt ∧ (setPort s n p).mgt = s.mgt ∧
    (setPort s n p).gly = s.gly ∧ (setPort s n p).rng = s.rng ∧ (setPort s n p).krn = s.krn ∧
    (setPort s n p).mem = s.mem ∧ (setPort s n p).hbm = s.hbm ∧ (setPort s n p).fab = s.fab ∧
    (setPort s n p).dbg = s.dbg ∧ (setPort s n p).down = s.down := by
  simpa [onlyIn_iff] using setPort_only s n p
theorem putReg_only (s : State) (off inst mask reset v : Nat) : OnlyIn [.regs] s (putReg s off inst mask reset v) := by
  unfold putReg; try dsimp only
  (repeat' split) <;> simp [onlyIn_iff]
@[simp] theorem putReg_frame (s : State) (off inst mask reset v : Nat) :
    (putReg s off inst mask reset v).pending = s.pending ∧ (putReg s off inst mask reset v).tick = s.tick ∧ (putReg s off inst mask reset v).free = s.free ∧
    (putReg s off inst mask reset v).dev = s.dev ∧ (putReg s off inst mask reset v).boot = s.boot ∧ (putReg s off inst mask reset v).trust = s.trust ∧
    (putReg s off inst mask reset v).link = s.link ∧ (putReg s off inst mask reset v).pwr = s.pwr ∧ (putReg s off inst mask reset v).thm = s.thm ∧
    (putReg s off inst mask reset v).evt = s.evt ∧ (putReg s off inst mask reset v).mgt = s.mgt ∧ (putReg s off inst mask reset v).gly = s.gly ∧
    (putReg s off inst mask reset v).span = s.span ∧ (putReg s off inst mask reset v).rng = s.rng ∧ (putReg s off inst mask reset v).krn = s.krn ∧
    (putReg s off inst mask reset v).mem = s.mem ∧ (putReg s off inst mask reset v).hbm = s.hbm ∧ (putReg s off inst mask reset v).fab = s.fab ∧
    (putReg s off inst mask reset v).dbg = s.dbg ∧ (putReg s off inst mask reset v).down = s.down := by
  simpa [onlyIn_iff] using putReg_only s off inst mask reset v
theorem plainWrite_only (s : State) (acc off v : Nat) : OnlyIn [.dev, .regs] s (plainWrite s acc off v) := by
  unfold plainWrite; try dsimp only
  (repeat' split) <;> simp [onlyIn_iff]
@[simp] theorem plainWrite_frame (s : State) (acc off v : Nat) :
    (plainWrite s acc off v).pending = s.pending ∧ (plainWrite s acc off v).tick = s.tick ∧ (plainWrite s acc off v).free = s.free ∧
    (plainWrite s acc off v).boot = s.boot ∧ (plainWrite s acc off v).trust = s.trust ∧ (plainWrite s acc off v).link = s.link ∧
    (plainWrite s acc off v).pwr = s.pwr ∧ (plainWrite s acc off v).thm = s.thm ∧ (plainWrite s acc off v).evt = s.evt ∧
    (plainWrite s acc off v).mgt = s.mgt ∧ (plainWrite s acc off v).gly = s.gly ∧ (plainWrite s acc off v).span = s.span ∧
    (plainWrite s acc off v).rng = s.rng ∧ (plainWrite s acc off v).krn = s.krn ∧ (plainWrite s acc off v).mem = s.mem ∧
    (plainWrite s acc off v).hbm = s.hbm ∧ (plainWrite s acc off v).fab = s.fab ∧ (plainWrite s acc off v).dbg = s.dbg ∧
    (plainWrite s acc off v).down = s.down := by
  simpa [onlyIn_iff] using plainWrite_only s acc off v
theorem domOff_only (s : State) (d : Nat) : OnlyIn [.pwr] s (domOff s d) := by
  unfold domOff; try dsimp only
  (repeat' split) <;> simp [onlyIn_iff]
@[simp] theorem domOff_frame (s : State) (d : Nat) :
    (domOff s d).pending = s.pending ∧ (domOff s d).tick = s.tick ∧ (domOff s d).free = s.free ∧
    (domOff s d).dev = s.dev ∧ (domOff s d).boot = s.boot ∧ (domOff s d).trust = s.trust ∧
    (domOff s d).regs = s.regs ∧ (domOff s d).link = s.link ∧ (domOff s d).thm = s.thm ∧
    (domOff s d).evt = s.evt ∧ (domOff s d).mgt = s.mgt ∧ (domOff s d).gly = s.gly ∧
    (domOff s d).span = s.span ∧ (domOff s d).rng = s.rng ∧ (domOff s d).krn = s.krn ∧
    (domOff s d).mem = s.mem ∧ (domOff s d).hbm = s.hbm ∧ (domOff s d).fab = s.fab ∧
    (domOff s d).dbg = s.dbg ∧ (domOff s d).down = s.down := by
  simpa [onlyIn_iff] using domOff_only s d
theorem setGrp_only (s : State) (core slot : Nat) (g : Grp) : OnlyIn [.krn] s (setGrp s core slot g) := by
  unfold setGrp; try dsimp only
  (repeat' split) <;> simp [onlyIn_iff]
@[simp] theorem setGrp_frame (s : State) (core slot : Nat) (g : Grp) :
    (setGrp s core slot g).pending = s.pending ∧ (setGrp s core slot g).tick = s.tick ∧ (setGrp s core slot g).free = s.free ∧
    (setGrp s core slot g).dev = s.dev ∧ (setGrp s core slot g).boot = s.boot ∧ (setGrp s core slot g).trust = s.trust ∧
    (setGrp s core slot g).regs = s.regs ∧ (setGrp s core slot g).link = s.link ∧ (setGrp s core slot g).pwr = s.pwr ∧
    (setGrp s core slot g).thm = s.thm ∧ (setGrp s core slot g).evt = s.evt ∧ (setGrp s core slot g).mgt = s.mgt ∧
    (setGrp s core slot g).gly = s.gly ∧ (setGrp s core slot g).span = s.span ∧ (setGrp s core slot g).rng = s.rng ∧
    (setGrp s core slot g).mem = s.mem ∧ (setGrp s core slot g).hbm = s.hbm ∧ (setGrp s core slot g).fab = s.fab ∧
    (setGrp s core slot g).dbg = s.dbg ∧ (setGrp s core slot g).down = s.down := by
  simpa [onlyIn_iff] using setGrp_only s core slot g
theorem updGrp_only (s : State) (core slot : Nat) (f : Grp → Grp) : OnlyIn [.krn] s (updGrp s core slot f) := by
  unfold updGrp; try dsimp only
  (repeat' split) <;> simp [onlyIn_iff]
@[simp] theorem updGrp_frame (s : State) (core slot : Nat) (f : Grp → Grp) :
    (updGrp s core slot f).pending = s.pending ∧ (updGrp s core slot f).tick = s.tick ∧ (updGrp s core slot f).free = s.free ∧
    (updGrp s core slot f).dev = s.dev ∧ (updGrp s core slot f).boot = s.boot ∧ (updGrp s core slot f).trust = s.trust ∧
    (updGrp s core slot f).regs = s.regs ∧ (updGrp s core slot f).link = s.link ∧ (updGrp s core slot f).pwr = s.pwr ∧
    (updGrp s core slot f).thm = s.thm ∧ (updGrp s core slot f).evt = s.evt ∧ (updGrp s core slot f).mgt = s.mgt ∧
    (updGrp s core slot f).gly = s.gly ∧ (updGrp s core slot f).span = s.span ∧ (updGrp s core slot f).rng = s.rng ∧
    (updGrp s core slot f).mem = s.mem ∧ (updGrp s core slot f).hbm = s.hbm ∧ (updGrp s core slot f).fab = s.fab ∧
    (updGrp s core slot f).dbg = s.dbg ∧ (updGrp s core slot f).down = s.down := by
  simpa [onlyIn_iff] using updGrp_only s core slot f
theorem updLaunch_only (s : State) (op : Nat) (f : Launch → Launch) : OnlyIn [.krn] s (updLaunch s op f) := by
  unfold updLaunch; try dsimp only
  (repeat' split) <;> simp [onlyIn_iff]
@[simp] theorem updLaunch_frame (s : State) (op : Nat) (f : Launch → Launch) :
    (updLaunch s op f).pending = s.pending ∧ (updLaunch s op f).tick = s.tick ∧ (updLaunch s op f).free = s.free ∧
    (updLaunch s op f).dev = s.dev ∧ (updLaunch s op f).boot = s.boot ∧ (updLaunch s op f).trust = s.trust ∧
    (updLaunch s op f).regs = s.regs ∧ (updLaunch s op f).link = s.link ∧ (updLaunch s op f).pwr = s.pwr ∧
    (updLaunch s op f).thm = s.thm ∧ (updLaunch s op f).evt = s.evt ∧ (updLaunch s op f).mgt = s.mgt ∧
    (updLaunch s op f).gly = s.gly ∧ (updLaunch s op f).span = s.span ∧ (updLaunch s op f).rng = s.rng ∧
    (updLaunch s op f).mem = s.mem ∧ (updLaunch s op f).hbm = s.hbm ∧ (updLaunch s op f).fab = s.fab ∧
    (updLaunch s op f).dbg = s.dbg ∧ (updLaunch s op f).down = s.down := by
  simpa [onlyIn_iff] using updLaunch_only s op f
theorem endLaunch_only (s : State) (now core slot code imm : Nat) (fmt : Bool) (g : Grp) : OnlyIn [.evt, .krn] s (endLaunch s now core slot code imm fmt g) := by
  unfold endLaunch; try dsimp only
  (repeat' split) <;> simp [onlyIn_iff]
@[simp] theorem endLaunch_frame (s : State) (now core slot code imm : Nat) (fmt : Bool) (g : Grp) :
    (endLaunch s now core slot code imm fmt g).pending = s.pending ∧ (endLaunch s now core slot code imm fmt g).tick = s.tick ∧ (endLaunch s now core slot code imm fmt g).free = s.free ∧
    (endLaunch s now core slot code imm fmt g).dev = s.dev ∧ (endLaunch s now core slot code imm fmt g).boot = s.boot ∧ (endLaunch s now core slot code imm fmt g).trust = s.trust ∧
    (endLaunch s now core slot code imm fmt g).regs = s.regs ∧ (endLaunch s now core slot code imm fmt g).link = s.link ∧ (endLaunch s now core slot code imm fmt g).pwr = s.pwr ∧
    (endLaunch s now core slot code imm fmt g).thm = s.thm ∧ (endLaunch s now core slot code imm fmt g).mgt = s.mgt ∧ (endLaunch s now core slot code imm fmt g).gly = s.gly ∧
    (endLaunch s now core slot code imm fmt g).span = s.span ∧ (endLaunch s now core slot code imm fmt g).rng = s.rng ∧ (endLaunch s now core slot code imm fmt g).mem = s.mem ∧
    (endLaunch s now core slot code imm fmt g).hbm = s.hbm ∧ (endLaunch s now core slot code imm fmt g).fab = s.fab ∧ (endLaunch s now core slot code imm fmt g).dbg = s.dbg ∧
    (endLaunch s now core slot code imm fmt g).down = s.down := by
  simpa [onlyIn_iff] using endLaunch_only s now core slot code imm fmt g
theorem raise_only (s : State) (core slot code : Nat) (imm : Nat) (fmt : Bool) : OnlyIn [.evt, .krn] s (raise s core slot code imm fmt) := by
  unfold raise; try dsimp only
  (repeat' split) <;> simp [onlyIn_iff]
@[simp] theorem raise_frame (s : State) (core slot code : Nat) (imm : Nat) (fmt : Bool) :
    (raise s core slot code imm fmt).pending = s.pending ∧ (raise s core slot code imm fmt).tick = s.tick ∧ (raise s core slot code imm fmt).free = s.free ∧
    (raise s core slot code imm fmt).dev = s.dev ∧ (raise s core slot code imm fmt).boot = s.boot ∧ (raise s core slot code imm fmt).trust = s.trust ∧
    (raise s core slot code imm fmt).regs = s.regs ∧ (raise s core slot code imm fmt).link = s.link ∧ (raise s core slot code imm fmt).pwr = s.pwr ∧
    (raise s core slot code imm fmt).thm = s.thm ∧ (raise s core slot code imm fmt).mgt = s.mgt ∧ (raise s core slot code imm fmt).gly = s.gly ∧
    (raise s core slot code imm fmt).span = s.span ∧ (raise s core slot code imm fmt).rng = s.rng ∧ (raise s core slot code imm fmt).mem = s.mem ∧
    (raise s core slot code imm fmt).hbm = s.hbm ∧ (raise s core slot code imm fmt).fab = s.fab ∧ (raise s core slot code imm fmt).dbg = s.dbg ∧
    (raise s core slot code imm fmt).down = s.down := by
  simpa [onlyIn_iff] using raise_only s core slot code imm fmt
theorem countHalted_only (s : State) : OnlyIn [.krn] s (countHalted s) := by
  unfold countHalted; try dsimp only
  (repeat' split) <;> simp [onlyIn_iff]
@[simp] theorem countHalted_frame (s : State) :
    (countHalted s).pending = s.pending ∧ (countHalted s).tick = s.tick ∧ (countHalted s).free = s.free ∧
    (countHalted s).dev = s.dev ∧ (countHalted s).boot = s.boot ∧ (countHalted s).trust = s.trust ∧
    (countHalted s).regs = s.regs ∧ (countHalted s).link = s.link ∧ (countHalted s).pwr = s.pwr ∧
    (countHalted s).thm = s.thm ∧ (countHalted s).evt = s.evt ∧ (countHalted s).mgt = s.mgt ∧
    (countHalted s).gly = s.gly ∧ (countHalted s).span = s.span ∧ (countHalted s).rng = s.rng ∧
    (countHalted s).mem = s.mem ∧ (countHalted s).hbm = s.hbm ∧ (countHalted s).fab = s.fab ∧
    (countHalted s).dbg = s.dbg ∧ (countHalted s).down = s.down := by
  simpa [onlyIn_iff] using countHalted_only s

end Sys2Proof.Laws
end

