-- ==== Sys2Proof/Laws/MemoryOps.lean ====
section
/-! SUPPORT. What the operations of the memory system may change. -/
namespace Sys2Proof.Laws
open Sys2Proof.Machine Sys2Proof.Safety

theorem putSector_only (s : State) (pa : Nat) (b : Bytes) (pois : Bool) : OnlyIn [.mem, .hbm] s (putSector s pa b pois) := by
  unfold putSector; try dsimp only
  (repeat' split) <;> simp [onlyIn_iff]
@[simp] theorem putSector_frame (s : State) (pa : Nat) (b : Bytes) (pois : Bool) :
    (putSector s pa b pois).pending = s.pending ∧ (putSector s pa b pois).tick = s.tick ∧ (putSector s pa b pois).free = s.free ∧
    (putSector s pa b pois).dev = s.dev ∧ (putSector s pa b pois).boot = s.boot ∧ (putSector s pa b pois).trust = s.trust ∧
    (putSector s pa b pois).regs = s.regs ∧ (putSector s pa b pois).link = s.link ∧ (putSector s pa b pois).pwr = s.pwr ∧
    (putSector s pa b pois).thm = s.thm ∧ (putSector s pa b pois).evt = s.evt ∧ (putSector s pa b pois).mgt = s.mgt ∧
    (putSector s pa b pois).gly = s.gly ∧ (putSector s pa b pois).span = s.span ∧ (putSector s pa b pois).rng = s.rng ∧
    (putSector s pa b pois).krn = s.krn ∧ (putSector s pa b pois).fab = s.fab ∧ (putSector s pa b pois).dbg = s.dbg ∧
    (putSector s pa b pois).down = s.down := by
  simpa [onlyIn_iff] using putSector_only s pa b pois
theorem putHbm_only (s : State) (line : Nat) (v : LV) : OnlyIn [.mem, .hbm] s (putHbm s line v) := by
  unfold putHbm; try dsimp only
  (repeat' split) <;> simp [onlyIn_iff]
@[simp] theorem putHbm_frame (s : State) (line : Nat) (v : LV) :
    (putHbm s line v).pending = s.pending ∧ (putHbm s line v).tick = s.tick ∧ (putHbm s line v).free = s.free ∧
    (putHbm s line v).dev = s.dev ∧ (putHbm s line v).boot = s.boot ∧ (putHbm s line v).trust = s.trust ∧
    (putHbm s line v).regs = s.regs ∧ (putHbm s line v).link = s.link ∧ (putHbm s line v).pwr = s.pwr ∧
    (putHbm s line v).thm = s.thm ∧ (putHbm s line v).evt = s.evt ∧ (putHbm s line v).mgt = s.mgt ∧
    (putHbm s line v).gly = s.gly ∧ (putHbm s line v).span = s.span ∧ (putHbm s line v).rng = s.rng ∧
    (putHbm s line v).krn = s.krn ∧ (putHbm s line v).fab = s.fab ∧ (putHbm s line v).dbg = s.dbg ∧
    (putHbm s line v).down = s.down := by
  simpa [onlyIn_iff] using putHbm_only s line v
theorem putPlot_only (s : State) (line : Nat) (v : LV) : OnlyIn [.mem] s (putPlot s line v) := by
  unfold putPlot; try dsimp only
  (repeat' split) <;> simp [onlyIn_iff]
@[simp] theorem putPlot_frame (s : State) (line : Nat) (v : LV) :
    (putPlot s line v).pending = s.pending ∧ (putPlot s line v).tick = s.tick ∧ (putPlot s line v).free = s.free ∧
    (putPlot s line v).dev = s.dev ∧ (putPlot s line v).boot = s.boot ∧ (putPlot s line v).trust = s.trust ∧
    (putPlot s line v).regs = s.regs ∧ (putPlot s line v).link = s.link ∧ (putPlot s line v).pwr = s.pwr ∧
    (putPlot s line v).thm = s.thm ∧ (putPlot s line v).evt = s.evt ∧ (putPlot s line v).mgt = s.mgt ∧
    (putPlot s line v).gly = s.gly ∧ (putPlot s line v).span = s.span ∧ (putPlot s line v).rng = s.rng ∧
    (putPlot s line v).krn = s.krn ∧ (putPlot s line v).hbm = s.hbm ∧ (putPlot s line v).fab = s.fab ∧
    (putPlot s line v).dbg = s.dbg ∧ (putPlot s line v).down = s.down := by
  simpa [onlyIn_iff] using putPlot_only s line v
theorem putLine_only (s : State) (line : Nat) (v : LV) : OnlyIn [.mem, .hbm] s (putLine s line v) := by
  unfold putLine; try dsimp only
  (repeat' split) <;> simp [onlyIn_iff]
@[simp] theorem putLine_frame (s : State) (line : Nat) (v : LV) :
    (putLine s line v).pending = s.pending ∧ (putLine s line v).tick = s.tick ∧ (putLine s line v).free = s.free ∧
    (putLine s line v).dev = s.dev ∧ (putLine s line v).boot = s.boot ∧ (putLine s line v).trust = s.trust ∧
    (putLine s line v).regs = s.regs ∧ (putLine s line v).link = s.link ∧ (putLine s line v).pwr = s.pwr ∧
    (putLine s line v).thm = s.thm ∧ (putLine s line v).evt = s.evt ∧ (putLine s line v).mgt = s.mgt ∧
    (putLine s line v).gly = s.gly ∧ (putLine s line v).span = s.span ∧ (putLine s line v).rng = s.rng ∧
    (putLine s line v).krn = s.krn ∧ (putLine s line v).fab = s.fab ∧ (putLine s line v).dbg = s.dbg ∧
    (putLine s line v).down = s.down := by
  simpa [onlyIn_iff] using putLine_only s line v
theorem gsEvent_only (s : State) (code sev line kind idx : Nat) : OnlyIn [.evt] s (gsEvent s code sev line kind idx) := by
  unfold gsEvent; try dsimp only
  (repeat' split) <;> simp [onlyIn_iff]
@[simp] theorem gsEvent_frame (s : State) (code sev line kind idx : Nat) :
    (gsEvent s code sev line kind idx).pending = s.pending ∧ (gsEvent s code sev line kind idx).tick = s.tick ∧ (gsEvent s code sev line kind idx).free = s.free ∧
    (gsEvent s code sev line kind idx).dev = s.dev ∧ (gsEvent s code sev line kind idx).boot = s.boot ∧ (gsEvent s code sev line kind idx).trust = s.trust ∧
    (gsEvent s code sev line kind idx).regs = s.regs ∧ (gsEvent s code sev line kind idx).link = s.link ∧ (gsEvent s code sev line kind idx).pwr = s.pwr ∧
    (gsEvent s code sev line kind idx).thm = s.thm ∧ (gsEvent s code sev line kind idx).mgt = s.mgt ∧ (gsEvent s code sev line kind idx).gly = s.gly ∧
    (gsEvent s code sev line kind idx).span = s.span ∧ (gsEvent s code sev line kind idx).rng = s.rng ∧ (gsEvent s code sev line kind idx).krn = s.krn ∧
    (gsEvent s code sev line kind idx).mem = s.mem ∧ (gsEvent s code sev line kind idx).hbm = s.hbm ∧ (gsEvent s code sev line kind idx).fab = s.fab ∧
    (gsEvent s code sev line kind idx).dbg = s.dbg ∧ (gsEvent s code sev line kind idx).down = s.down := by
  simpa [onlyIn_iff] using gsEvent_only s code sev line kind idx
theorem chEvent_only (s : State) (code sev pa kind idx : Nat) : OnlyIn [.evt] s (chEvent s code sev pa kind idx) := by
  unfold chEvent; try dsimp only
  (repeat' split) <;> simp [onlyIn_iff]
@[simp] theorem chEvent_frame (s : State) (code sev pa kind idx : Nat) :
    (chEvent s code sev pa kind idx).pending = s.pending ∧ (chEvent s code sev pa kind idx).tick = s.tick ∧ (chEvent s code sev pa kind idx).free = s.free ∧
    (chEvent s code sev pa kind idx).dev = s.dev ∧ (chEvent s code sev pa kind idx).boot = s.boot ∧ (chEvent s code sev pa kind idx).trust = s.trust ∧
    (chEvent s code sev pa kind idx).regs = s.regs ∧ (chEvent s code sev pa kind idx).link = s.link ∧ (chEvent s code sev pa kind idx).pwr = s.pwr ∧
    (chEvent s code sev pa kind idx).thm = s.thm ∧ (chEvent s code sev pa kind idx).mgt = s.mgt ∧ (chEvent s code sev pa kind idx).gly = s.gly ∧
    (chEvent s code sev pa kind idx).span = s.span ∧ (chEvent s code sev pa kind idx).rng = s.rng ∧ (chEvent s code sev pa kind idx).krn = s.krn ∧
    (chEvent s code sev pa kind idx).mem = s.mem ∧ (chEvent s code sev pa kind idx).hbm = s.hbm ∧ (chEvent s code sev pa kind idx).fab = s.fab ∧
    (chEvent s code sev pa kind idx).dbg = s.dbg ∧ (chEvent s code sev pa kind idx).down = s.down := by
  simpa [onlyIn_iff] using chEvent_only s code sev pa kind idx
theorem noteRow_only (s : State) (pa : Nat) (unc : Bool) : OnlyIn [.hbm] s (noteRow s pa unc) := by
  unfold noteRow; try dsimp only
  (repeat' split) <;> simp [onlyIn_iff]
@[simp] theorem noteRow_frame (s : State) (pa : Nat) (unc : Bool) :
    (noteRow s pa unc).pending = s.pending ∧ (noteRow s pa unc).tick = s.tick ∧ (noteRow s pa unc).free = s.free ∧
    (noteRow s pa unc).dev = s.dev ∧ (noteRow s pa unc).boot = s.boot ∧ (noteRow s pa unc).trust = s.trust ∧
    (noteRow s pa unc).regs = s.regs ∧ (noteRow s pa unc).link = s.link ∧ (noteRow s pa unc).pwr = s.pwr ∧
    (noteRow s pa unc).thm = s.thm ∧ (noteRow s pa unc).evt = s.evt ∧ (noteRow s pa unc).mgt = s.mgt ∧
    (noteRow s pa unc).gly = s.gly ∧ (noteRow s pa unc).span = s.span ∧ (noteRow s pa unc).rng = s.rng ∧
    (noteRow s pa unc).krn = s.krn ∧ (noteRow s pa unc).mem = s.mem ∧ (noteRow s pa unc).fab = s.fab ∧
    (noteRow s pa unc).dbg = s.dbg ∧ (noteRow s pa unc).down = s.down := by
  simpa [onlyIn_iff] using noteRow_only s pa unc
theorem countCorr_only (s : State) (pa : Nat) : OnlyIn [.hbm] s (countCorr s pa) := by
  unfold countCorr; try dsimp only
  (repeat' split) <;> simp [onlyIn_iff]
@[simp] theorem countCorr_frame (s : State) (pa : Nat) :
    (countCorr s pa).pending = s.pending ∧ (countCorr s pa).tick = s.tick ∧ (countCorr s pa).free = s.free ∧
    (countCorr s pa).dev = s.dev ∧ (countCorr s pa).boot = s.boot ∧ (countCorr s pa).trust = s.trust ∧
    (countCorr s pa).regs = s.regs ∧ (countCorr s pa).link = s.link ∧ (countCorr s pa).pwr = s.pwr ∧
    (countCorr s pa).thm = s.thm ∧ (countCorr s pa).evt = s.evt ∧ (countCorr s pa).mgt = s.mgt ∧
    (countCorr s pa).gly = s.gly ∧ (countCorr s pa).span = s.span ∧ (countCorr s pa).rng = s.rng ∧
    (countCorr s pa).krn = s.krn ∧ (countCorr s pa).mem = s.mem ∧ (countCorr s pa).fab = s.fab ∧
    (countCorr s pa).dbg = s.dbg ∧ (countCorr s pa).down = s.down := by
  simpa [onlyIn_iff] using countCorr_only s pa
theorem countUnc_only (s : State) (pa : Nat) : OnlyIn [.hbm] s (countUnc s pa) := by
  unfold countUnc; try dsimp only
  (repeat' split) <;> simp [onlyIn_iff]
@[simp] theorem countUnc_frame (s : State) (pa : Nat) :
    (countUnc s pa).pending = s.pending ∧ (countUnc s pa).tick = s.tick ∧ (countUnc s pa).free = s.free ∧
    (countUnc s pa).dev = s.dev ∧ (countUnc s pa).boot = s.boot ∧ (countUnc s pa).trust = s.trust ∧
    (countUnc s pa).regs = s.regs ∧ (countUnc s pa).link = s.link ∧ (countUnc s pa).pwr = s.pwr ∧
    (countUnc s pa).thm = s.thm ∧ (countUnc s pa).evt = s.evt ∧ (countUnc s pa).mgt = s.mgt ∧
    (countUnc s pa).gly = s.gly ∧ (countUnc s pa).span = s.span ∧ (countUnc s pa).rng = s.rng ∧
    (countUnc s pa).krn = s.krn ∧ (countUnc s pa).mem = s.mem ∧ (countUnc s pa).fab = s.fab ∧
    (countUnc s pa).dbg = s.dbg ∧ (countUnc s pa).down = s.down := by
  simpa [onlyIn_iff] using countUnc_only s pa
theorem countBursts_only (s : State) (pa : Nat) (f : Sector) : OnlyIn [.hbm] s (countBursts s pa f) := by
  unfold countBursts; try dsimp only
  (repeat' split) <;> simp [onlyIn_iff]
@[simp] theorem countBursts_frame (s : State) (pa : Nat) (f : Sector) :
    (countBursts s pa f).pending = s.pending ∧ (countBursts s pa f).tick = s.tick ∧ (countBursts s pa f).free = s.free ∧
    (countBursts s pa f).dev = s.dev ∧ (countBursts s pa f).boot = s.boot ∧ (countBursts s pa f).trust = s.trust ∧
    (countBursts s pa f).regs = s.regs ∧ (countBursts s pa f).link = s.link ∧ (countBursts s pa f).pwr = s.pwr ∧
    (countBursts s pa f).thm = s.thm ∧ (countBursts s pa f).evt = s.evt ∧ (countBursts s pa f).mgt = s.mgt ∧
    (countBursts s pa f).gly = s.gly ∧ (countBursts s pa f).span = s.span ∧ (countBursts s pa f).rng = s.rng ∧
    (countBursts s pa f).krn = s.krn ∧ (countBursts s pa f).mem = s.mem ∧ (countBursts s pa f).fab = s.fab ∧
    (countBursts s pa f).dbg = s.dbg ∧ (countBursts s pa f).down = s.down := by
  simpa [onlyIn_iff] using countBursts_only s pa f
theorem correctedEvents_only (s : State) (pa kind idx : Nat) (erasure : Bool) : OnlyIn [.evt, .hbm] s (correctedEvents s pa kind idx erasure) := by
  unfold correctedEvents; try dsimp only
  (repeat' split) <;> simp [onlyIn_iff]
@[simp] theorem correctedEvents_frame (s : State) (pa kind idx : Nat) (erasure : Bool) :
    (correctedEvents s pa kind idx erasure).pending = s.pending ∧ (correctedEvents s pa kind idx erasure).tick = s.tick ∧ (correctedEvents s pa kind idx erasure).free = s.free ∧
    (correctedEvents s pa kind idx erasure).dev = s.dev ∧ (correctedEvents s pa kind idx erasure).boot = s.boot ∧ (correctedEvents s pa kind idx erasure).trust = s.trust ∧
    (correctedEvents s pa kind idx erasure).regs = s.regs ∧ (correctedEvents s pa kind idx erasure).link = s.link ∧ (correctedEvents s pa kind idx erasure).pwr = s.pwr ∧
    (correctedEvents s pa kind idx erasure).thm = s.thm ∧ (correctedEvents s pa kind idx erasure).mgt = s.mgt ∧ (correctedEvents s pa kind idx erasure).gly = s.gly ∧
    (correctedEvents s pa kind idx erasure).span = s.span ∧ (correctedEvents s pa kind idx erasure).rng = s.rng ∧ (correctedEvents s pa kind idx erasure).krn = s.krn ∧
    (correctedEvents s pa kind idx erasure).mem = s.mem ∧ (correctedEvents s pa kind idx erasure).fab = s.fab ∧ (correctedEvents s pa kind idx erasure).dbg = s.dbg ∧
    (correctedEvents s pa kind idx erasure).down = s.down := by
  simpa [onlyIn_iff] using correctedEvents_only s pa kind idx erasure
theorem readSector_only (s : State) (pa : Nat) (found : Sector) (kind idx : Nat) : OnlyIn [.evt, .hbm] s (readSector s pa found kind idx) := by
  unfold readSector; try dsimp only
  (repeat' split) <;> simp [onlyIn_iff]
@[simp] theorem readSector_frame (s : State) (pa : Nat) (found : Sector) (kind idx : Nat) :
    (readSector s pa found kind idx).pending = s.pending ∧ (readSector s pa found kind idx).tick = s.tick ∧ (readSector s pa found kind idx).free = s.free ∧
    (readSector s pa found kind idx).dev = s.dev ∧ (readSector s pa found kind idx).boot = s.boot ∧ (readSector s pa found kind idx).trust = s.trust ∧
    (readSector s pa found kind idx).regs = s.regs ∧ (readSector s pa found kind idx).link = s.link ∧ (readSector s pa found kind idx).pwr = s.pwr ∧
    (readSector s pa found kind idx).thm = s.thm ∧ (readSector s pa found kind idx).mgt = s.mgt ∧ (readSector s pa found kind idx).gly = s.gly ∧
    (readSector s pa found kind idx).span = s.span ∧ (readSector s pa found kind idx).rng = s.rng ∧ (readSector s pa found kind idx).krn = s.krn ∧
    (readSector s pa found kind idx).mem = s.mem ∧ (readSector s pa found kind idx).fab = s.fab ∧ (readSector s pa found kind idx).dbg = s.dbg ∧
    (readSector s pa found kind idx).down = s.down := by
  simpa [onlyIn_iff] using readSector_only s pa found kind idx
theorem readSectors_only (s : State) (line : Nat) (lo hi : Sector) (kind idx : Nat) : OnlyIn [.evt, .hbm] s (readSectors s line lo hi kind idx) := by
  unfold readSectors; try dsimp only
  (repeat' split) <;> simp [onlyIn_iff]
@[simp] theorem readSectors_frame (s : State) (line : Nat) (lo hi : Sector) (kind idx : Nat) :
    (readSectors s line lo hi kind idx).pending = s.pending ∧ (readSectors s line lo hi kind idx).tick = s.tick ∧ (readSectors s line lo hi kind idx).free = s.free ∧
    (readSectors s line lo hi kind idx).dev = s.dev ∧ (readSectors s line lo hi kind idx).boot = s.boot ∧ (readSectors s line lo hi kind idx).trust = s.trust ∧
    (readSectors s line lo hi kind idx).regs = s.regs ∧ (readSectors s line lo hi kind idx).link = s.link ∧ (readSectors s line lo hi kind idx).pwr = s.pwr ∧
    (readSectors s line lo hi kind idx).thm = s.thm ∧ (readSectors s line lo hi kind idx).mgt = s.mgt ∧ (readSectors s line lo hi kind idx).gly = s.gly ∧
    (readSectors s line lo hi kind idx).span = s.span ∧ (readSectors s line lo hi kind idx).rng = s.rng ∧ (readSectors s line lo hi kind idx).krn = s.krn ∧
    (readSectors s line lo hi kind idx).mem = s.mem ∧ (readSectors s line lo hi kind idx).fab = s.fab ∧ (readSectors s line lo hi kind idx).dbg = s.dbg ∧
    (readSectors s line lo hi kind idx).down = s.down := by
  simpa [onlyIn_iff] using readSectors_only s line lo hi kind idx
theorem dropLine_only (s : State) (line : Nat) : OnlyIn [.mem] s (dropLine s line) := by
  unfold dropLine; try dsimp only
  (repeat' split) <;> simp [onlyIn_iff]
@[simp] theorem dropLine_frame (s : State) (line : Nat) :
    (dropLine s line).pending = s.pending ∧ (dropLine s line).tick = s.tick ∧ (dropLine s line).free = s.free ∧
    (dropLine s line).dev = s.dev ∧ (dropLine s line).boot = s.boot ∧ (dropLine s line).trust = s.trust ∧
    (dropLine s line).regs = s.regs ∧ (dropLine s line).link = s.link ∧ (dropLine s line).pwr = s.pwr ∧
    (dropLine s line).thm = s.thm ∧ (dropLine s line).evt = s.evt ∧ (dropLine s line).mgt = s.mgt ∧
    (dropLine s line).gly = s.gly ∧ (dropLine s line).span = s.span ∧ (dropLine s line).rng = s.rng ∧
    (dropLine s line).krn = s.krn ∧ (dropLine s line).hbm = s.hbm ∧ (dropLine s line).fab = s.fab ∧
    (dropLine s line).dbg = s.dbg ∧ (dropLine s line).down = s.down := by
  simpa [onlyIn_iff] using dropLine_only s line
theorem cleanLine_only (s : State) (line : Nat) : OnlyIn [.mem] s (cleanLine s line) := by
  unfold cleanLine; try dsimp only
  (repeat' split) <;> simp [onlyIn_iff]
@[simp] theorem cleanLine_frame (s : State) (line : Nat) :
    (cleanLine s line).pending = s.pending ∧ (cleanLine s line).tick = s.tick ∧ (cleanLine s line).free = s.free ∧
    (cleanLine s line).dev = s.dev ∧ (cleanLine s line).boot = s.boot ∧ (cleanLine s line).trust = s.trust ∧
    (cleanLine s line).regs = s.regs ∧ (cleanLine s line).link = s.link ∧ (cleanLine s line).pwr = s.pwr ∧
    (cleanLine s line).thm = s.thm ∧ (cleanLine s line).evt = s.evt ∧ (cleanLine s line).mgt = s.mgt ∧
    (cleanLine s line).gly = s.gly ∧ (cleanLine s line).span = s.span ∧ (cleanLine s line).rng = s.rng ∧
    (cleanLine s line).krn = s.krn ∧ (cleanLine s line).hbm = s.hbm ∧ (cleanLine s line).fab = s.fab ∧
    (cleanLine s line).dbg = s.dbg ∧ (cleanLine s line).down = s.down := by
  simpa [onlyIn_iff] using cleanLine_only s line
theorem parityMark_only (s : State) (line bad kind idx : Nat) : OnlyIn [.evt, .mem, .hbm] s (parityMark s line bad kind idx) := by
  unfold parityMark; try dsimp only
  (repeat' split) <;> simp [onlyIn_iff]
@[simp] theorem parityMark_frame (s : State) (line bad kind idx : Nat) :
    (parityMark s line bad kind idx).pending = s.pending ∧ (parityMark s line bad kind idx).tick = s.tick ∧ (parityMark s line bad kind idx).free = s.free ∧
    (parityMark s line bad kind idx).dev = s.dev ∧ (parityMark s line bad kind idx).boot = s.boot ∧ (parityMark s line bad kind idx).trust = s.trust ∧
    (parityMark s line bad kind idx).regs = s.regs ∧ (parityMark s line bad kind idx).link = s.link ∧ (parityMark s line bad kind idx).pwr = s.pwr ∧
    (parityMark s line bad kind idx).thm = s.thm ∧ (parityMark s line bad kind idx).mgt = s.mgt ∧ (parityMark s line bad kind idx).gly = s.gly ∧
    (parityMark s line bad kind idx).span = s.span ∧ (parityMark s line bad kind idx).rng = s.rng ∧ (parityMark s line bad kind idx).krn = s.krn ∧
    (parityMark s line bad kind idx).fab = s.fab ∧ (parityMark s line bad kind idx).dbg = s.dbg ∧ (parityMark s line bad kind idx).down = s.down := by
  simpa [onlyIn_iff] using parityMark_only s line bad kind idx
theorem meetUpset_only (s : State) (line whole kind idx : Nat) : OnlyIn [.evt, .mem, .hbm] s (meetUpset s line whole kind idx) := by
  unfold meetUpset; try dsimp only
  (repeat' split) <;> simp [onlyIn_iff]
@[simp] theorem meetUpset_frame (s : State) (line whole kind idx : Nat) :
    (meetUpset s line whole kind idx).pending = s.pending ∧ (meetUpset s line whole kind idx).tick = s.tick ∧ (meetUpset s line whole kind idx).free = s.free ∧
    (meetUpset s line whole kind idx).dev = s.dev ∧ (meetUpset s line whole kind idx).boot = s.boot ∧ (meetUpset s line whole kind idx).trust = s.trust ∧
    (meetUpset s line whole kind idx).regs = s.regs ∧ (meetUpset s line whole kind idx).link = s.link ∧ (meetUpset s line whole kind idx).pwr = s.pwr ∧
    (meetUpset s line whole kind idx).thm = s.thm ∧ (meetUpset s line whole kind idx).mgt = s.mgt ∧ (meetUpset s line whole kind idx).gly = s.gly ∧
    (meetUpset s line whole kind idx).span = s.span ∧ (meetUpset s line whole kind idx).rng = s.rng ∧ (meetUpset s line whole kind idx).krn = s.krn ∧
    (meetUpset s line whole kind idx).fab = s.fab ∧ (meetUpset s line whole kind idx).dbg = s.dbg ∧ (meetUpset s line whole kind idx).down = s.down := by
  simpa [onlyIn_iff] using meetUpset_only s line whole kind idx
theorem dropRow_only (s : State) (slice row : Nat) : OnlyIn [.evt, .mem, .hbm] s (dropRow s slice row) := by
  unfold dropRow; try dsimp only
  (repeat' split) <;> simp [onlyIn_iff]
@[simp] theorem dropRow_frame (s : State) (slice row : Nat) :
    (dropRow s slice row).pending = s.pending ∧ (dropRow s slice row).tick = s.tick ∧ (dropRow s slice row).free = s.free ∧
    (dropRow s slice row).dev = s.dev ∧ (dropRow s slice row).boot = s.boot ∧ (dropRow s slice row).trust = s.trust ∧
    (dropRow s slice row).regs = s.regs ∧ (dropRow s slice row).link = s.link ∧ (dropRow s slice row).pwr = s.pwr ∧
    (dropRow s slice row).thm = s.thm ∧ (dropRow s slice row).mgt = s.mgt ∧ (dropRow s slice row).gly = s.gly ∧
    (dropRow s slice row).span = s.span ∧ (dropRow s slice row).rng = s.rng ∧ (dropRow s slice row).krn = s.krn ∧
    (dropRow s slice row).fab = s.fab ∧ (dropRow s slice row).dbg = s.dbg ∧ (dropRow s slice row).down = s.down := by
  simpa [onlyIn_iff] using dropRow_only s slice row
theorem rowError_only (s : State) (slice row line : Nat) : OnlyIn [.evt, .mem, .hbm] s (rowError s slice row line) := by
  unfold rowError; try dsimp only
  (repeat' split) <;> simp [onlyIn_iff]
@[simp] theorem rowError_frame (s : State) (slice row line : Nat) :
    (rowError s slice row line).pending = s.pending ∧ (rowError s slice row line).tick = s.tick ∧ (rowError s slice row line).free = s.free ∧
    (rowError s slice row line).dev = s.dev ∧ (rowError s slice row line).boot = s.boot ∧ (rowError s slice row line).trust = s.trust ∧
    (rowError s slice row line).regs = s.regs ∧ (rowError s slice row line).link = s.link ∧ (rowError s slice row line).pwr = s.pwr ∧
    (rowError s slice row line).thm = s.thm ∧ (rowError s slice row line).mgt = s.mgt ∧ (rowError s slice row line).gly = s.gly ∧
    (rowError s slice row line).span = s.span ∧ (rowError s slice row line).rng = s.rng ∧ (rowError s slice row line).krn = s.krn ∧
    (rowError s slice row line).fab = s.fab ∧ (rowError s slice row line).dbg = s.dbg ∧ (rowError s slice row line).down = s.down := by
  simpa [onlyIn_iff] using rowError_only s slice row line
theorem parity_only (s : State) (line whole kind idx : Nat) : OnlyIn [.evt, .mem, .hbm] s (parity s line whole kind idx) := by
  unfold parity; try dsimp only
  (repeat' split) <;> simp [onlyIn_iff]
@[simp] theorem parity_frame (s : State) (line whole kind idx : Nat) :
    (parity s line whole kind idx).pending = s.pending ∧ (parity s line whole kind idx).tick = s.tick ∧ (parity s line whole kind idx).free = s.free ∧
    (parity s line whole kind idx).dev = s.dev ∧ (parity s line whole kind idx).boot = s.boot ∧ (parity s line whole kind idx).trust = s.trust ∧
    (parity s line whole kind idx).regs = s.regs ∧ (parity s line whole kind idx).link = s.link ∧ (parity s line whole kind idx).pwr = s.pwr ∧
    (parity s line whole kind idx).thm = s.thm ∧ (parity s line whole kind idx).mgt = s.mgt ∧ (parity s line whole kind idx).gly = s.gly ∧
    (parity s line whole kind idx).span = s.span ∧ (parity s line whole kind idx).rng = s.rng ∧ (parity s line whole kind idx).krn = s.krn ∧
    (parity s line whole kind idx).fab = s.fab ∧ (parity s line whole kind idx).dbg = s.dbg ∧ (parity s line whole kind idx).down = s.down := by
  simpa [onlyIn_iff] using parity_only s line whole kind idx
theorem touch_only (s : State) (line : Nat) : OnlyIn [.mem] s (touch s line) := by
  unfold touch; try dsimp only
  (repeat' split) <;> simp [onlyIn_iff]
@[simp] theorem touch_frame (s : State) (line : Nat) :
    (touch s line).pending = s.pending ∧ (touch s line).tick = s.tick ∧ (touch s line).free = s.free ∧
    (touch s line).dev = s.dev ∧ (touch s line).boot = s.boot ∧ (touch s line).trust = s.trust ∧
    (touch s line).regs = s.regs ∧ (touch s line).link = s.link ∧ (touch s line).pwr = s.pwr ∧
    (touch s line).thm = s.thm ∧ (touch s line).evt = s.evt ∧ (touch s line).mgt = s.mgt ∧
    (touch s line).gly = s.gly ∧ (touch s line).span = s.span ∧ (touch s line).rng = s.rng ∧
    (touch s line).krn = s.krn ∧ (touch s line).hbm = s.hbm ∧ (touch s line).fab = s.fab ∧
    (touch s line).dbg = s.dbg ∧ (touch s line).down = s.down := by
  simpa [onlyIn_iff] using touch_only s line
theorem writeBack_only (s : State) (line : Nat) : OnlyIn [.evt, .mem, .hbm] s (writeBack s line) := by
  unfold writeBack; try dsimp only
  (repeat' split) <;> simp [onlyIn_iff]
@[simp] theorem writeBack_frame (s : State) (line : Nat) :
    (writeBack s line).pending = s.pending ∧ (writeBack s line).tick = s.tick ∧ (writeBack s line).free = s.free ∧
    (writeBack s line).dev = s.dev ∧ (writeBack s line).boot = s.boot ∧ (writeBack s line).trust = s.trust ∧
    (writeBack s line).regs = s.regs ∧ (writeBack s line).link = s.link ∧ (writeBack s line).pwr = s.pwr ∧
    (writeBack s line).thm = s.thm ∧ (writeBack s line).mgt = s.mgt ∧ (writeBack s line).gly = s.gly ∧
    (writeBack s line).span = s.span ∧ (writeBack s line).rng = s.rng ∧ (writeBack s line).krn = s.krn ∧
    (writeBack s line).fab = s.fab ∧ (writeBack s line).dbg = s.dbg ∧ (writeBack s line).down = s.down := by
  simpa [onlyIn_iff] using writeBack_only s line
theorem install_only (s : State) (line : Nat) (v : LV) (ref : Bool) : OnlyIn [.evt, .mem, .hbm] s (install s line v ref) := by
  unfold install; try dsimp only
  (repeat' split) <;> simp [onlyIn_iff]
@[simp] theorem install_frame (s : State) (line : Nat) (v : LV) (ref : Bool) :
    (install s line v ref).pending = s.pending ∧ (install s line v ref).tick = s.tick ∧ (install s line v ref).free = s.free ∧
    (install s line v ref).dev = s.dev ∧ (install s line v ref).boot = s.boot ∧ (install s line v ref).trust = s.trust ∧
    (install s line v ref).regs = s.regs ∧ (install s line v ref).link = s.link ∧ (install s line v ref).pwr = s.pwr ∧
    (install s line v ref).thm = s.thm ∧ (install s line v ref).mgt = s.mgt ∧ (install s line v ref).gly = s.gly ∧
    (install s line v ref).span = s.span ∧ (install s line v ref).rng = s.rng ∧ (install s line v ref).krn = s.krn ∧
    (install s line v ref).fab = s.fab ∧ (install s line v ref).dbg = s.dbg ∧ (install s line v ref).down = s.down := by
  simpa [onlyIn_iff] using install_only s line v ref
theorem latNote_only (s : State) (key lat : Nat) (late : Bool) : OnlyIn [.fab] s (latNote s key lat late) := by
  unfold latNote; try dsimp only
  (repeat' split) <;> simp [onlyIn_iff]
@[simp] theorem latNote_frame (s : State) (key lat : Nat) (late : Bool) :
    (latNote s key lat late).pending = s.pending ∧ (latNote s key lat late).tick = s.tick ∧ (latNote s key lat late).free = s.free ∧
    (latNote s key lat late).dev = s.dev ∧ (latNote s key lat late).boot = s.boot ∧ (latNote s key lat late).trust = s.trust ∧
    (latNote s key lat late).regs = s.regs ∧ (latNote s key lat late).link = s.link ∧ (latNote s key lat late).pwr = s.pwr ∧
    (latNote s key lat late).thm = s.thm ∧ (latNote s key lat late).evt = s.evt ∧ (latNote s key lat late).mgt = s.mgt ∧
    (latNote s key lat late).gly = s.gly ∧ (latNote s key lat late).span = s.span ∧ (latNote s key lat late).rng = s.rng ∧
    (latNote s key lat late).krn = s.krn ∧ (latNote s key lat late).mem = s.mem ∧ (latNote s key lat late).hbm = s.hbm ∧
    (latNote s key lat late).dbg = s.dbg ∧ (latNote s key lat late).down = s.down := by
  simpa [onlyIn_iff] using latNote_only s key lat late
theorem charge_only (s : State) (key n : Nat) : OnlyIn [.fab] s (charge s key n) := by
  unfold charge; try dsimp only
  (repeat' split) <;> simp [onlyIn_iff]
@[simp] theorem charge_frame (s : State) (key n : Nat) :
    (charge s key n).pending = s.pending ∧ (charge s key n).tick = s.tick ∧ (charge s key n).free = s.free ∧
    (charge s key n).dev = s.dev ∧ (charge s key n).boot = s.boot ∧ (charge s key n).trust = s.trust ∧
    (charge s key n).regs = s.regs ∧ (charge s key n).link = s.link ∧ (charge s key n).pwr = s.pwr ∧
    (charge s key n).thm = s.thm ∧ (charge s key n).evt = s.evt ∧ (charge s key n).mgt = s.mgt ∧
    (charge s key n).gly = s.gly ∧ (charge s key n).span = s.span ∧ (charge s key n).rng = s.rng ∧
    (charge s key n).krn = s.krn ∧ (charge s key n).mem = s.mem ∧ (charge s key n).hbm = s.hbm ∧
    (charge s key n).dbg = s.dbg ∧ (charge s key n).down = s.down := by
  simpa [onlyIn_iff] using charge_only s key n
theorem latFree_only (s : State) (kind port cls n : Nat) : OnlyIn [.free, .fab] s (latFree s kind port cls n) := by
  unfold latFree; try dsimp only
  (repeat' split) <;> simp [onlyIn_iff]
@[simp] theorem latFree_frame (s : State) (kind port cls n : Nat) :
    (latFree s kind port cls n).pending = s.pending ∧ (latFree s kind port cls n).tick = s.tick ∧ (latFree s kind port cls n).dev = s.dev ∧
    (latFree s kind port cls n).boot = s.boot ∧ (latFree s kind port cls n).trust = s.trust ∧ (latFree s kind port cls n).regs = s.regs ∧
    (latFree s kind port cls n).link = s.link ∧ (latFree s kind port cls n).pwr = s.pwr ∧ (latFree s kind port cls n).thm = s.thm ∧
    (latFree s kind port cls n).evt = s.evt ∧ (latFree s kind port cls n).mgt = s.mgt ∧ (latFree s kind port cls n).gly = s.gly ∧
    (latFree s kind port cls n).span = s.span ∧ (latFree s kind port cls n).rng = s.rng ∧ (latFree s kind port cls n).krn = s.krn ∧
    (latFree s kind port cls n).mem = s.mem ∧ (latFree s kind port cls n).hbm = s.hbm ∧ (latFree s kind port cls n).dbg = s.dbg ∧
    (latFree s kind port cls n).down = s.down := by
  simpa [onlyIn_iff] using latFree_only s kind port cls n
theorem arrive_only (s : State) (id : Nat) : OnlyIn [.fab] s (arrive s id) := by
  unfold arrive; try dsimp only
  (repeat' split) <;> simp [onlyIn_iff]
@[simp] theorem arrive_frame (s : State) (id : Nat) :
    (arrive s id).pending = s.pending ∧ (arrive s id).tick = s.tick ∧ (arrive s id).free = s.free ∧
    (arrive s id).dev = s.dev ∧ (arrive s id).boot = s.boot ∧ (arrive s id).trust = s.trust ∧
    (arrive s id).regs = s.regs ∧ (arrive s id).link = s.link ∧ (arrive s id).pwr = s.pwr ∧
    (arrive s id).thm = s.thm ∧ (arrive s id).evt = s.evt ∧ (arrive s id).mgt = s.mgt ∧
    (arrive s id).gly = s.gly ∧ (arrive s id).span = s.span ∧ (arrive s id).rng = s.rng ∧
    (arrive s id).krn = s.krn ∧ (arrive s id).mem = s.mem ∧ (arrive s id).hbm = s.hbm ∧
    (arrive s id).dbg = s.dbg ∧ (arrive s id).down = s.down := by
  simpa [onlyIn_iff] using arrive_only s id
theorem arriveHost_only (s : State) (id : Nat) : OnlyIn [.free, .fab] s (arriveHost s id) := by
  unfold arriveHost; try dsimp only
  (repeat' split) <;> simp [onlyIn_iff]
@[simp] theorem arriveHost_frame (s : State) (id : Nat) :
    (arriveHost s id).pending = s.pending ∧ (arriveHost s id).tick = s.tick ∧ (arriveHost s id).dev = s.dev ∧
    (arriveHost s id).boot = s.boot ∧ (arriveHost s id).trust = s.trust ∧ (arriveHost s id).regs = s.regs ∧
    (arriveHost s id).link = s.link ∧ (arriveHost s id).pwr = s.pwr ∧ (arriveHost s id).thm = s.thm ∧
    (arriveHost s id).evt = s.evt ∧ (arriveHost s id).mgt = s.mgt ∧ (arriveHost s id).gly = s.gly ∧
    (arriveHost s id).span = s.span ∧ (arriveHost s id).rng = s.rng ∧ (arriveHost s id).krn = s.krn ∧
    (arriveHost s id).mem = s.mem ∧ (arriveHost s id).hbm = s.hbm ∧ (arriveHost s id).dbg = s.dbg ∧
    (arriveHost s id).down = s.down := by
  simpa [onlyIn_iff] using arriveHost_only s id
theorem markLate_only (s : State) (r : MemReq) : OnlyIn [.fab] s (markLate s r) := by
  unfold markLate; try dsimp only
  (repeat' split) <;> simp [onlyIn_iff]
@[simp] theorem markLate_frame (s : State) (r : MemReq) :
    (markLate s r).pending = s.pending ∧ (markLate s r).tick = s.tick ∧ (markLate s r).free = s.free ∧
    (markLate s r).dev = s.dev ∧ (markLate s r).boot = s.boot ∧ (markLate s r).trust = s.trust ∧
    (markLate s r).regs = s.regs ∧ (markLate s r).link = s.link ∧ (markLate s r).pwr = s.pwr ∧
    (markLate s r).thm = s.thm ∧ (markLate s r).evt = s.evt ∧ (markLate s r).mgt = s.mgt ∧
    (markLate s r).gly = s.gly ∧ (markLate s r).span = s.span ∧ (markLate s r).rng = s.rng ∧
    (markLate s r).krn = s.krn ∧ (markLate s r).mem = s.mem ∧ (markLate s r).hbm = s.hbm ∧
    (markLate s r).dbg = s.dbg ∧ (markLate s r).down = s.down := by
  simpa [onlyIn_iff] using markLate_only s r
theorem depart_only (s : State) (key : Nat) (r : MemReq) : OnlyIn [.mem, .fab] s (depart s key r) := by
  unfold depart; try dsimp only
  (repeat' split) <;> simp [onlyIn_iff]
@[simp] theorem depart_frame (s : State) (key : Nat) (r : MemReq) :
    (depart s key r).pending = s.pending ∧ (depart s key r).tick = s.tick ∧ (depart s key r).free = s.free ∧
    (depart s key r).dev = s.dev ∧ (depart s key r).boot = s.boot ∧ (depart s key r).trust = s.trust ∧
    (depart s key r).regs = s.regs ∧ (depart s key r).link = s.link ∧ (depart s key r).pwr = s.pwr ∧
    (depart s key r).thm = s.thm ∧ (depart s key r).evt = s.evt ∧ (depart s key r).mgt = s.mgt ∧
    (depart s key r).gly = s.gly ∧ (depart s key r).span = s.span ∧ (depart s key r).rng = s.rng ∧
    (depart s key r).krn = s.krn ∧ (depart s key r).hbm = s.hbm ∧ (depart s key r).dbg = s.dbg ∧
    (depart s key r).down = s.down := by
  simpa [onlyIn_iff] using depart_only s key r
theorem send_only (s : State) (src : Src') (cls line : Nat) (act : MemDo) (part : Nat) : OnlyIn [.mem, .fab] s (send s src cls line act part) := by
  unfold send; try dsimp only
  (repeat' split) <;> simp [onlyIn_iff]
@[simp] theorem send_frame (s : State) (src : Src') (cls line : Nat) (act : MemDo) (part : Nat) :
    (send s src cls line act part).pending = s.pending ∧ (send s src cls line act part).tick = s.tick ∧ (send s src cls line act part).free = s.free ∧
    (send s src cls line act part).dev = s.dev ∧ (send s src cls line act part).boot = s.boot ∧ (send s src cls line act part).trust = s.trust ∧
    (send s src cls line act part).regs = s.regs ∧ (send s src cls line act part).link = s.link ∧ (send s src cls line act part).pwr = s.pwr ∧
    (send s src cls line act part).thm = s.thm ∧ (send s src cls line act part).evt = s.evt ∧ (send s src cls line act part).mgt = s.mgt ∧
    (send s src cls line act part).gly = s.gly ∧ (send s src cls line act part).span = s.span ∧ (send s src cls line act part).rng = s.rng ∧
    (send s src cls line act part).krn = s.krn ∧ (send s src cls line act part).hbm = s.hbm ∧ (send s src cls line act part).dbg = s.dbg ∧
    (send s src cls line act part).down = s.down := by
  simpa [onlyIn_iff] using send_only s src cls line act part
theorem sendOut_only (s : State) (core : Nat) (o : Outst) (cls line : Nat) (act : MemDo) (part : Nat) : OnlyIn [.krn, .mem, .fab] s (sendOut s core o cls line act part) := by
  unfold sendOut; try dsimp only
  (repeat' split) <;> simp [onlyIn_iff]
@[simp] theorem sendOut_frame (s : State) (core : Nat) (o : Outst) (cls line : Nat) (act : MemDo) (part : Nat) :
    (sendOut s core o cls line act part).pending = s.pending ∧ (sendOut s core o cls line act part).tick = s.tick ∧ (sendOut s core o cls line act part).free = s.free ∧
    (sendOut s core o cls line act part).dev = s.dev ∧ (sendOut s core o cls line act part).boot = s.boot ∧ (sendOut s core o cls line act part).trust = s.trust ∧
    (sendOut s core o cls line act part).regs = s.regs ∧ (sendOut s core o cls line act part).link = s.link ∧ (sendOut s core o cls line act part).pwr = s.pwr ∧
    (sendOut s core o cls line act part).thm = s.thm ∧ (sendOut s core o cls line act part).evt = s.evt ∧ (sendOut s core o cls line act part).mgt = s.mgt ∧
    (sendOut s core o cls line act part).gly = s.gly ∧ (sendOut s core o cls line act part).span = s.span ∧ (sendOut s core o cls line act part).rng = s.rng ∧
    (sendOut s core o cls line act part).hbm = s.hbm ∧ (sendOut s core o cls line act part).dbg = s.dbg ∧ (sendOut s core o cls line act part).down = s.down := by
  simpa [onlyIn_iff] using sendOut_only s core o cls line act part
theorem l1WriteBack_only (s : State) (core slot : Nat) (l : L1Line) (part cls : Nat) : OnlyIn [.krn, .mem, .fab] s (l1WriteBack s core slot l part cls) := by
  unfold l1WriteBack; try dsimp only
  (repeat' split) <;> simp [onlyIn_iff]
@[simp] theorem l1WriteBack_frame (s : State) (core slot : Nat) (l : L1Line) (part cls : Nat) :
    (l1WriteBack s core slot l part cls).pending = s.pending ∧ (l1WriteBack s core slot l part cls).tick = s.tick ∧ (l1WriteBack s core slot l part cls).free = s.free ∧
    (l1WriteBack s core slot l part cls).dev = s.dev ∧ (l1WriteBack s core slot l part cls).boot = s.boot ∧ (l1WriteBack s core slot l part cls).trust = s.trust ∧
    (l1WriteBack s core slot l part cls).regs = s.regs ∧ (l1WriteBack s core slot l part cls).link = s.link ∧ (l1WriteBack s core slot l part cls).pwr = s.pwr ∧
    (l1WriteBack s core slot l part cls).thm = s.thm ∧ (l1WriteBack s core slot l part cls).evt = s.evt ∧ (l1WriteBack s core slot l part cls).mgt = s.mgt ∧
    (l1WriteBack s core slot l part cls).gly = s.gly ∧ (l1WriteBack s core slot l part cls).span = s.span ∧ (l1WriteBack s core slot l part cls).rng = s.rng ∧
    (l1WriteBack s core slot l part cls).hbm = s.hbm ∧ (l1WriteBack s core slot l part cls).dbg = s.dbg ∧ (l1WriteBack s core slot l part cls).down = s.down := by
  simpa [onlyIn_iff] using l1WriteBack_only s core slot l part cls
theorem l1Put_only (s : State) (core slot line : Nat) (bs : List (Nat × Byte)) (dirty : Bool) (pois part cls : Nat) : OnlyIn [.free, .krn, .mem, .fab] s (l1Put s core slot line bs dirty pois part cls) := by
  unfold l1Put; try dsimp only
  (repeat' split) <;> simp [onlyIn_iff]
@[simp] theorem l1Put_frame (s : State) (core slot line : Nat) (bs : List (Nat × Byte)) (dirty : Bool) (pois part cls : Nat) :
    (l1Put s core slot line bs dirty pois part cls).pending = s.pending ∧ (l1Put s core slot line bs dirty pois part cls).tick = s.tick ∧ (l1Put s core slot line bs dirty pois part cls).dev = s.dev ∧
    (l1Put s core slot line bs dirty pois part cls).boot = s.boot ∧ (l1Put s core slot line bs dirty pois part cls).trust = s.trust ∧ (l1Put s core slot line bs dirty pois part cls).regs = s.regs ∧
    (l1Put s core slot line bs dirty pois part cls).link = s.link ∧ (l1Put s core slot line bs dirty pois part cls).pwr = s.pwr ∧ (l1Put s core slot line bs dirty pois part cls).thm = s.thm ∧
    (l1Put s core slot line bs dirty pois part cls).evt = s.evt ∧ (l1Put s core slot line bs dirty pois part cls).mgt = s.mgt ∧ (l1Put s core slot line bs dirty pois part cls).gly = s.gly ∧
    (l1Put s core slot line bs dirty pois part cls).span = s.span ∧ (l1Put s core slot line bs dirty pois part cls).rng = s.rng ∧ (l1Put s core slot line bs dirty pois part cls).hbm = s.hbm ∧
    (l1Put s core slot line bs dirty pois part cls).dbg = s.dbg ∧ (l1Put s core slot line bs dirty pois part cls).down = s.down := by
  simpa [onlyIn_iff] using l1Put_only s core slot line bs dirty pois part cls
theorem afterAtom_only (s : State) (core slot : Nat) (r : MemReq) (v : LV) : OnlyIn [.krn] s (afterAtom s core slot r v) := by
  unfold afterAtom; try dsimp only
  (repeat' split) <;> simp [onlyIn_iff]
@[simp] theorem afterAtom_frame (s : State) (core slot : Nat) (r : MemReq) (v : LV) :
    (afterAtom s core slot r v).pending = s.pending ∧ (afterAtom s core slot r v).tick = s.tick ∧ (afterAtom s core slot r v).free = s.free ∧
    (afterAtom s core slot r v).dev = s.dev ∧ (afterAtom s core slot r v).boot = s.boot ∧ (afterAtom s core slot r v).trust = s.trust ∧
    (afterAtom s core slot r v).regs = s.regs ∧ (afterAtom s core slot r v).link = s.link ∧ (afterAtom s core slot r v).pwr = s.pwr ∧
    (afterAtom s core slot r v).thm = s.thm ∧ (afterAtom s core slot r v).evt = s.evt ∧ (afterAtom s core slot r v).mgt = s.mgt ∧
    (afterAtom s core slot r v).gly = s.gly ∧ (afterAtom s core slot r v).span = s.span ∧ (afterAtom s core slot r v).rng = s.rng ∧
    (afterAtom s core slot r v).mem = s.mem ∧ (afterAtom s core slot r v).hbm = s.hbm ∧ (afterAtom s core slot r v).fab = s.fab ∧
    (afterAtom s core slot r v).dbg = s.dbg ∧ (afterAtom s core slot r v).down = s.down := by
  simpa [onlyIn_iff] using afterAtom_only s core slot r v
theorem answer_only (s : State) (r : MemReq) (v : Option LV) (whole : Bool) : OnlyIn [.free, .evt, .krn, .mem, .fab] s (answer s r v whole) := by
  unfold answer; try dsimp only
  (repeat' split) <;> simp [onlyIn_iff]
@[simp] theorem answer_frame (s : State) (r : MemReq) (v : Option LV) (whole : Bool) :
    (answer s r v whole).pending = s.pending ∧ (answer s r v whole).tick = s.tick ∧ (answer s r v whole).dev = s.dev ∧
    (answer s r v whole).boot = s.boot ∧ (answer s r v whole).trust = s.trust ∧ (answer s r v whole).regs = s.regs ∧
    (answer s r v whole).link = s.link ∧ (answer s r v whole).pwr = s.pwr ∧ (answer s r v whole).thm = s.thm ∧
    (answer s r v whole).mgt = s.mgt ∧ (answer s r v whole).gly = s.gly ∧ (answer s r v whole).span = s.span ∧
    (answer s r v whole).rng = s.rng ∧ (answer s r v whole).hbm = s.hbm ∧ (answer s r v whole).dbg = s.dbg ∧
    (answer s r v whole).down = s.down := by
  simpa [onlyIn_iff] using answer_only s r v whole
theorem perform_only (s : State) (r : MemReq) (whole : Bool) : OnlyIn [.free, .evt, .krn, .mem, .hbm, .fab] s (perform s r whole) := by
  unfold perform; try dsimp only
  (repeat' split) <;> simp [onlyIn_iff]
@[simp] theorem perform_frame (s : State) (r : MemReq) (whole : Bool) :
    (perform s r whole).pending = s.pending ∧ (perform s r whole).tick = s.tick ∧ (perform s r whole).dev = s.dev ∧
    (perform s r whole).boot = s.boot ∧ (perform s r whole).trust = s.trust ∧ (perform s r whole).regs = s.regs ∧
    (perform s r whole).link = s.link ∧ (perform s r whole).pwr = s.pwr ∧ (perform s r whole).thm = s.thm ∧
    (perform s r whole).mgt = s.mgt ∧ (perform s r whole).gly = s.gly ∧ (perform s r whole).span = s.span ∧
    (perform s r whole).rng = s.rng ∧ (perform s r whole).dbg = s.dbg ∧ (perform s r whole).down = s.down := by
  simpa [onlyIn_iff] using perform_only s r whole
theorem deadEvent_only (s : State) (d : Dead) (line kind idx : Nat) : OnlyIn [.evt, .mem] s (deadEvent s d line kind idx) := by
  unfold deadEvent; try dsimp only
  (repeat' split) <;> simp [onlyIn_iff]
@[simp] theorem deadEvent_frame (s : State) (d : Dead) (line kind idx : Nat) :
    (deadEvent s d line kind idx).pending = s.pending ∧ (deadEvent s d line kind idx).tick = s.tick ∧ (deadEvent s d line kind idx).free = s.free ∧
    (deadEvent s d line kind idx).dev = s.dev ∧ (deadEvent s d line kind idx).boot = s.boot ∧ (deadEvent s d line kind idx).trust = s.trust ∧
    (deadEvent s d line kind idx).regs = s.regs ∧ (deadEvent s d line kind idx).link = s.link ∧ (deadEvent s d line kind idx).pwr = s.pwr ∧
    (deadEvent s d line kind idx).thm = s.thm ∧ (deadEvent s d line kind idx).mgt = s.mgt ∧ (deadEvent s d line kind idx).gly = s.gly ∧
    (deadEvent s d line kind idx).span = s.span ∧ (deadEvent s d line kind idx).rng = s.rng ∧ (deadEvent s d line kind idx).krn = s.krn ∧
    (deadEvent s d line kind idx).hbm = s.hbm ∧ (deadEvent s d line kind idx).fab = s.fab ∧ (deadEvent s d line kind idx).dbg = s.dbg ∧
    (deadEvent s d line kind idx).down = s.down := by
  simpa [onlyIn_iff] using deadEvent_only s d line kind idx
theorem deadReq_only (s : State) (r : MemReq) (d : Dead) : OnlyIn [.free, .evt, .krn, .mem, .fab] s (deadReq s r d) := by
  unfold deadReq; try dsimp only
  (repeat' split) <;> simp [onlyIn_iff]
@[simp] theorem deadReq_frame (s : State) (r : MemReq) (d : Dead) :
    (deadReq s r d).pending = s.pending ∧ (deadReq s r d).tick = s.tick ∧ (deadReq s r d).dev = s.dev ∧
    (deadReq s r d).boot = s.boot ∧ (deadReq s r d).trust = s.trust ∧ (deadReq s r d).regs = s.regs ∧
    (deadReq s r d).link = s.link ∧ (deadReq s r d).pwr = s.pwr ∧ (deadReq s r d).thm = s.thm ∧
    (deadReq s r d).mgt = s.mgt ∧ (deadReq s r d).gly = s.gly ∧ (deadReq s r d).span = s.span ∧
    (deadReq s r d).rng = s.rng ∧ (deadReq s r d).hbm = s.hbm ∧ (deadReq s r d).dbg = s.dbg ∧
    (deadReq s r d).down = s.down := by
  simpa [onlyIn_iff] using deadReq_only s r d
theorem passBy_only (r : MemReq) (whole : Bool) (a : State × LV × Bool) :
    OnlyIn [.free, .evt, .krn, .mem, .fab] a.1 (passBy r whole a).1 := by
  unfold passBy; dsimp only
  (repeat' split) <;> simp [onlyIn_iff]
theorem fillDone_only (s : State) (m : Miss) (v : LV) : OnlyIn [.free, .evt, .krn, .mem, .hbm, .fab] s (fillDone s m v) := by
  unfold fillDone; dsimp only
  split
  · refine onlyIn_trans ?_ (onlyIn_foldl _ (fun s x => perform_only s _ _) _ _)
    simp [onlyIn_iff]
  · have h : ∀ (l : List (MemReq × Nat)) (a : State × LV × Bool), OnlyIn [.free, .evt, .krn, .mem, .hbm, .fab] a.1
        (l.foldl (fun a x => passBy x.1 (m.multicast && x.2 < (m.waiters.takeWhile (fun r => r.act == .read)).length) a) a).1 :=
      onlyIn_foldl_fst _ (fun a x => onlyIn_mono (passBy_only x.1 _ a) (by decide))
    refine onlyIn_trans (t := install { s with mem := { s.mem with miss := s.mem.miss.filter (fun x => x.line != m.line) } } m.line v m.ref)
      (by simp [onlyIn_iff]) ?_
    split
    · exact onlyIn_then (putHbm_only _ _ _) (by decide) (h _ (_, v, false))
    · exact h _ (_, v, false)
@[simp] theorem fillDone_frame (s : State) (m : Miss) (v : LV) :
    (fillDone s m v).pending = s.pending ∧ (fillDone s m v).tick = s.tick ∧ (fillDone s m v).dev = s.dev ∧
    (fillDone s m v).boot = s.boot ∧ (fillDone s m v).trust = s.trust ∧ (fillDone s m v).regs = s.regs ∧
    (fillDone s m v).link = s.link ∧ (fillDone s m v).pwr = s.pwr ∧ (fillDone s m v).thm = s.thm ∧
    (fillDone s m v).mgt = s.mgt ∧ (fillDone s m v).gly = s.gly ∧ (fillDone s m v).span = s.span ∧
    (fillDone s m v).rng = s.rng ∧ (fillDone s m v).dbg = s.dbg ∧ (fillDone s m v).down = s.down := by
  simpa [onlyIn_iff] using fillDone_only s m v
theorem fillWith_only (s : State) (m : Miss) (lo hi : Sector) : OnlyIn [.free, .evt, .krn, .mem, .hbm, .fab] s (fillWith s m lo hi) := by
  unfold fillWith; try dsimp only
  (repeat' split) <;> simp [onlyIn_iff]
@[simp] theorem fillWith_frame (s : State) (m : Miss) (lo hi : Sector) :
    (fillWith s m lo hi).pending = s.pending ∧ (fillWith s m lo hi).tick = s.tick ∧ (fillWith s m lo hi).dev = s.dev ∧
    (fillWith s m lo hi).boot = s.boot ∧ (fillWith s m lo hi).trust = s.trust ∧ (fillWith s m lo hi).regs = s.regs ∧
    (fillWith s m lo hi).link = s.link ∧ (fillWith s m lo hi).pwr = s.pwr ∧ (fillWith s m lo hi).thm = s.thm ∧
    (fillWith s m lo hi).mgt = s.mgt ∧ (fillWith s m lo hi).gly = s.gly ∧ (fillWith s m lo hi).span = s.span ∧
    (fillWith s m lo hi).rng = s.rng ∧ (fillWith s m lo hi).dbg = s.dbg ∧ (fillWith s m lo hi).down = s.down := by
  simpa [onlyIn_iff] using fillWith_only s m lo hi
theorem fetchLine_only (s : State) (line kind idx : Nat) : OnlyIn [.evt, .mem, .hbm] s (fetchLine s line kind idx) := by
  unfold fetchLine; try dsimp only
  (repeat' split) <;> simp [onlyIn_iff]
@[simp] theorem fetchLine_frame (s : State) (line kind idx : Nat) :
    (fetchLine s line kind idx).pending = s.pending ∧ (fetchLine s line kind idx).tick = s.tick ∧ (fetchLine s line kind idx).free = s.free ∧
    (fetchLine s line kind idx).dev = s.dev ∧ (fetchLine s line kind idx).boot = s.boot ∧ (fetchLine s line kind idx).trust = s.trust ∧
    (fetchLine s line kind idx).regs = s.regs ∧ (fetchLine s line kind idx).link = s.link ∧ (fetchLine s line kind idx).pwr = s.pwr ∧
    (fetchLine s line kind idx).thm = s.thm ∧ (fetchLine s line kind idx).mgt = s.mgt ∧ (fetchLine s line kind idx).gly = s.gly ∧
    (fetchLine s line kind idx).span = s.span ∧ (fetchLine s line kind idx).rng = s.rng ∧ (fetchLine s line kind idx).krn = s.krn ∧
    (fetchLine s line kind idx).fab = s.fab ∧ (fetchLine s line kind idx).dbg = s.dbg ∧ (fetchLine s line kind idx).down = s.down := by
  simpa [onlyIn_iff] using fetchLine_only s line kind idx
theorem drainRed_only (s : State) (line : Nat) : OnlyIn [.free, .evt, .krn, .mem, .hbm, .fab] s (drainRed s line) := by
  unfold drainRed; try dsimp only
  (repeat' split) <;> simp [onlyIn_iff]
@[simp] theorem drainRed_frame (s : State) (line : Nat) :
    (drainRed s line).pending = s.pending ∧ (drainRed s line).tick = s.tick ∧ (drainRed s line).dev = s.dev ∧
    (drainRed s line).boot = s.boot ∧ (drainRed s line).trust = s.trust ∧ (drainRed s line).regs = s.regs ∧
    (drainRed s line).link = s.link ∧ (drainRed s line).pwr = s.pwr ∧ (drainRed s line).thm = s.thm ∧
    (drainRed s line).mgt = s.mgt ∧ (drainRed s line).gly = s.gly ∧ (drainRed s line).span = s.span ∧
    (drainRed s line).rng = s.rng ∧ (drainRed s line).dbg = s.dbg ∧ (drainRed s line).down = s.down := by
  simpa [onlyIn_iff] using drainRed_only s line
theorem sideOne_only (s : State) (r : MemReq) (lo hi : Sector) : OnlyIn [.free, .evt, .krn, .mem, .hbm, .fab] s (sideOne s r lo hi) := by
  unfold sideOne; try dsimp only
  (repeat' split) <;> simp [onlyIn_iff]
@[simp] theorem sideOne_frame (s : State) (r : MemReq) (lo hi : Sector) :
    (sideOne s r lo hi).pending = s.pending ∧ (sideOne s r lo hi).tick = s.tick ∧ (sideOne s r lo hi).dev = s.dev ∧
    (sideOne s r lo hi).boot = s.boot ∧ (sideOne s r lo hi).trust = s.trust ∧ (sideOne s r lo hi).regs = s.regs ∧
    (sideOne s r lo hi).link = s.link ∧ (sideOne s r lo hi).pwr = s.pwr ∧ (sideOne s r lo hi).thm = s.thm ∧
    (sideOne s r lo hi).mgt = s.mgt ∧ (sideOne s r lo hi).gly = s.gly ∧ (sideOne s r lo hi).span = s.span ∧
    (sideOne s r lo hi).rng = s.rng ∧ (sideOne s r lo hi).dbg = s.dbg ∧ (sideOne s r lo hi).down = s.down := by
  simpa [onlyIn_iff] using sideOne_only s r lo hi
theorem foreignEvent_only (s : State) (part a kind idx : Nat) : OnlyIn [.evt] s (foreignEvent s part a kind idx) := by
  unfold foreignEvent; try dsimp only
  (repeat' split) <;> simp [onlyIn_iff]
@[simp] theorem foreignEvent_frame (s : State) (part a kind idx : Nat) :
    (foreignEvent s part a kind idx).pending = s.pending ∧ (foreignEvent s part a kind idx).tick = s.tick ∧ (foreignEvent s part a kind idx).free = s.free ∧
    (foreignEvent s part a kind idx).dev = s.dev ∧ (foreignEvent s part a kind idx).boot = s.boot ∧ (foreignEvent s part a kind idx).trust = s.trust ∧
    (foreignEvent s part a kind idx).regs = s.regs ∧ (foreignEvent s part a kind idx).link = s.link ∧ (foreignEvent s part a kind idx).pwr = s.pwr ∧
    (foreignEvent s part a kind idx).thm = s.thm ∧ (foreignEvent s part a kind idx).mgt = s.mgt ∧ (foreignEvent s part a kind idx).gly = s.gly ∧
    (foreignEvent s part a kind idx).span = s.span ∧ (foreignEvent s part a kind idx).rng = s.rng ∧ (foreignEvent s part a kind idx).krn = s.krn ∧
    (foreignEvent s part a kind idx).mem = s.mem ∧ (foreignEvent s part a kind idx).hbm = s.hbm ∧ (foreignEvent s part a kind idx).fab = s.fab ∧
    (foreignEvent s part a kind idx).dbg = s.dbg ∧ (foreignEvent s part a kind idx).down = s.down := by
  simpa [onlyIn_iff] using foreignEvent_only s part a kind idx
theorem turnAway_only (s : State) (r : MemReq) (w : Away) : OnlyIn [.free, .evt, .krn, .mem, .fab] s (turnAway s r w) := by
  unfold turnAway; try dsimp only
  (repeat' split) <;> simp [onlyIn_iff]
@[simp] theorem turnAway_frame (s : State) (r : MemReq) (w : Away) :
    (turnAway s r w).pending = s.pending ∧ (turnAway s r w).tick = s.tick ∧ (turnAway s r w).dev = s.dev ∧
    (turnAway s r w).boot = s.boot ∧ (turnAway s r w).trust = s.trust ∧ (turnAway s r w).regs = s.regs ∧
    (turnAway s r w).link = s.link ∧ (turnAway s r w).pwr = s.pwr ∧ (turnAway s r w).thm = s.thm ∧
    (turnAway s r w).mgt = s.mgt ∧ (turnAway s r w).gly = s.gly ∧ (turnAway s r w).span = s.span ∧
    (turnAway s r w).rng = s.rng ∧ (turnAway s r w).hbm = s.hbm ∧ (turnAway s r w).dbg = s.dbg ∧
    (turnAway s r w).down = s.down := by
  simpa [onlyIn_iff] using turnAway_only s r w
theorem settleLine_only (s : State) (line : Nat) : OnlyIn [.free, .evt, .krn, .mem, .hbm, .fab] s (settleLine s line) := by
  unfold settleLine; try dsimp only
  (repeat' split) <;> simp [onlyIn_iff]
@[simp] theorem settleLine_frame (s : State) (line : Nat) :
    (settleLine s line).pending = s.pending ∧ (settleLine s line).tick = s.tick ∧ (settleLine s line).dev = s.dev ∧
    (settleLine s line).boot = s.boot ∧ (settleLine s line).trust = s.trust ∧ (settleLine s line).regs = s.regs ∧
    (settleLine s line).link = s.link ∧ (settleLine s line).pwr = s.pwr ∧ (settleLine s line).thm = s.thm ∧
    (settleLine s line).mgt = s.mgt ∧ (settleLine s line).gly = s.gly ∧ (settleLine s line).span = s.span ∧
    (settleLine s line).rng = s.rng ∧ (settleLine s line).dbg = s.dbg ∧ (settleLine s line).down = s.down := by
  simpa [onlyIn_iff] using settleLine_only s line
theorem performNow_only (s : State) (r : MemReq) : OnlyIn [.free, .evt, .krn, .mem, .hbm, .fab] s (performNow s r) := by
  unfold performNow; try dsimp only
  (repeat' split) <;> simp [onlyIn_iff]
@[simp] theorem performNow_frame (s : State) (r : MemReq) :
    (performNow s r).pending = s.pending ∧ (performNow s r).tick = s.tick ∧ (performNow s r).dev = s.dev ∧
    (performNow s r).boot = s.boot ∧ (performNow s r).trust = s.trust ∧ (performNow s r).regs = s.regs ∧
    (performNow s r).link = s.link ∧ (performNow s r).pwr = s.pwr ∧ (performNow s r).thm = s.thm ∧
    (performNow s r).mgt = s.mgt ∧ (performNow s r).gly = s.gly ∧ (performNow s r).span = s.span ∧
    (performNow s r).rng = s.rng ∧ (performNow s r).dbg = s.dbg ∧ (performNow s r).down = s.down := by
  simpa [onlyIn_iff] using performNow_only s r
theorem drainLine_only (s : State) (line : Nat) : OnlyIn [.free, .evt, .krn, .mem, .hbm, .fab] s (drainLine s line) := by
  unfold drainLine; try dsimp only
  (repeat' split) <;> simp [onlyIn_iff]
@[simp] theorem drainLine_frame (s : State) (line : Nat) :
    (drainLine s line).pending = s.pending ∧ (drainLine s line).tick = s.tick ∧ (drainLine s line).dev = s.dev ∧
    (drainLine s line).boot = s.boot ∧ (drainLine s line).trust = s.trust ∧ (drainLine s line).regs = s.regs ∧
    (drainLine s line).link = s.link ∧ (drainLine s line).pwr = s.pwr ∧ (drainLine s line).thm = s.thm ∧
    (drainLine s line).mgt = s.mgt ∧ (drainLine s line).gly = s.gly ∧ (drainLine s line).span = s.span ∧
    (drainLine s line).rng = s.rng ∧ (drainLine s line).dbg = s.dbg ∧ (drainLine s line).down = s.down := by
  simpa [onlyIn_iff] using drainLine_only s line
theorem noteRead_only (s : State) (kind idx line : Nat) : OnlyIn [.evt, .mem, .hbm] s (noteRead s kind idx line) := by
  unfold noteRead; try dsimp only
  (repeat' split) <;> simp [onlyIn_iff]
@[simp] theorem noteRead_frame (s : State) (kind idx line : Nat) :
    (noteRead s kind idx line).pending = s.pending ∧ (noteRead s kind idx line).tick = s.tick ∧ (noteRead s kind idx line).free = s.free ∧
    (noteRead s kind idx line).dev = s.dev ∧ (noteRead s kind idx line).boot = s.boot ∧ (noteRead s kind idx line).trust = s.trust ∧
    (noteRead s kind idx line).regs = s.regs ∧ (noteRead s kind idx line).link = s.link ∧ (noteRead s kind idx line).pwr = s.pwr ∧
    (noteRead s kind idx line).thm = s.thm ∧ (noteRead s kind idx line).mgt = s.mgt ∧ (noteRead s kind idx line).gly = s.gly ∧
    (noteRead s kind idx line).span = s.span ∧ (noteRead s kind idx line).rng = s.rng ∧ (noteRead s kind idx line).krn = s.krn ∧
    (noteRead s kind idx line).fab = s.fab ∧ (noteRead s kind idx line).dbg = s.dbg ∧ (noteRead s kind idx line).down = s.down := by
  simpa [onlyIn_iff] using noteRead_only s kind idx line
theorem noteReads_only (s : State) (kind idx pa n : Nat) : OnlyIn [.evt, .mem, .hbm] s (noteReads s kind idx pa n) := by
  unfold noteReads; try dsimp only
  (repeat' split) <;> simp [onlyIn_iff]
@[simp] theorem noteReads_frame (s : State) (kind idx pa n : Nat) :
    (noteReads s kind idx pa n).pending = s.pending ∧ (noteReads s kind idx pa n).tick = s.tick ∧ (noteReads s kind idx pa n).free = s.free ∧
    (noteReads s kind idx pa n).dev = s.dev ∧ (noteReads s kind idx pa n).boot = s.boot ∧ (noteReads s kind idx pa n).trust = s.trust ∧
    (noteReads s kind idx pa n).regs = s.regs ∧ (noteReads s kind idx pa n).link = s.link ∧ (noteReads s kind idx pa n).pwr = s.pwr ∧
    (noteReads s kind idx pa n).thm = s.thm ∧ (noteReads s kind idx pa n).mgt = s.mgt ∧ (noteReads s kind idx pa n).gly = s.gly ∧
    (noteReads s kind idx pa n).span = s.span ∧ (noteReads s kind idx pa n).rng = s.rng ∧ (noteReads s kind idx pa n).krn = s.krn ∧
    (noteReads s kind idx pa n).fab = s.fab ∧ (noteReads s kind idx pa n).dbg = s.dbg ∧ (noteReads s kind idx pa n).down = s.down := by
  simpa [onlyIn_iff] using noteReads_only s kind idx pa n
theorem trimDead_only (s : State) (first last : Nat) (ev : Bool) : OnlyIn [.evt, .mem] s (trimDead s first last ev) := by
  refine onlyIn_foldl _ (fun s d => ?_) _ _
  dsimp only
  (repeat' split) <;> simp [onlyIn_iff]
@[simp] theorem trimDead_frame (s : State) (first last : Nat) (ev : Bool) :
    (trimDead s first last ev).pending = s.pending ∧ (trimDead s first last ev).tick = s.tick ∧ (trimDead s first last ev).free = s.free ∧
    (trimDead s first last ev).dev = s.dev ∧ (trimDead s first last ev).boot = s.boot ∧ (trimDead s first last ev).trust = s.trust ∧
    (trimDead s first last ev).regs = s.regs ∧ (trimDead s first last ev).link = s.link ∧ (trimDead s first last ev).pwr = s.pwr ∧
    (trimDead s first last ev).thm = s.thm ∧ (trimDead s first last ev).mgt = s.mgt ∧ (trimDead s first last ev).gly = s.gly ∧
    (trimDead s first last ev).span = s.span ∧ (trimDead s first last ev).rng = s.rng ∧ (trimDead s first last ev).krn = s.krn ∧
    (trimDead s first last ev).hbm = s.hbm ∧ (trimDead s first last ev).fab = s.fab ∧ (trimDead s first last ev).dbg = s.dbg ∧
    (trimDead s first last ev).down = s.down := by
  simpa [onlyIn_iff] using trimDead_only s first last ev
theorem writeLine_only (s : State) (kind idx line : Nat) (bs : List (Nat × MByte)) (trim : Bool) : OnlyIn [.free, .evt, .krn, .mem, .hbm, .fab] s (writeLine s kind idx line bs trim).1 := by
  unfold writeLine; try dsimp only
  (repeat' split) <;> simp [onlyIn_iff]
@[simp] theorem writeLine_frame (s : State) (kind idx line : Nat) (bs : List (Nat × MByte)) (trim : Bool) :
    (writeLine s kind idx line bs trim).1.pending = s.pending ∧ (writeLine s kind idx line bs trim).1.tick = s.tick ∧ (writeLine s kind idx line bs trim).1.dev = s.dev ∧
    (writeLine s kind idx line bs trim).1.boot = s.boot ∧ (writeLine s kind idx line bs trim).1.trust = s.trust ∧ (writeLine s kind idx line bs trim).1.regs = s.regs ∧
    (writeLine s kind idx line bs trim).1.link = s.link ∧ (writeLine s kind idx line bs trim).1.pwr = s.pwr ∧ (writeLine s kind idx line bs trim).1.thm = s.thm ∧
    (writeLine s kind idx line bs trim).1.mgt = s.mgt ∧ (writeLine s kind idx line bs trim).1.gly = s.gly ∧ (writeLine s kind idx line bs trim).1.span = s.span ∧
    (writeLine s kind idx line bs trim).1.rng = s.rng ∧ (writeLine s kind idx line bs trim).1.dbg = s.dbg ∧ (writeLine s kind idx line bs trim).1.down = s.down := by
  simpa [onlyIn_iff] using writeLine_only s kind idx line bs trim
theorem writeMem_only (s : State) (kind idx pa : Nat) (bs : List MByte) (trim : Bool) : OnlyIn [.free, .evt, .krn, .mem, .hbm, .fab] s (writeMem s kind idx pa bs trim).1 := by
  unfold writeMem; try dsimp only
  (repeat' split) <;> simp [onlyIn_iff]
@[simp] theorem writeMem_frame (s : State) (kind idx pa : Nat) (bs : List MByte) (trim : Bool) :
    (writeMem s kind idx pa bs trim).1.pending = s.pending ∧ (writeMem s kind idx pa bs trim).1.tick = s.tick ∧ (writeMem s kind idx pa bs trim).1.dev = s.dev ∧
    (writeMem s kind idx pa bs trim).1.boot = s.boot ∧ (writeMem s kind idx pa bs trim).1.trust = s.trust ∧ (writeMem s kind idx pa bs trim).1.regs = s.regs ∧
    (writeMem s kind idx pa bs trim).1.link = s.link ∧ (writeMem s kind idx pa bs trim).1.pwr = s.pwr ∧ (writeMem s kind idx pa bs trim).1.thm = s.thm ∧
    (writeMem s kind idx pa bs trim).1.mgt = s.mgt ∧ (writeMem s kind idx pa bs trim).1.gly = s.gly ∧ (writeMem s kind idx pa bs trim).1.span = s.span ∧
    (writeMem s kind idx pa bs trim).1.rng = s.rng ∧ (writeMem s kind idx pa bs trim).1.dbg = s.dbg ∧ (writeMem s kind idx pa bs trim).1.down = s.down := by
  simpa [onlyIn_iff] using writeMem_only s kind idx pa bs trim
theorem writeClean_only (s : State) (kind idx pa : Nat) (b : Bytes) : OnlyIn [.free, .evt, .krn, .mem, .hbm, .fab] s (writeClean s kind idx pa b).1 := by
  unfold writeClean; try dsimp only
  (repeat' split) <;> simp [onlyIn_iff]
@[simp] theorem writeClean_frame (s : State) (kind idx pa : Nat) (b : Bytes) :
    (writeClean s kind idx pa b).1.pending = s.pending ∧ (writeClean s kind idx pa b).1.tick = s.tick ∧ (writeClean s kind idx pa b).1.dev = s.dev ∧
    (writeClean s kind idx pa b).1.boot = s.boot ∧ (writeClean s kind idx pa b).1.trust = s.trust ∧ (writeClean s kind idx pa b).1.regs = s.regs ∧
    (writeClean s kind idx pa b).1.link = s.link ∧ (writeClean s kind idx pa b).1.pwr = s.pwr ∧ (writeClean s kind idx pa b).1.thm = s.thm ∧
    (writeClean s kind idx pa b).1.mgt = s.mgt ∧ (writeClean s kind idx pa b).1.gly = s.gly ∧ (writeClean s kind idx pa b).1.span = s.span ∧
    (writeClean s kind idx pa b).1.rng = s.rng ∧ (writeClean s kind idx pa b).1.dbg = s.dbg ∧ (writeClean s kind idx pa b).1.down = s.down := by
  simpa [onlyIn_iff] using writeClean_only s kind idx pa b
theorem noteWalk_only (s : State) (ctx va kind idx : Nat) : OnlyIn [.evt, .mem] s (noteWalk s ctx va kind idx) := by
  refine onlyIn_foldl _ (fun s l => ?_) _ _
  (repeat' split) <;> simp [onlyIn_iff]
@[simp] theorem noteWalk_frame (s : State) (ctx va kind idx : Nat) :
    (noteWalk s ctx va kind idx).pending = s.pending ∧ (noteWalk s ctx va kind idx).tick = s.tick ∧ (noteWalk s ctx va kind idx).free = s.free ∧
    (noteWalk s ctx va kind idx).dev = s.dev ∧ (noteWalk s ctx va kind idx).boot = s.boot ∧ (noteWalk s ctx va kind idx).trust = s.trust ∧
    (noteWalk s ctx va kind idx).regs = s.regs ∧ (noteWalk s ctx va kind idx).link = s.link ∧ (noteWalk s ctx va kind idx).pwr = s.pwr ∧
    (noteWalk s ctx va kind idx).thm = s.thm ∧ (noteWalk s ctx va kind idx).mgt = s.mgt ∧ (noteWalk s ctx va kind idx).gly = s.gly ∧
    (noteWalk s ctx va kind idx).span = s.span ∧ (noteWalk s ctx va kind idx).rng = s.rng ∧ (noteWalk s ctx va kind idx).krn = s.krn ∧
    (noteWalk s ctx va kind idx).hbm = s.hbm ∧ (noteWalk s ctx va kind idx).fab = s.fab ∧ (noteWalk s ctx va kind idx).dbg = s.dbg ∧
    (noteWalk s ctx va kind idx).down = s.down := by
  simpa [onlyIn_iff] using noteWalk_only s ctx va kind idx
theorem vnote_only (s : State) (ctx va n kind idx : Nat) : OnlyIn [.evt, .mem, .hbm] s (vnote s ctx va n kind idx) := by
  unfold vnote
  refine onlyIn_foldl _ (fun s x => ?_) _ _
  dsimp only
  split <;> simp [onlyIn_iff]
@[simp] theorem vnote_frame (s : State) (ctx va n kind idx : Nat) :
    (vnote s ctx va n kind idx).pending = s.pending ∧ (vnote s ctx va n kind idx).tick = s.tick ∧ (vnote s ctx va n kind idx).free = s.free ∧
    (vnote s ctx va n kind idx).dev = s.dev ∧ (vnote s ctx va n kind idx).boot = s.boot ∧ (vnote s ctx va n kind idx).trust = s.trust ∧
    (vnote s ctx va n kind idx).regs = s.regs ∧ (vnote s ctx va n kind idx).link = s.link ∧ (vnote s ctx va n kind idx).pwr = s.pwr ∧
    (vnote s ctx va n kind idx).thm = s.thm ∧ (vnote s ctx va n kind idx).mgt = s.mgt ∧ (vnote s ctx va n kind idx).gly = s.gly ∧
    (vnote s ctx va n kind idx).span = s.span ∧ (vnote s ctx va n kind idx).rng = s.rng ∧ (vnote s ctx va n kind idx).krn = s.krn ∧
    (vnote s ctx va n kind idx).fab = s.fab ∧ (vnote s ctx va n kind idx).dbg = s.dbg ∧ (vnote s ctx va n kind idx).down = s.down := by
  simpa [onlyIn_iff] using vnote_only s ctx va n kind idx
theorem permit_only (s : State) (fn : Nat) : OnlyIn [.free] s (permit s fn).1 := by
  unfold permit; try dsimp only
  (repeat' split) <;> simp [onlyIn_iff]
@[simp] theorem permit_frame (s : State) (fn : Nat) :
    (permit s fn).1.pending = s.pending ∧ (permit s fn).1.tick = s.tick ∧ (permit s fn).1.dev = s.dev ∧
    (permit s fn).1.boot = s.boot ∧ (permit s fn).1.trust = s.trust ∧ (permit s fn).1.regs = s.regs ∧
    (permit s fn).1.link = s.link ∧ (permit s fn).1.pwr = s.pwr ∧ (permit s fn).1.thm = s.thm ∧
    (permit s fn).1.evt = s.evt ∧ (permit s fn).1.mgt = s.mgt ∧ (permit s fn).1.gly = s.gly ∧
    (permit s fn).1.span = s.span ∧ (permit s fn).1.rng = s.rng ∧ (permit s fn).1.krn = s.krn ∧
    (permit s fn).1.mem = s.mem ∧ (permit s fn).1.hbm = s.hbm ∧ (permit s fn).1.fab = s.fab ∧
    (permit s fn).1.dbg = s.dbg ∧ (permit s fn).1.down = s.down := by
  simpa [onlyIn_iff] using permit_only s fn
theorem hostData_only (s : State) (part addr : Nat) (bs : List MByte) : OnlyIn [.free, .link, .evt] s (hostData s part addr bs).1 := by
  unfold hostData; try dsimp only
  (repeat' split) <;> simp [onlyIn_iff]
@[simp] theorem hostData_frame (s : State) (part addr : Nat) (bs : List MByte) :
    (hostData s part addr bs).1.pending = s.pending ∧ (hostData s part addr bs).1.tick = s.tick ∧ (hostData s part addr bs).1.dev = s.dev ∧
    (hostData s part addr bs).1.boot = s.boot ∧ (hostData s part addr bs).1.trust = s.trust ∧ (hostData s part addr bs).1.regs = s.regs ∧
    (hostData s part addr bs).1.pwr = s.pwr ∧ (hostData s part addr bs).1.thm = s.thm ∧ (hostData s part addr bs).1.mgt = s.mgt ∧
    (hostData s part addr bs).1.gly = s.gly ∧ (hostData s part addr bs).1.span = s.span ∧ (hostData s part addr bs).1.rng = s.rng ∧
    (hostData s part addr bs).1.krn = s.krn ∧ (hostData s part addr bs).1.mem = s.mem ∧ (hostData s part addr bs).1.hbm = s.hbm ∧
    (hostData s part addr bs).1.fab = s.fab ∧ (hostData s part addr bs).1.dbg = s.dbg ∧ (hostData s part addr bs).1.down = s.down := by
  simpa [onlyIn_iff] using hostData_only s part addr bs
theorem vwrite_only (s : State) (ctx va : Nat) (bs : List MByte) (kind idx : Nat) (trim : Bool) : OnlyIn [.free, .link, .evt, .krn, .mem, .hbm, .fab] s (vwrite s ctx va bs kind idx trim).1 := by
  refine onlyIn_foldl_fst _ (fun a x => ?_) _ _
  dsimp only
  (repeat' split) <;> simp [onlyIn_iff]
@[simp] theorem vwrite_frame (s : State) (ctx va : Nat) (bs : List MByte) (kind idx : Nat) (trim : Bool) :
    (vwrite s ctx va bs kind idx trim).1.pending = s.pending ∧ (vwrite s ctx va bs kind idx trim).1.tick = s.tick ∧ (vwrite s ctx va bs kind idx trim).1.dev = s.dev ∧
    (vwrite s ctx va bs kind idx trim).1.boot = s.boot ∧ (vwrite s ctx va bs kind idx trim).1.trust = s.trust ∧ (vwrite s ctx va bs kind idx trim).1.regs = s.regs ∧
    (vwrite s ctx va bs kind idx trim).1.pwr = s.pwr ∧ (vwrite s ctx va bs kind idx trim).1.thm = s.thm ∧ (vwrite s ctx va bs kind idx trim).1.mgt = s.mgt ∧
    (vwrite s ctx va bs kind idx trim).1.gly = s.gly ∧ (vwrite s ctx va bs kind idx trim).1.span = s.span ∧ (vwrite s ctx va bs kind idx trim).1.rng = s.rng ∧
    (vwrite s ctx va bs kind idx trim).1.dbg = s.dbg ∧ (vwrite s ctx va bs kind idx trim).1.down = s.down := by
  simpa [onlyIn_iff] using vwrite_only s ctx va bs kind idx trim

end Sys2Proof.Laws
end

