-- ==== Sys2Proof/Laws/ControlOps.lean ====
section
/-! SUPPORT. What completions, the ends of launches, the reset tree, teardown, the Span operations and the Ledger may change. -/
namespace Sys2Proof.Laws
open Sys2Proof.Machine Sys2Proof.Safety

theorem updOp_only (s : State) (id : Nat) (f : Op → Op) : OnlyIn [.rng] s (updOp s id f) := by
  unfold updOp; try dsimp only
  (repeat' split) <;> simp [onlyIn_iff]
@[simp] theorem updOp_frame (s : State) (id : Nat) (f : Op → Op) :
    (updOp s id f).pending = s.pending ∧ (updOp s id f).tick = s.tick ∧ (updOp s id f).free = s.free ∧
    (updOp s id f).dev = s.dev ∧ (updOp s id f).boot = s.boot ∧ (updOp s id f).trust = s.trust ∧
    (updOp s id f).regs = s.regs ∧ (updOp s id f).link = s.link ∧ (updOp s id f).pwr = s.pwr ∧
    (updOp s id f).thm = s.thm ∧ (updOp s id f).evt = s.evt ∧ (updOp s id f).mgt = s.mgt ∧
    (updOp s id f).gly = s.gly ∧ (updOp s id f).span = s.span ∧ (updOp s id f).krn = s.krn ∧
    (updOp s id f).mem = s.mem ∧ (updOp s id f).hbm = s.hbm ∧ (updOp s id f).fab = s.fab ∧
    (updOp s id f).dbg = s.dbg ∧ (updOp s id f).down = s.down := by
  simpa [onlyIn_iff] using updOp_only s id f
theorem dropOp_only (s : State) (id : Nat) : OnlyIn [.rng] s (dropOp s id) := by
  unfold dropOp; try dsimp only
  (repeat' split) <;> simp [onlyIn_iff]
@[simp] theorem dropOp_frame (s : State) (id : Nat) :
    (dropOp s id).pending = s.pending ∧ (dropOp s id).tick = s.tick ∧ (dropOp s id).free = s.free ∧
    (dropOp s id).dev = s.dev ∧ (dropOp s id).boot = s.boot ∧ (dropOp s id).trust = s.trust ∧
    (dropOp s id).regs = s.regs ∧ (dropOp s id).link = s.link ∧ (dropOp s id).pwr = s.pwr ∧
    (dropOp s id).thm = s.thm ∧ (dropOp s id).evt = s.evt ∧ (dropOp s id).mgt = s.mgt ∧
    (dropOp s id).gly = s.gly ∧ (dropOp s id).span = s.span ∧ (dropOp s id).krn = s.krn ∧
    (dropOp s id).mem = s.mem ∧ (dropOp s id).hbm = s.hbm ∧ (dropOp s id).fab = s.fab ∧
    (dropOp s id).dbg = s.dbg ∧ (dropOp s id).down = s.down := by
  simpa [onlyIn_iff] using dropOp_only s id
theorem flushFor_only (s : State) (r : Nat) : OnlyIn [.dev, .link, .evt, .krn] s (flushFor s r) := by
  unfold flushFor; try dsimp only
  (repeat' split) <;> simp [onlyIn_iff]
@[simp] theorem flushFor_frame (s : State) (r : Nat) :
    (flushFor s r).pending = s.pending ∧ (flushFor s r).tick = s.tick ∧ (flushFor s r).free = s.free ∧
    (flushFor s r).boot = s.boot ∧ (flushFor s r).trust = s.trust ∧ (flushFor s r).regs = s.regs ∧
    (flushFor s r).pwr = s.pwr ∧ (flushFor s r).thm = s.thm ∧ (flushFor s r).mgt = s.mgt ∧
    (flushFor s r).gly = s.gly ∧ (flushFor s r).span = s.span ∧ (flushFor s r).rng = s.rng ∧
    (flushFor s r).mem = s.mem ∧ (flushFor s r).hbm = s.hbm ∧ (flushFor s r).fab = s.fab ∧
    (flushFor s r).dbg = s.dbg ∧ (flushFor s r).down = s.down := by
  simpa [onlyIn_iff] using flushFor_only s r
theorem ringFault_only (s : State) (r addr : Nat) : OnlyIn [.evt, .rng] s (ringFault s r addr) := by
  unfold ringFault; try dsimp only
  (repeat' split) <;> simp [onlyIn_iff]
@[simp] theorem ringFault_frame (s : State) (r addr : Nat) :
    (ringFault s r addr).pending = s.pending ∧ (ringFault s r addr).tick = s.tick ∧ (ringFault s r addr).free = s.free ∧
    (ringFault s r addr).dev = s.dev ∧ (ringFault s r addr).boot = s.boot ∧ (ringFault s r addr).trust = s.trust ∧
    (ringFault s r addr).regs = s.regs ∧ (ringFault s r addr).link = s.link ∧ (ringFault s r addr).pwr = s.pwr ∧
    (ringFault s r addr).thm = s.thm ∧ (ringFault s r addr).mgt = s.mgt ∧ (ringFault s r addr).gly = s.gly ∧
    (ringFault s r addr).span = s.span ∧ (ringFault s r addr).krn = s.krn ∧ (ringFault s r addr).mem = s.mem ∧
    (ringFault s r addr).hbm = s.hbm ∧ (ringFault s r addr).fab = s.fab ∧ (ringFault s r addr).dbg = s.dbg ∧
    (ringFault s r addr).down = s.down := by
  simpa [onlyIn_iff] using ringFault_only s r addr
theorem writeCompletion_only (s : State) (o : Op) (refused : Bool) : OnlyIn [.free, .dev, .link, .evt, .rng, .krn, .mem, .hbm, .fab] s (writeCompletion s o refused) := by
  unfold writeCompletion; try dsimp only
  (repeat' split) <;> simp [onlyIn_iff]
@[simp] theorem writeCompletion_frame (s : State) (o : Op) (refused : Bool) :
    (writeCompletion s o refused).pending = s.pending ∧ (writeCompletion s o refused).tick = s.tick ∧ (writeCompletion s o refused).boot = s.boot ∧
    (writeCompletion s o refused).trust = s.trust ∧ (writeCompletion s o refused).regs = s.regs ∧ (writeCompletion s o refused).pwr = s.pwr ∧
    (writeCompletion s o refused).thm = s.thm ∧ (writeCompletion s o refused).mgt = s.mgt ∧ (writeCompletion s o refused).gly = s.gly ∧
    (writeCompletion s o refused).span = s.span ∧ (writeCompletion s o refused).dbg = s.dbg ∧ (writeCompletion s o refused).down = s.down := by
  simpa [onlyIn_iff] using writeCompletion_only s o refused
theorem finish_only (s : State) (id status : Nat) (info : Nat) (result : Nat) (refused : Bool) : OnlyIn [.free, .dev, .link, .evt, .rng, .krn, .mem, .hbm, .fab] s (finish s id status info result refused) := by
  unfold finish; try dsimp only
  (repeat' split) <;> simp [onlyIn_iff]
@[simp] theorem finish_frame (s : State) (id status : Nat) (info : Nat) (result : Nat) (refused : Bool) :
    (finish s id status info result refused).pending = s.pending ∧ (finish s id status info result refused).tick = s.tick ∧ (finish s id status info result refused).boot = s.boot ∧
    (finish s id status info result refused).trust = s.trust ∧ (finish s id status info result refused).regs = s.regs ∧ (finish s id status info result refused).pwr = s.pwr ∧
    (finish s id status info result refused).thm = s.thm ∧ (finish s id status info result refused).mgt = s.mgt ∧ (finish s id status info result refused).gly = s.gly ∧
    (finish s id status info result refused).span = s.span ∧ (finish s id status info result refused).dbg = s.dbg ∧ (finish s id status info result refused).down = s.down := by
  simpa [onlyIn_iff] using finish_only s id status info result refused
theorem refuse_only (s : State) (id status : Nat) : OnlyIn [.free, .dev, .link, .evt, .rng, .krn, .mem, .hbm, .fab] s (refuse s id status) := by
  unfold refuse; try dsimp only
  (repeat' split) <;> simp [onlyIn_iff]
@[simp] theorem refuse_frame (s : State) (id status : Nat) :
    (refuse s id status).pending = s.pending ∧ (refuse s id status).tick = s.tick ∧ (refuse s id status).boot = s.boot ∧
    (refuse s id status).trust = s.trust ∧ (refuse s id status).regs = s.regs ∧ (refuse s id status).pwr = s.pwr ∧
    (refuse s id status).thm = s.thm ∧ (refuse s id status).mgt = s.mgt ∧ (refuse s id status).gly = s.gly ∧
    (refuse s id status).span = s.span ∧ (refuse s id status).dbg = s.dbg ∧ (refuse s id status).down = s.down := by
  simpa [onlyIn_iff] using refuse_only s id status
theorem writeReport_only (s : State) (l : Launch) (status ring : Nat) : OnlyIn [.free, .link, .evt, .krn, .mem, .hbm, .fab] s (writeReport s l status ring).1 := by
  unfold writeReport; try dsimp only
  (repeat' split) <;> simp [onlyIn_iff]
@[simp] theorem writeReport_frame (s : State) (l : Launch) (status ring : Nat) :
    (writeReport s l status ring).1.pending = s.pending ∧ (writeReport s l status ring).1.tick = s.tick ∧ (writeReport s l status ring).1.dev = s.dev ∧
    (writeReport s l status ring).1.boot = s.boot ∧ (writeReport s l status ring).1.trust = s.trust ∧ (writeReport s l status ring).1.regs = s.regs ∧
    (writeReport s l status ring).1.pwr = s.pwr ∧ (writeReport s l status ring).1.thm = s.thm ∧ (writeReport s l status ring).1.mgt = s.mgt ∧
    (writeReport s l status ring).1.gly = s.gly ∧ (writeReport s l status ring).1.span = s.span ∧ (writeReport s l status ring).1.rng = s.rng ∧
    (writeReport s l status ring).1.dbg = s.dbg ∧ (writeReport s l status ring).1.down = s.down := by
  simpa [onlyIn_iff] using writeReport_only s l status ring
theorem flushL1_only (s : State) (core : Nat) : OnlyIn [.free, .evt, .krn, .mem, .hbm, .fab] s (flushL1 s core) := by
  unfold flushL1; try dsimp only
  (repeat' split) <;> simp [onlyIn_iff]
@[simp] theorem flushL1_frame (s : State) (core : Nat) :
    (flushL1 s core).pending = s.pending ∧ (flushL1 s core).tick = s.tick ∧ (flushL1 s core).dev = s.dev ∧
    (flushL1 s core).boot = s.boot ∧ (flushL1 s core).trust = s.trust ∧ (flushL1 s core).regs = s.regs ∧
    (flushL1 s core).link = s.link ∧ (flushL1 s core).pwr = s.pwr ∧ (flushL1 s core).thm = s.thm ∧
    (flushL1 s core).mgt = s.mgt ∧ (flushL1 s core).gly = s.gly ∧ (flushL1 s core).span = s.span ∧
    (flushL1 s core).rng = s.rng ∧ (flushL1 s core).dbg = s.dbg ∧ (flushL1 s core).down = s.down := by
  simpa [onlyIn_iff] using flushL1_only s core
theorem dropSets_only (s : State) (op : Nat) (ended : Bool) : OnlyIn [.krn] s (dropSets s op ended) := by
  unfold dropSets; try dsimp only
  (repeat' split) <;> simp [onlyIn_iff]
@[simp] theorem dropSets_frame (s : State) (op : Nat) (ended : Bool) :
    (dropSets s op ended).pending = s.pending ∧ (dropSets s op ended).tick = s.tick ∧ (dropSets s op ended).free = s.free ∧
    (dropSets s op ended).dev = s.dev ∧ (dropSets s op ended).boot = s.boot ∧ (dropSets s op ended).trust = s.trust ∧
    (dropSets s op ended).regs = s.regs ∧ (dropSets s op ended).link = s.link ∧ (dropSets s op ended).pwr = s.pwr ∧
    (dropSets s op ended).thm = s.thm ∧ (dropSets s op ended).evt = s.evt ∧ (dropSets s op ended).mgt = s.mgt ∧
    (dropSets s op ended).gly = s.gly ∧ (dropSets s op ended).span = s.span ∧ (dropSets s op ended).rng = s.rng ∧
    (dropSets s op ended).mem = s.mem ∧ (dropSets s op ended).hbm = s.hbm ∧ (dropSets s op ended).fab = s.fab ∧
    (dropSets s op ended).dbg = s.dbg ∧ (dropSets s op ended).down = s.down := by
  simpa [onlyIn_iff] using dropSets_only s op ended
theorem bundleFreed_only (s : State) (h : Nat) : OnlyIn [.free, .dev, .link, .evt, .rng, .krn, .mem, .hbm, .fab] s (bundleFreed s h) := by
  unfold bundleFreed; try dsimp only
  (repeat' split) <;> simp [onlyIn_iff]
@[simp] theorem bundleFreed_frame (s : State) (h : Nat) :
    (bundleFreed s h).pending = s.pending ∧ (bundleFreed s h).tick = s.tick ∧ (bundleFreed s h).boot = s.boot ∧
    (bundleFreed s h).trust = s.trust ∧ (bundleFreed s h).regs = s.regs ∧ (bundleFreed s h).pwr = s.pwr ∧
    (bundleFreed s h).thm = s.thm ∧ (bundleFreed s h).mgt = s.mgt ∧ (bundleFreed s h).gly = s.gly ∧
    (bundleFreed s h).span = s.span ∧ (bundleFreed s h).dbg = s.dbg ∧ (bundleFreed s h).down = s.down := by
  simpa [onlyIn_iff] using bundleFreed_only s h
theorem completeLaunch_only (s : State) (op : Nat) (flush : Bool) : OnlyIn [.free, .dev, .link, .evt, .rng, .krn, .mem, .hbm, .fab] s (completeLaunch s op flush) := by
  unfold completeLaunch
  split
  · exact onlyIn_refl _ _
  · dsimp only
    refine onlyIn_then (bundleFreed_only _ _) (by decide) (onlyIn_then (finish_only _ _ _ _ _ _) (by decide) ?_)
    refine onlyIn_krn (onlyIn_then (dropSets_only _ _ _) (by decide) ?_) (by decide)
    refine onlyIn_then (writeReport_only _ _ _ _) (by decide) ?_
    split
    · exact onlyIn_mono (onlyIn_foldl _ (fun s c => flushL1_only s c) _ _) (by decide)
    · exact onlyIn_refl _ _
@[simp] theorem completeLaunch_frame (s : State) (op : Nat) (flush : Bool) :
    (completeLaunch s op flush).pending = s.pending ∧ (completeLaunch s op flush).tick = s.tick ∧ (completeLaunch s op flush).boot = s.boot ∧
    (completeLaunch s op flush).trust = s.trust ∧ (completeLaunch s op flush).regs = s.regs ∧ (completeLaunch s op flush).pwr = s.pwr ∧
    (completeLaunch s op flush).thm = s.thm ∧ (completeLaunch s op flush).mgt = s.mgt ∧ (completeLaunch s op flush).gly = s.gly ∧
    (completeLaunch s op flush).span = s.span ∧ (completeLaunch s op flush).dbg = s.dbg ∧ (completeLaunch s op flush).down = s.down := by
  simpa [onlyIn_iff] using completeLaunch_only s op flush
theorem abortLaunch_only (s : State) (op : Nat) : OnlyIn [.krn] s (abortLaunch s op) := by
  unfold abortLaunch; try dsimp only
  (repeat' split) <;> simp [onlyIn_iff]
@[simp] theorem abortLaunch_frame (s : State) (op : Nat) :
    (abortLaunch s op).pending = s.pending ∧ (abortLaunch s op).tick = s.tick ∧ (abortLaunch s op).free = s.free ∧
    (abortLaunch s op).dev = s.dev ∧ (abortLaunch s op).boot = s.boot ∧ (abortLaunch s op).trust = s.trust ∧
    (abortLaunch s op).regs = s.regs ∧ (abortLaunch s op).link = s.link ∧ (abortLaunch s op).pwr = s.pwr ∧
    (abortLaunch s op).thm = s.thm ∧ (abortLaunch s op).evt = s.evt ∧ (abortLaunch s op).mgt = s.mgt ∧
    (abortLaunch s op).gly = s.gly ∧ (abortLaunch s op).span = s.span ∧ (abortLaunch s op).rng = s.rng ∧
    (abortLaunch s op).mem = s.mem ∧ (abortLaunch s op).hbm = s.hbm ∧ (abortLaunch s op).fab = s.fab ∧
    (abortLaunch s op).dbg = s.dbg ∧ (abortLaunch s op).down = s.down := by
  simpa [onlyIn_iff] using abortLaunch_only s op
theorem dropOver_only (s : State) (core : Nat) : OnlyIn [.krn] s (dropOver s core) := by
  unfold dropOver; try dsimp only
  (repeat' split) <;> simp [onlyIn_iff]
@[simp] theorem dropOver_frame (s : State) (core : Nat) :
    (dropOver s core).pending = s.pending ∧ (dropOver s core).tick = s.tick ∧ (dropOver s core).free = s.free ∧
    (dropOver s core).dev = s.dev ∧ (dropOver s core).boot = s.boot ∧ (dropOver s core).trust = s.trust ∧
    (dropOver s core).regs = s.regs ∧ (dropOver s core).link = s.link ∧ (dropOver s core).pwr = s.pwr ∧
    (dropOver s core).thm = s.thm ∧ (dropOver s core).evt = s.evt ∧ (dropOver s core).mgt = s.mgt ∧
    (dropOver s core).gly = s.gly ∧ (dropOver s core).span = s.span ∧ (dropOver s core).rng = s.rng ∧
    (dropOver s core).mem = s.mem ∧ (dropOver s core).hbm = s.hbm ∧ (dropOver s core).fab = s.fab ∧
    (dropOver s core).dbg = s.dbg ∧ (dropOver s core).down = s.down := by
  simpa [onlyIn_iff] using dropOver_only s core
theorem updMat_only (s : State) (core : Nat) (m : MatOp) (f : MatOp → MatOp) : OnlyIn [.krn] s (updMat s core m f) := by
  unfold updMat; try dsimp only
  (repeat' split) <;> simp [onlyIn_iff]
@[simp] theorem updMat_frame (s : State) (core : Nat) (m : MatOp) (f : MatOp → MatOp) :
    (updMat s core m f).pending = s.pending ∧ (updMat s core m f).tick = s.tick ∧ (updMat s core m f).free = s.free ∧
    (updMat s core m f).dev = s.dev ∧ (updMat s core m f).boot = s.boot ∧ (updMat s core m f).trust = s.trust ∧
    (updMat s core m f).regs = s.regs ∧ (updMat s core m f).link = s.link ∧ (updMat s core m f).pwr = s.pwr ∧
    (updMat s core m f).thm = s.thm ∧ (updMat s core m f).evt = s.evt ∧ (updMat s core m f).mgt = s.mgt ∧
    (updMat s core m f).gly = s.gly ∧ (updMat s core m f).span = s.span ∧ (updMat s core m f).rng = s.rng ∧
    (updMat s core m f).mem = s.mem ∧ (updMat s core m f).hbm = s.hbm ∧ (updMat s core m f).fab = s.fab ∧
    (updMat s core m f).dbg = s.dbg ∧ (updMat s core m f).down = s.down := by
  simpa [onlyIn_iff] using updMat_only s core m f
theorem setTok_only (s : State) (core : Nat) (m : MatOp) (f : Tok → Tok) : OnlyIn [.krn] s (setTok s core m f) := by
  unfold setTok; try dsimp only
  (repeat' split) <;> simp [onlyIn_iff]
@[simp] theorem setTok_frame (s : State) (core : Nat) (m : MatOp) (f : Tok → Tok) :
    (setTok s core m f).pending = s.pending ∧ (setTok s core m f).tick = s.tick ∧ (setTok s core m f).free = s.free ∧
    (setTok s core m f).dev = s.dev ∧ (setTok s core m f).boot = s.boot ∧ (setTok s core m f).trust = s.trust ∧
    (setTok s core m f).regs = s.regs ∧ (setTok s core m f).link = s.link ∧ (setTok s core m f).pwr = s.pwr ∧
    (setTok s core m f).thm = s.thm ∧ (setTok s core m f).evt = s.evt ∧ (setTok s core m f).mgt = s.mgt ∧
    (setTok s core m f).gly = s.gly ∧ (setTok s core m f).span = s.span ∧ (setTok s core m f).rng = s.rng ∧
    (setTok s core m f).mem = s.mem ∧ (setTok s core m f).hbm = s.hbm ∧ (setTok s core m f).fab = s.fab ∧
    (setTok s core m f).dbg = s.dbg ∧ (setTok s core m f).down = s.down := by
  simpa [onlyIn_iff] using setTok_only s core m f
theorem matDone_only (s : State) (core : Nat) (m : MatOp) : OnlyIn [.krn] s (matDone s core m) := by
  unfold matDone; dsimp only
  refine onlyIn_then (dropOver_only _ _) (by decide) ?_
  have pd : ∀ n u, OnlyIn [.krn] u (popDone n u core) := by
    intro n
    induction n with
    | zero => exact fun u => onlyIn_refl _ _
    | succ n ih =>
      intro u
      unfold popDone; dsimp only
      split
      · split
        · exact onlyIn_trans (by simp [onlyIn_iff]) (ih _)
        · exact onlyIn_refl _ _
      · exact onlyIn_refl _ _
  exact onlyIn_trans (updMat_only _ _ _ _) (pd _ _)
@[simp] theorem matDone_frame (s : State) (core : Nat) (m : MatOp) :
    (matDone s core m).pending = s.pending ∧ (matDone s core m).tick = s.tick ∧ (matDone s core m).free = s.free ∧
    (matDone s core m).dev = s.dev ∧ (matDone s core m).boot = s.boot ∧ (matDone s core m).trust = s.trust ∧
    (matDone s core m).regs = s.regs ∧ (matDone s core m).link = s.link ∧ (matDone s core m).pwr = s.pwr ∧
    (matDone s core m).thm = s.thm ∧ (matDone s core m).evt = s.evt ∧ (matDone s core m).mgt = s.mgt ∧
    (matDone s core m).gly = s.gly ∧ (matDone s core m).span = s.span ∧ (matDone s core m).rng = s.rng ∧
    (matDone s core m).mem = s.mem ∧ (matDone s core m).hbm = s.hbm ∧ (matDone s core m).fab = s.fab ∧
    (matDone s core m).dbg = s.dbg ∧ (matDone s core m).down = s.down := by
  simpa [onlyIn_iff] using matDone_only s core m
theorem raiseOp_only (s : State) (core : Nat) (m : MatOp) (code : Nat) : OnlyIn [.evt, .krn] s (raiseOp s core m code) := by
  unfold raiseOp; try dsimp only
  (repeat' split) <;> simp [onlyIn_iff]
@[simp] theorem raiseOp_frame (s : State) (core : Nat) (m : MatOp) (code : Nat) :
    (raiseOp s core m code).pending = s.pending ∧ (raiseOp s core m code).tick = s.tick ∧ (raiseOp s core m code).free = s.free ∧
    (raiseOp s core m code).dev = s.dev ∧ (raiseOp s core m code).boot = s.boot ∧ (raiseOp s core m code).trust = s.trust ∧
    (raiseOp s core m code).regs = s.regs ∧ (raiseOp s core m code).link = s.link ∧ (raiseOp s core m code).pwr = s.pwr ∧
    (raiseOp s core m code).thm = s.thm ∧ (raiseOp s core m code).mgt = s.mgt ∧ (raiseOp s core m code).gly = s.gly ∧
    (raiseOp s core m code).span = s.span ∧ (raiseOp s core m code).rng = s.rng ∧ (raiseOp s core m code).mem = s.mem ∧
    (raiseOp s core m code).hbm = s.hbm ∧ (raiseOp s core m code).fab = s.fab ∧ (raiseOp s core m code).dbg = s.dbg ∧
    (raiseOp s core m code).down = s.down := by
  simpa [onlyIn_iff] using raiseOp_only s core m code
theorem matFail_only (s : State) (core : Nat) (m : MatOp) (code : Nat) : OnlyIn [.evt, .krn] s (matFail s core m code) := by
  unfold matFail; try dsimp only
  (repeat' split) <;> simp [onlyIn_iff]
@[simp] theorem matFail_frame (s : State) (core : Nat) (m : MatOp) (code : Nat) :
    (matFail s core m code).pending = s.pending ∧ (matFail s core m code).tick = s.tick ∧ (matFail s core m code).free = s.free ∧
    (matFail s core m code).dev = s.dev ∧ (matFail s core m code).boot = s.boot ∧ (matFail s core m code).trust = s.trust ∧
    (matFail s core m code).regs = s.regs ∧ (matFail s core m code).link = s.link ∧ (matFail s core m code).pwr = s.pwr ∧
    (matFail s core m code).thm = s.thm ∧ (matFail s core m code).mgt = s.mgt ∧ (matFail s core m code).gly = s.gly ∧
    (matFail s core m code).span = s.span ∧ (matFail s core m code).rng = s.rng ∧ (matFail s core m code).mem = s.mem ∧
    (matFail s core m code).hbm = s.hbm ∧ (matFail s core m code).fab = s.fab ∧ (matFail s core m code).dbg = s.dbg ∧
    (matFail s core m code).down = s.down := by
  simpa [onlyIn_iff] using matFail_only s core m code
theorem updSet_only (s : State) (core op idx : Nat) (f : GSet → GSet) : OnlyIn [.krn] s (updSet s core op idx f) := by
  unfold updSet; try dsimp only
  (repeat' split) <;> simp [onlyIn_iff]
@[simp] theorem updSet_frame (s : State) (core op idx : Nat) (f : GSet → GSet) :
    (updSet s core op idx f).pending = s.pending ∧ (updSet s core op idx f).tick = s.tick ∧ (updSet s core op idx f).free = s.free ∧
    (updSet s core op idx f).dev = s.dev ∧ (updSet s core op idx f).boot = s.boot ∧ (updSet s core op idx f).trust = s.trust ∧
    (updSet s core op idx f).regs = s.regs ∧ (updSet s core op idx f).link = s.link ∧ (updSet s core op idx f).pwr = s.pwr ∧
    (updSet s core op idx f).thm = s.thm ∧ (updSet s core op idx f).evt = s.evt ∧ (updSet s core op idx f).mgt = s.mgt ∧
    (updSet s core op idx f).gly = s.gly ∧ (updSet s core op idx f).span = s.span ∧ (updSet s core op idx f).rng = s.rng ∧
    (updSet s core op idx f).mem = s.mem ∧ (updSet s core op idx f).hbm = s.hbm ∧ (updSet s core op idx f).fab = s.fab ∧
    (updSet s core op idx f).dbg = s.dbg ∧ (updSet s core op idx f).down = s.down := by
  simpa [onlyIn_iff] using updSet_only s core op idx f
theorem barDone_only (core : Nat) (t : GSet) (s : State) (b : Nat) : OnlyIn [.krn] s (barDone core t s b) := by
  unfold barDone; try dsimp only
  (repeat' split) <;> simp [onlyIn_iff]
@[simp] theorem barDone_frame (core : Nat) (t : GSet) (s : State) (b : Nat) :
    (barDone core t s b).pending = s.pending ∧ (barDone core t s b).tick = s.tick ∧ (barDone core t s b).free = s.free ∧
    (barDone core t s b).dev = s.dev ∧ (barDone core t s b).boot = s.boot ∧ (barDone core t s b).trust = s.trust ∧
    (barDone core t s b).regs = s.regs ∧ (barDone core t s b).link = s.link ∧ (barDone core t s b).pwr = s.pwr ∧
    (barDone core t s b).thm = s.thm ∧ (barDone core t s b).evt = s.evt ∧ (barDone core t s b).mgt = s.mgt ∧
    (barDone core t s b).gly = s.gly ∧ (barDone core t s b).span = s.span ∧ (barDone core t s b).rng = s.rng ∧
    (barDone core t s b).mem = s.mem ∧ (barDone core t s b).hbm = s.hbm ∧ (barDone core t s b).fab = s.fab ∧
    (barDone core t s b).dbg = s.dbg ∧ (barDone core t s b).down = s.down := by
  simpa [onlyIn_iff] using barDone_only core t s b
theorem diverged_only (core : Nat) (t : GSet) (s : State) (b : Nat) : OnlyIn [.evt, .krn] s (diverged core t s b) := by
  unfold diverged; try dsimp only
  (repeat' split) <;> simp [onlyIn_iff]
@[simp] theorem diverged_frame (core : Nat) (t : GSet) (s : State) (b : Nat) :
    (diverged core t s b).pending = s.pending ∧ (diverged core t s b).tick = s.tick ∧ (diverged core t s b).free = s.free ∧
    (diverged core t s b).dev = s.dev ∧ (diverged core t s b).boot = s.boot ∧ (diverged core t s b).trust = s.trust ∧
    (diverged core t s b).regs = s.regs ∧ (diverged core t s b).link = s.link ∧ (diverged core t s b).pwr = s.pwr ∧
    (diverged core t s b).thm = s.thm ∧ (diverged core t s b).mgt = s.mgt ∧ (diverged core t s b).gly = s.gly ∧
    (diverged core t s b).span = s.span ∧ (diverged core t s b).rng = s.rng ∧ (diverged core t s b).mem = s.mem ∧
    (diverged core t s b).hbm = s.hbm ∧ (diverged core t s b).fab = s.fab ∧ (diverged core t s b).dbg = s.dbg ∧
    (diverged core t s b).down = s.down := by
  simpa [onlyIn_iff] using diverged_only core t s b
theorem endSet_only (s : State) (core : Nat) (t : GSet) : OnlyIn [.krn] s (endSet s core t) := by
  unfold endSet; try dsimp only
  (repeat' split) <;> simp [onlyIn_iff]
@[simp] theorem endSet_frame (s : State) (core : Nat) (t : GSet) :
    (endSet s core t).pending = s.pending ∧ (endSet s core t).tick = s.tick ∧ (endSet s core t).free = s.free ∧
    (endSet s core t).dev = s.dev ∧ (endSet s core t).boot = s.boot ∧ (endSet s core t).trust = s.trust ∧
    (endSet s core t).regs = s.regs ∧ (endSet s core t).link = s.link ∧ (endSet s core t).pwr = s.pwr ∧
    (endSet s core t).thm = s.thm ∧ (endSet s core t).evt = s.evt ∧ (endSet s core t).mgt = s.mgt ∧
    (endSet s core t).gly = s.gly ∧ (endSet s core t).span = s.span ∧ (endSet s core t).rng = s.rng ∧
    (endSet s core t).mem = s.mem ∧ (endSet s core t).hbm = s.hbm ∧ (endSet s core t).fab = s.fab ∧
    (endSet s core t).dbg = s.dbg ∧ (endSet s core t).down = s.down := by
  simpa [onlyIn_iff] using endSet_only s core t
theorem settleSet_only (s : State) (core op idx : Nat) : OnlyIn [.evt, .krn] s (settleSet s core op idx) := by
  unfold settleSet; try dsimp only
  (repeat' split) <;> simp [onlyIn_iff]
@[simp] theorem settleSet_frame (s : State) (core op idx : Nat) :
    (settleSet s core op idx).pending = s.pending ∧ (settleSet s core op idx).tick = s.tick ∧ (settleSet s core op idx).free = s.free ∧
    (settleSet s core op idx).dev = s.dev ∧ (settleSet s core op idx).boot = s.boot ∧ (settleSet s core op idx).trust = s.trust ∧
    (settleSet s core op idx).regs = s.regs ∧ (settleSet s core op idx).link = s.link ∧ (settleSet s core op idx).pwr = s.pwr ∧
    (settleSet s core op idx).thm = s.thm ∧ (settleSet s core op idx).mgt = s.mgt ∧ (settleSet s core op idx).gly = s.gly ∧
    (settleSet s core op idx).span = s.span ∧ (settleSet s core op idx).rng = s.rng ∧ (settleSet s core op idx).mem = s.mem ∧
    (settleSet s core op idx).hbm = s.hbm ∧ (settleSet s core op idx).fab = s.fab ∧ (settleSet s core op idx).dbg = s.dbg ∧
    (settleSet s core op idx).down = s.down := by
  simpa [onlyIn_iff] using settleSet_only s core op idx
theorem settleOf_only (s : State) (core slot : Nat) : OnlyIn [.evt, .krn] s (settleOf s core slot) := by
  unfold settleOf; try dsimp only
  (repeat' split) <;> simp [onlyIn_iff]
@[simp] theorem settleOf_frame (s : State) (core slot : Nat) :
    (settleOf s core slot).pending = s.pending ∧ (settleOf s core slot).tick = s.tick ∧ (settleOf s core slot).free = s.free ∧
    (settleOf s core slot).dev = s.dev ∧ (settleOf s core slot).boot = s.boot ∧ (settleOf s core slot).trust = s.trust ∧
    (settleOf s core slot).regs = s.regs ∧ (settleOf s core slot).link = s.link ∧ (settleOf s core slot).pwr = s.pwr ∧
    (settleOf s core slot).thm = s.thm ∧ (settleOf s core slot).mgt = s.mgt ∧ (settleOf s core slot).gly = s.gly ∧
    (settleOf s core slot).span = s.span ∧ (settleOf s core slot).rng = s.rng ∧ (settleOf s core slot).mem = s.mem ∧
    (settleOf s core slot).hbm = s.hbm ∧ (settleOf s core slot).fab = s.fab ∧ (settleOf s core slot).dbg = s.dbg ∧
    (settleOf s core slot).down = s.down := by
  simpa [onlyIn_iff] using settleOf_only s core slot
theorem coreReset_only (s : State) (core : Nat) : OnlyIn [.krn, .fab] s (coreReset s core) := by
  unfold coreReset; try dsimp only
  (repeat' split) <;> simp [onlyIn_iff]
@[simp] theorem coreReset_frame (s : State) (core : Nat) :
    (coreReset s core).pending = s.pending ∧ (coreReset s core).tick = s.tick ∧ (coreReset s core).free = s.free ∧
    (coreReset s core).dev = s.dev ∧ (coreReset s core).boot = s.boot ∧ (coreReset s core).trust = s.trust ∧
    (coreReset s core).regs = s.regs ∧ (coreReset s core).link = s.link ∧ (coreReset s core).pwr = s.pwr ∧
    (coreReset s core).thm = s.thm ∧ (coreReset s core).evt = s.evt ∧ (coreReset s core).mgt = s.mgt ∧
    (coreReset s core).gly = s.gly ∧ (coreReset s core).span = s.span ∧ (coreReset s core).rng = s.rng ∧
    (coreReset s core).mem = s.mem ∧ (coreReset s core).hbm = s.hbm ∧ (coreReset s core).dbg = s.dbg ∧
    (coreReset s core).down = s.down := by
  simpa [onlyIn_iff] using coreReset_only s core
theorem clusterReset_only (s : State) (k : Nat) : OnlyIn [.evt, .krn, .fab] s (clusterReset s k) := by
  unfold clusterReset; try dsimp only
  (repeat' split) <;> simp [onlyIn_iff]
@[simp] theorem clusterReset_frame (s : State) (k : Nat) :
    (clusterReset s k).pending = s.pending ∧ (clusterReset s k).tick = s.tick ∧ (clusterReset s k).free = s.free ∧
    (clusterReset s k).dev = s.dev ∧ (clusterReset s k).boot = s.boot ∧ (clusterReset s k).trust = s.trust ∧
    (clusterReset s k).regs = s.regs ∧ (clusterReset s k).link = s.link ∧ (clusterReset s k).pwr = s.pwr ∧
    (clusterReset s k).thm = s.thm ∧ (clusterReset s k).mgt = s.mgt ∧ (clusterReset s k).gly = s.gly ∧
    (clusterReset s k).span = s.span ∧ (clusterReset s k).rng = s.rng ∧ (clusterReset s k).mem = s.mem ∧
    (clusterReset s k).hbm = s.hbm ∧ (clusterReset s k).dbg = s.dbg ∧ (clusterReset s k).down = s.down := by
  simpa [onlyIn_iff] using clusterReset_only s k
theorem abortFetched_only (s : State) (r : Nat) : OnlyIn [.free, .dev, .link, .evt, .rng, .krn, .mem, .hbm, .fab] s (abortFetched s r) := by
  unfold abortFetched; try dsimp only
  (repeat' split) <;> simp [onlyIn_iff]
@[simp] theorem abortFetched_frame (s : State) (r : Nat) :
    (abortFetched s r).pending = s.pending ∧ (abortFetched s r).tick = s.tick ∧ (abortFetched s r).boot = s.boot ∧
    (abortFetched s r).trust = s.trust ∧ (abortFetched s r).regs = s.regs ∧ (abortFetched s r).pwr = s.pwr ∧
    (abortFetched s r).thm = s.thm ∧ (abortFetched s r).mgt = s.mgt ∧ (abortFetched s r).gly = s.gly ∧
    (abortFetched s r).span = s.span ∧ (abortFetched s r).dbg = s.dbg ∧ (abortFetched s r).down = s.down := by
  simpa [onlyIn_iff] using abortFetched_only s r
theorem disableRing_only (s : State) (r : Nat) : OnlyIn [.free, .dev, .link, .evt, .rng, .krn, .mem, .hbm, .fab] s (disableRing s r) := by
  unfold disableRing; try dsimp only
  (repeat' split) <;> simp [onlyIn_iff]
@[simp] theorem disableRing_frame (s : State) (r : Nat) :
    (disableRing s r).pending = s.pending ∧ (disableRing s r).tick = s.tick ∧ (disableRing s r).boot = s.boot ∧
    (disableRing s r).trust = s.trust ∧ (disableRing s r).regs = s.regs ∧ (disableRing s r).pwr = s.pwr ∧
    (disableRing s r).thm = s.thm ∧ (disableRing s r).mgt = s.mgt ∧ (disableRing s r).gly = s.gly ∧
    (disableRing s r).span = s.span ∧ (disableRing s r).dbg = s.dbg ∧ (disableRing s r).down = s.down := by
  simpa [onlyIn_iff] using disableRing_only s r
theorem abortOps_only (s : State) (r : Nat) : OnlyIn [.free, .dev, .link, .evt, .rng, .krn, .mem, .hbm, .fab] s (abortOps s r) := by
  unfold abortOps; try dsimp only
  (repeat' split) <;> simp [onlyIn_iff]
@[simp] theorem abortOps_frame (s : State) (r : Nat) :
    (abortOps s r).pending = s.pending ∧ (abortOps s r).tick = s.tick ∧ (abortOps s r).boot = s.boot ∧
    (abortOps s r).trust = s.trust ∧ (abortOps s r).regs = s.regs ∧ (abortOps s r).pwr = s.pwr ∧
    (abortOps s r).thm = s.thm ∧ (abortOps s r).mgt = s.mgt ∧ (abortOps s r).gly = s.gly ∧
    (abortOps s r).span = s.span ∧ (abortOps s r).dbg = s.dbg ∧ (abortOps s r).down = s.down := by
  simpa [onlyIn_iff] using abortOps_only s r
theorem resetRingRegs_only (s : State) (r : Nat) : OnlyIn [.regs] s (resetRingRegs s r) := by
  unfold resetRingRegs; try dsimp only
  (repeat' split) <;> simp [onlyIn_iff]
@[simp] theorem resetRingRegs_frame (s : State) (r : Nat) :
    (resetRingRegs s r).pending = s.pending ∧ (resetRingRegs s r).tick = s.tick ∧ (resetRingRegs s r).free = s.free ∧
    (resetRingRegs s r).dev = s.dev ∧ (resetRingRegs s r).boot = s.boot ∧ (resetRingRegs s r).trust = s.trust ∧
    (resetRingRegs s r).link = s.link ∧ (resetRingRegs s r).pwr = s.pwr ∧ (resetRingRegs s r).thm = s.thm ∧
    (resetRingRegs s r).evt = s.evt ∧ (resetRingRegs s r).mgt = s.mgt ∧ (resetRingRegs s r).gly = s.gly ∧
    (resetRingRegs s r).span = s.span ∧ (resetRingRegs s r).rng = s.rng ∧ (resetRingRegs s r).krn = s.krn ∧
    (resetRingRegs s r).mem = s.mem ∧ (resetRingRegs s r).hbm = s.hbm ∧ (resetRingRegs s r).fab = s.fab ∧
    (resetRingRegs s r).dbg = s.dbg ∧ (resetRingRegs s r).down = s.down := by
  simpa [onlyIn_iff] using resetRingRegs_only s r
theorem resetEvt_only (s : State) (fn : Nat) : OnlyIn [.regs, .evt] s (resetEvt s fn) := by
  unfold resetEvt; try dsimp only
  (repeat' split) <;> simp [onlyIn_iff]
@[simp] theorem resetEvt_frame (s : State) (fn : Nat) :
    (resetEvt s fn).pending = s.pending ∧ (resetEvt s fn).tick = s.tick ∧ (resetEvt s fn).free = s.free ∧
    (resetEvt s fn).dev = s.dev ∧ (resetEvt s fn).boot = s.boot ∧ (resetEvt s fn).trust = s.trust ∧
    (resetEvt s fn).link = s.link ∧ (resetEvt s fn).pwr = s.pwr ∧ (resetEvt s fn).thm = s.thm ∧
    (resetEvt s fn).mgt = s.mgt ∧ (resetEvt s fn).gly = s.gly ∧ (resetEvt s fn).span = s.span ∧
    (resetEvt s fn).rng = s.rng ∧ (resetEvt s fn).krn = s.krn ∧ (resetEvt s fn).mem = s.mem ∧
    (resetEvt s fn).hbm = s.hbm ∧ (resetEvt s fn).fab = s.fab ∧ (resetEvt s fn).dbg = s.dbg ∧
    (resetEvt s fn).down = s.down := by
  simpa [onlyIn_iff] using resetEvt_only s fn
theorem dropSpan_only (s : State) (p : Nat) : OnlyIn [.span] s (dropSpan s p) := by
  unfold dropSpan; try dsimp only
  (repeat' split) <;> simp [onlyIn_iff]
@[simp] theorem dropSpan_frame (s : State) (p : Nat) :
    (dropSpan s p).pending = s.pending ∧ (dropSpan s p).tick = s.tick ∧ (dropSpan s p).free = s.free ∧
    (dropSpan s p).dev = s.dev ∧ (dropSpan s p).boot = s.boot ∧ (dropSpan s p).trust = s.trust ∧
    (dropSpan s p).regs = s.regs ∧ (dropSpan s p).link = s.link ∧ (dropSpan s p).pwr = s.pwr ∧
    (dropSpan s p).thm = s.thm ∧ (dropSpan s p).evt = s.evt ∧ (dropSpan s p).mgt = s.mgt ∧
    (dropSpan s p).gly = s.gly ∧ (dropSpan s p).rng = s.rng ∧ (dropSpan s p).krn = s.krn ∧
    (dropSpan s p).mem = s.mem ∧ (dropSpan s p).hbm = s.hbm ∧ (dropSpan s p).fab = s.fab ∧
    (dropSpan s p).dbg = s.dbg ∧ (dropSpan s p).down = s.down := by
  simpa [onlyIn_iff] using dropSpan_only s p
theorem partitionReset_only (s : State) (p : Nat) : OnlyIn [.free, .dev, .regs, .link, .evt, .span, .rng, .krn, .mem, .hbm, .fab] s (partitionReset s p) := by
  unfold partitionReset; try dsimp only
  (repeat' split) <;> simp [onlyIn_iff]
@[simp] theorem partitionReset_frame (s : State) (p : Nat) :
    (partitionReset s p).pending = s.pending ∧ (partitionReset s p).tick = s.tick ∧ (partitionReset s p).boot = s.boot ∧
    (partitionReset s p).trust = s.trust ∧ (partitionReset s p).pwr = s.pwr ∧ (partitionReset s p).thm = s.thm ∧
    (partitionReset s p).mgt = s.mgt ∧ (partitionReset s p).gly = s.gly ∧ (partitionReset s p).dbg = s.dbg ∧
    (partitionReset s p).down = s.down := by
  simpa [onlyIn_iff] using partitionReset_only s p
theorem setDown_only (s : State) (d : Down) : OnlyIn [.down] s (setDown s d) := by
  unfold setDown; try dsimp only
  (repeat' split) <;> simp [onlyIn_iff]
@[simp] theorem setDown_frame (s : State) (d : Down) :
    (setDown s d).pending = s.pending ∧ (setDown s d).tick = s.tick ∧ (setDown s d).free = s.free ∧
    (setDown s d).dev = s.dev ∧ (setDown s d).boot = s.boot ∧ (setDown s d).trust = s.trust ∧
    (setDown s d).regs = s.regs ∧ (setDown s d).link = s.link ∧ (setDown s d).pwr = s.pwr ∧
    (setDown s d).thm = s.thm ∧ (setDown s d).evt = s.evt ∧ (setDown s d).mgt = s.mgt ∧
    (setDown s d).gly = s.gly ∧ (setDown s d).span = s.span ∧ (setDown s d).rng = s.rng ∧
    (setDown s d).krn = s.krn ∧ (setDown s d).mem = s.mem ∧ (setDown s d).hbm = s.hbm ∧
    (setDown s d).fab = s.fab ∧ (setDown s d).dbg = s.dbg := by
  simpa [onlyIn_iff] using setDown_only s d
theorem teardownStart_only (s : State) (p : Nat) (stop back : Bool) : OnlyIn [.free, .dev, .regs, .link, .evt, .span, .rng, .krn, .mem, .hbm, .fab, .down] s (teardownStart s p stop back) := by
  unfold teardownStart; try dsimp only
  (repeat' split) <;> simp [onlyIn_iff]
@[simp] theorem teardownStart_frame (s : State) (p : Nat) (stop back : Bool) :
    (teardownStart s p stop back).pending = s.pending ∧ (teardownStart s p stop back).tick = s.tick ∧ (teardownStart s p stop back).boot = s.boot ∧
    (teardownStart s p stop back).trust = s.trust ∧ (teardownStart s p stop back).pwr = s.pwr ∧ (teardownStart s p stop back).thm = s.thm ∧
    (teardownStart s p stop back).mgt = s.mgt ∧ (teardownStart s p stop back).gly = s.gly ∧ (teardownStart s p stop back).dbg = s.dbg := by
  simpa [onlyIn_iff] using teardownStart_only s p stop back
theorem dropKeys_only (s : State) (p : Nat) : OnlyIn [.trust] s (dropKeys s p) := by
  unfold dropKeys; try dsimp only
  (repeat' split) <;> simp [onlyIn_iff]
@[simp] theorem dropKeys_frame (s : State) (p : Nat) :
    (dropKeys s p).pending = s.pending ∧ (dropKeys s p).tick = s.tick ∧ (dropKeys s p).free = s.free ∧
    (dropKeys s p).dev = s.dev ∧ (dropKeys s p).boot = s.boot ∧ (dropKeys s p).regs = s.regs ∧
    (dropKeys s p).link = s.link ∧ (dropKeys s p).pwr = s.pwr ∧ (dropKeys s p).thm = s.thm ∧
    (dropKeys s p).evt = s.evt ∧ (dropKeys s p).mgt = s.mgt ∧ (dropKeys s p).gly = s.gly ∧
    (dropKeys s p).span = s.span ∧ (dropKeys s p).rng = s.rng ∧ (dropKeys s p).krn = s.krn ∧
    (dropKeys s p).mem = s.mem ∧ (dropKeys s p).hbm = s.hbm ∧ (dropKeys s p).fab = s.fab ∧
    (dropKeys s p).dbg = s.dbg ∧ (dropKeys s p).down = s.down := by
  simpa [onlyIn_iff] using dropKeys_only s p
theorem rekeyTent_only (s : State) (t : Nat) (pair : Nat × Nat) : OnlyIn [.mem] s (rekeyTent s t pair) := by
  unfold rekeyTent; try dsimp only
  (repeat' split) <;> simp [onlyIn_iff]
@[simp] theorem rekeyTent_frame (s : State) (t : Nat) (pair : Nat × Nat) :
    (rekeyTent s t pair).pending = s.pending ∧ (rekeyTent s t pair).tick = s.tick ∧ (rekeyTent s t pair).free = s.free ∧
    (rekeyTent s t pair).dev = s.dev ∧ (rekeyTent s t pair).boot = s.boot ∧ (rekeyTent s t pair).trust = s.trust ∧
    (rekeyTent s t pair).regs = s.regs ∧ (rekeyTent s t pair).link = s.link ∧ (rekeyTent s t pair).pwr = s.pwr ∧
    (rekeyTent s t pair).thm = s.thm ∧ (rekeyTent s t pair).evt = s.evt ∧ (rekeyTent s t pair).mgt = s.mgt ∧
    (rekeyTent s t pair).gly = s.gly ∧ (rekeyTent s t pair).span = s.span ∧ (rekeyTent s t pair).rng = s.rng ∧
    (rekeyTent s t pair).krn = s.krn ∧ (rekeyTent s t pair).hbm = s.hbm ∧ (rekeyTent s t pair).fab = s.fab ∧
    (rekeyTent s t pair).dbg = s.dbg ∧ (rekeyTent s t pair).down = s.down := by
  simpa [onlyIn_iff] using rekeyTent_only s t pair
theorem rekeyTents_only (s : State) (ts : List Nat) : OnlyIn [.mem] s (rekeyTents s ts) := by
  unfold rekeyTents; try dsimp only
  (repeat' split) <;> simp [onlyIn_iff]
@[simp] theorem rekeyTents_frame (s : State) (ts : List Nat) :
    (rekeyTents s ts).pending = s.pending ∧ (rekeyTents s ts).tick = s.tick ∧ (rekeyTents s ts).free = s.free ∧
    (rekeyTents s ts).dev = s.dev ∧ (rekeyTents s ts).boot = s.boot ∧ (rekeyTents s ts).trust = s.trust ∧
    (rekeyTents s ts).regs = s.regs ∧ (rekeyTents s ts).link = s.link ∧ (rekeyTents s ts).pwr = s.pwr ∧
    (rekeyTents s ts).thm = s.thm ∧ (rekeyTents s ts).evt = s.evt ∧ (rekeyTents s ts).mgt = s.mgt ∧
    (rekeyTents s ts).gly = s.gly ∧ (rekeyTents s ts).span = s.span ∧ (rekeyTents s ts).rng = s.rng ∧
    (rekeyTents s ts).krn = s.krn ∧ (rekeyTents s ts).hbm = s.hbm ∧ (rekeyTents s ts).fab = s.fab ∧
    (rekeyTents s ts).dbg = s.dbg ∧ (rekeyTents s ts).down = s.down := by
  simpa [onlyIn_iff] using rekeyTents_only s ts
theorem clearTent_only (s : State) (t : Nat) : OnlyIn [.mem] s (clearTent s t) := by
  unfold clearTent; try dsimp only
  (repeat' split) <;> simp [onlyIn_iff]
@[simp] theorem clearTent_frame (s : State) (t : Nat) :
    (clearTent s t).pending = s.pending ∧ (clearTent s t).tick = s.tick ∧ (clearTent s t).free = s.free ∧
    (clearTent s t).dev = s.dev ∧ (clearTent s t).boot = s.boot ∧ (clearTent s t).trust = s.trust ∧
    (clearTent s t).regs = s.regs ∧ (clearTent s t).link = s.link ∧ (clearTent s t).pwr = s.pwr ∧
    (clearTent s t).thm = s.thm ∧ (clearTent s t).evt = s.evt ∧ (clearTent s t).mgt = s.mgt ∧
    (clearTent s t).gly = s.gly ∧ (clearTent s t).span = s.span ∧ (clearTent s t).rng = s.rng ∧
    (clearTent s t).krn = s.krn ∧ (clearTent s t).hbm = s.hbm ∧ (clearTent s t).fab = s.fab ∧
    (clearTent s t).dbg = s.dbg ∧ (clearTent s t).down = s.down := by
  simpa [onlyIn_iff] using clearTent_only s t
theorem invalidateCtx_only (s : State) (p : Nat) : OnlyIn [.regs] s (invalidateCtx s p) := by
  unfold invalidateCtx; try dsimp only
  (repeat' split) <;> simp [onlyIn_iff]
@[simp] theorem invalidateCtx_frame (s : State) (p : Nat) :
    (invalidateCtx s p).pending = s.pending ∧ (invalidateCtx s p).tick = s.tick ∧ (invalidateCtx s p).free = s.free ∧
    (invalidateCtx s p).dev = s.dev ∧ (invalidateCtx s p).boot = s.boot ∧ (invalidateCtx s p).trust = s.trust ∧
    (invalidateCtx s p).link = s.link ∧ (invalidateCtx s p).pwr = s.pwr ∧ (invalidateCtx s p).thm = s.thm ∧
    (invalidateCtx s p).evt = s.evt ∧ (invalidateCtx s p).mgt = s.mgt ∧ (invalidateCtx s p).gly = s.gly ∧
    (invalidateCtx s p).span = s.span ∧ (invalidateCtx s p).rng = s.rng ∧ (invalidateCtx s p).krn = s.krn ∧
    (invalidateCtx s p).mem = s.mem ∧ (invalidateCtx s p).hbm = s.hbm ∧ (invalidateCtx s p).fab = s.fab ∧
    (invalidateCtx s p).dbg = s.dbg ∧ (invalidateCtx s p).down = s.down := by
  simpa [onlyIn_iff] using invalidateCtx_only s p
theorem clearCores_only (s : State) (p : Nat) : OnlyIn [.krn] s (clearCores s p) := by
  unfold clearCores
  refine onlyIn_foldl _ (fun s c => ?_) _ _
  split <;> simp [onlyIn_iff]
@[simp] theorem clearCores_frame (s : State) (p : Nat) :
    (clearCores s p).pending = s.pending ∧ (clearCores s p).tick = s.tick ∧ (clearCores s p).free = s.free ∧
    (clearCores s p).dev = s.dev ∧ (clearCores s p).boot = s.boot ∧ (clearCores s p).trust = s.trust ∧
    (clearCores s p).regs = s.regs ∧ (clearCores s p).link = s.link ∧ (clearCores s p).pwr = s.pwr ∧
    (clearCores s p).thm = s.thm ∧ (clearCores s p).evt = s.evt ∧ (clearCores s p).mgt = s.mgt ∧
    (clearCores s p).gly = s.gly ∧ (clearCores s p).span = s.span ∧ (clearCores s p).rng = s.rng ∧
    (clearCores s p).mem = s.mem ∧ (clearCores s p).hbm = s.hbm ∧ (clearCores s p).fab = s.fab ∧
    (clearCores s p).dbg = s.dbg ∧ (clearCores s p).down = s.down := by
  simpa [onlyIn_iff] using clearCores_only s p
theorem teardownErase_only (s : State) (p : Nat) : OnlyIn [.trust, .regs, .krn, .mem, .down] s (teardownErase s p) := by
  unfold teardownErase; try dsimp only
  (repeat' split) <;> simp [onlyIn_iff]
@[simp] theorem teardownErase_frame (s : State) (p : Nat) :
    (teardownErase s p).pending = s.pending ∧ (teardownErase s p).tick = s.tick ∧ (teardownErase s p).free = s.free ∧
    (teardownErase s p).dev = s.dev ∧ (teardownErase s p).boot = s.boot ∧ (teardownErase s p).link = s.link ∧
    (teardownErase s p).pwr = s.pwr ∧ (teardownErase s p).thm = s.thm ∧ (teardownErase s p).evt = s.evt ∧
    (teardownErase s p).mgt = s.mgt ∧ (teardownErase s p).gly = s.gly ∧ (teardownErase s p).span = s.span ∧
    (teardownErase s p).rng = s.rng ∧ (teardownErase s p).hbm = s.hbm ∧ (teardownErase s p).fab = s.fab ∧
    (teardownErase s p).dbg = s.dbg := by
  simpa [onlyIn_iff] using teardownErase_only s p
theorem intoService_only (s : State) (p : Nat) : OnlyIn [.free, .trust, .evt, .krn, .mem, .hbm, .fab] s (intoService s p) := by
  unfold intoService; try dsimp only
  (repeat' split) <;> simp [onlyIn_iff]
@[simp] theorem intoService_frame (s : State) (p : Nat) :
    (intoService s p).pending = s.pending ∧ (intoService s p).tick = s.tick ∧ (intoService s p).dev = s.dev ∧
    (intoService s p).boot = s.boot ∧ (intoService s p).regs = s.regs ∧ (intoService s p).link = s.link ∧
    (intoService s p).pwr = s.pwr ∧ (intoService s p).thm = s.thm ∧ (intoService s p).mgt = s.mgt ∧
    (intoService s p).gly = s.gly ∧ (intoService s p).span = s.span ∧ (intoService s p).rng = s.rng ∧
    (intoService s p).dbg = s.dbg ∧ (intoService s p).down = s.down := by
  simpa [onlyIn_iff] using intoService_only s p
theorem teardownDone_only (s : State) (p : Nat) : OnlyIn [.free, .trust, .evt, .krn, .mem, .hbm, .fab, .down] s (teardownDone s p) := by
  unfold teardownDone; try dsimp only
  (repeat' split) <;> simp [onlyIn_iff]
@[simp] theorem teardownDone_frame (s : State) (p : Nat) :
    (teardownDone s p).pending = s.pending ∧ (teardownDone s p).tick = s.tick ∧ (teardownDone s p).dev = s.dev ∧
    (teardownDone s p).boot = s.boot ∧ (teardownDone s p).regs = s.regs ∧ (teardownDone s p).link = s.link ∧
    (teardownDone s p).pwr = s.pwr ∧ (teardownDone s p).thm = s.thm ∧ (teardownDone s p).mgt = s.mgt ∧
    (teardownDone s p).gly = s.gly ∧ (teardownDone s p).span = s.span ∧ (teardownDone s p).rng = s.rng ∧
    (teardownDone s p).dbg = s.dbg := by
  simpa [onlyIn_iff] using teardownDone_only s p
theorem runDue_only (s : State) : OnlyIn [.free, .dev, .regs, .link, .evt, .span, .rng, .krn, .mem, .hbm, .fab, .down] s (runDue s) := by
  unfold runDue; try dsimp only
  (repeat' split) <;> simp [onlyIn_iff]
@[simp] theorem runDue_frame (s : State) :
    (runDue s).pending = s.pending ∧ (runDue s).tick = s.tick ∧ (runDue s).boot = s.boot ∧
    (runDue s).trust = s.trust ∧ (runDue s).pwr = s.pwr ∧ (runDue s).thm = s.thm ∧
    (runDue s).mgt = s.mgt ∧ (runDue s).gly = s.gly ∧ (runDue s).dbg = s.dbg := by
  simpa [onlyIn_iff] using runDue_only s
theorem tdiError_only (s : State) (p : Nat) : OnlyIn [.free, .dev, .trust, .regs, .link, .evt, .span, .rng, .krn, .mem, .hbm, .fab] s (tdiError s p) := by
  unfold tdiError; try dsimp only
  (repeat' split) <;> simp [onlyIn_iff]
@[simp] theorem tdiError_frame (s : State) (p : Nat) :
    (tdiError s p).pending = s.pending ∧ (tdiError s p).tick = s.tick ∧ (tdiError s p).boot = s.boot ∧
    (tdiError s p).pwr = s.pwr ∧ (tdiError s p).thm = s.thm ∧ (tdiError s p).mgt = s.mgt ∧
    (tdiError s p).gly = s.gly ∧ (tdiError s p).dbg = s.dbg ∧ (tdiError s p).down = s.down := by
  simpa [onlyIn_iff] using tdiError_only s p
theorem updSp_only (s : State) (id : Nat) (f : SpanOp → SpanOp) : OnlyIn [.span] s (updSp s id f) := by
  unfold updSp; try dsimp only
  (repeat' split) <;> simp [onlyIn_iff]
@[simp] theorem updSp_frame (s : State) (id : Nat) (f : SpanOp → SpanOp) :
    (updSp s id f).pending = s.pending ∧ (updSp s id f).tick = s.tick ∧ (updSp s id f).free = s.free ∧
    (updSp s id f).dev = s.dev ∧ (updSp s id f).boot = s.boot ∧ (updSp s id f).trust = s.trust ∧
    (updSp s id f).regs = s.regs ∧ (updSp s id f).link = s.link ∧ (updSp s id f).pwr = s.pwr ∧
    (updSp s id f).thm = s.thm ∧ (updSp s id f).evt = s.evt ∧ (updSp s id f).mgt = s.mgt ∧
    (updSp s id f).gly = s.gly ∧ (updSp s id f).rng = s.rng ∧ (updSp s id f).krn = s.krn ∧
    (updSp s id f).mem = s.mem ∧ (updSp s id f).hbm = s.hbm ∧ (updSp s id f).fab = s.fab ∧
    (updSp s id f).dbg = s.dbg ∧ (updSp s id f).down = s.down := by
  simpa [onlyIn_iff] using updSp_only s id f
theorem putWire_only (s : State) (n : Nat) (p : Port) (l : List Bytes) : OnlyIn [.span] s (putWire s n p l) := by
  unfold putWire; try dsimp only
  (repeat' split) <;> simp [onlyIn_iff]
@[simp] theorem putWire_frame (s : State) (n : Nat) (p : Port) (l : List Bytes) :
    (putWire s n p l).pending = s.pending ∧ (putWire s n p l).tick = s.tick ∧ (putWire s n p l).free = s.free ∧
    (putWire s n p l).dev = s.dev ∧ (putWire s n p l).boot = s.boot ∧ (putWire s n p l).trust = s.trust ∧
    (putWire s n p l).regs = s.regs ∧ (putWire s n p l).link = s.link ∧ (putWire s n p l).pwr = s.pwr ∧
    (putWire s n p l).thm = s.thm ∧ (putWire s n p l).evt = s.evt ∧ (putWire s n p l).mgt = s.mgt ∧
    (putWire s n p l).gly = s.gly ∧ (putWire s n p l).rng = s.rng ∧ (putWire s n p l).krn = s.krn ∧
    (putWire s n p l).mem = s.mem ∧ (putWire s n p l).hbm = s.hbm ∧ (putWire s n p l).fab = s.fab ∧
    (putWire s n p l).dbg = s.dbg ∧ (putWire s n p l).down = s.down := by
  simpa [onlyIn_iff] using putWire_only s n p l
theorem sendVia_only (s : State) (n : Nat) (m : SpanMsg) : OnlyIn [.span] s (sendVia s n m) := by
  unfold sendVia; try dsimp only
  (repeat' split) <;> simp [onlyIn_iff]
@[simp] theorem sendVia_frame (s : State) (n : Nat) (m : SpanMsg) :
    (sendVia s n m).pending = s.pending ∧ (sendVia s n m).tick = s.tick ∧ (sendVia s n m).free = s.free ∧
    (sendVia s n m).dev = s.dev ∧ (sendVia s n m).boot = s.boot ∧ (sendVia s n m).trust = s.trust ∧
    (sendVia s n m).regs = s.regs ∧ (sendVia s n m).link = s.link ∧ (sendVia s n m).pwr = s.pwr ∧
    (sendVia s n m).thm = s.thm ∧ (sendVia s n m).evt = s.evt ∧ (sendVia s n m).mgt = s.mgt ∧
    (sendVia s n m).gly = s.gly ∧ (sendVia s n m).rng = s.rng ∧ (sendVia s n m).krn = s.krn ∧
    (sendVia s n m).mem = s.mem ∧ (sendVia s n m).hbm = s.hbm ∧ (sendVia s n m).fab = s.fab ∧
    (sendVia s n m).dbg = s.dbg ∧ (sendVia s n m).down = s.down := by
  simpa [onlyIn_iff] using sendVia_only s n m
theorem noteUsed_only (s : State) (id : Option Nat) (n : Nat) : OnlyIn [.span] s (noteUsed s id n) := by
  unfold noteUsed; try dsimp only
  (repeat' split) <;> simp [onlyIn_iff]
@[simp] theorem noteUsed_frame (s : State) (id : Option Nat) (n : Nat) :
    (noteUsed s id n).pending = s.pending ∧ (noteUsed s id n).tick = s.tick ∧ (noteUsed s id n).free = s.free ∧
    (noteUsed s id n).dev = s.dev ∧ (noteUsed s id n).boot = s.boot ∧ (noteUsed s id n).trust = s.trust ∧
    (noteUsed s id n).regs = s.regs ∧ (noteUsed s id n).link = s.link ∧ (noteUsed s id n).pwr = s.pwr ∧
    (noteUsed s id n).thm = s.thm ∧ (noteUsed s id n).evt = s.evt ∧ (noteUsed s id n).mgt = s.mgt ∧
    (noteUsed s id n).gly = s.gly ∧ (noteUsed s id n).rng = s.rng ∧ (noteUsed s id n).krn = s.krn ∧
    (noteUsed s id n).mem = s.mem ∧ (noteUsed s id n).hbm = s.hbm ∧ (noteUsed s id n).fab = s.fab ∧
    (noteUsed s id n).dbg = s.dbg ∧ (noteUsed s id n).down = s.down := by
  simpa [onlyIn_iff] using noteUsed_only s id n
theorem spanOut_only (s : State) (id : Option Nat) (ports : List Nat) (m : SpanMsg) : OnlyIn [.span] s (spanOut s id ports m) := by
  unfold spanOut; try dsimp only
  (repeat' split) <;> simp [onlyIn_iff]
@[simp] theorem spanOut_frame (s : State) (id : Option Nat) (ports : List Nat) (m : SpanMsg) :
    (spanOut s id ports m).pending = s.pending ∧ (spanOut s id ports m).tick = s.tick ∧ (spanOut s id ports m).free = s.free ∧
    (spanOut s id ports m).dev = s.dev ∧ (spanOut s id ports m).boot = s.boot ∧ (spanOut s id ports m).trust = s.trust ∧
    (spanOut s id ports m).regs = s.regs ∧ (spanOut s id ports m).link = s.link ∧ (spanOut s id ports m).pwr = s.pwr ∧
    (spanOut s id ports m).thm = s.thm ∧ (spanOut s id ports m).evt = s.evt ∧ (spanOut s id ports m).mgt = s.mgt ∧
    (spanOut s id ports m).gly = s.gly ∧ (spanOut s id ports m).rng = s.rng ∧ (spanOut s id ports m).krn = s.krn ∧
    (spanOut s id ports m).mem = s.mem ∧ (spanOut s id ports m).hbm = s.hbm ∧ (spanOut s id ports m).fab = s.fab ∧
    (spanOut s id ports m).dbg = s.dbg ∧ (spanOut s id ports m).down = s.down := by
  simpa [onlyIn_iff] using spanOut_only s id ports m
theorem flushWait_only (s : State) (n : Nat) : OnlyIn [.span] s (flushWait s n) := by
  unfold flushWait; try dsimp only
  (repeat' split) <;> simp [onlyIn_iff]
@[simp] theorem flushWait_frame (s : State) (n : Nat) :
    (flushWait s n).pending = s.pending ∧ (flushWait s n).tick = s.tick ∧ (flushWait s n).free = s.free ∧
    (flushWait s n).dev = s.dev ∧ (flushWait s n).boot = s.boot ∧ (flushWait s n).trust = s.trust ∧
    (flushWait s n).regs = s.regs ∧ (flushWait s n).link = s.link ∧ (flushWait s n).pwr = s.pwr ∧
    (flushWait s n).thm = s.thm ∧ (flushWait s n).evt = s.evt ∧ (flushWait s n).mgt = s.mgt ∧
    (flushWait s n).gly = s.gly ∧ (flushWait s n).rng = s.rng ∧ (flushWait s n).krn = s.krn ∧
    (flushWait s n).mem = s.mem ∧ (flushWait s n).hbm = s.hbm ∧ (flushWait s n).fab = s.fab ∧
    (flushWait s n).dbg = s.dbg ∧ (flushWait s n).down = s.down := by
  simpa [onlyIn_iff] using flushWait_only s n
theorem spanSend_only (s : State) (o : SpanOp) (r type : Nat) (b : Bytes) (info : Nat) : OnlyIn [.span] s (spanSend s o r type b info) := by
  unfold spanSend; try dsimp only
  (repeat' split) <;> simp [onlyIn_iff]
@[simp] theorem spanSend_frame (s : State) (o : SpanOp) (r type : Nat) (b : Bytes) (info : Nat) :
    (spanSend s o r type b info).pending = s.pending ∧ (spanSend s o r type b info).tick = s.tick ∧ (spanSend s o r type b info).free = s.free ∧
    (spanSend s o r type b info).dev = s.dev ∧ (spanSend s o r type b info).boot = s.boot ∧ (spanSend s o r type b info).trust = s.trust ∧
    (spanSend s o r type b info).regs = s.regs ∧ (spanSend s o r type b info).link = s.link ∧ (spanSend s o r type b info).pwr = s.pwr ∧
    (spanSend s o r type b info).thm = s.thm ∧ (spanSend s o r type b info).evt = s.evt ∧ (spanSend s o r type b info).mgt = s.mgt ∧
    (spanSend s o r type b info).gly = s.gly ∧ (spanSend s o r type b info).rng = s.rng ∧ (spanSend s o r type b info).krn = s.krn ∧
    (spanSend s o r type b info).mem = s.mem ∧ (spanSend s o r type b info).hbm = s.hbm ∧ (spanSend s o r type b info).fab = s.fab ∧
    (spanSend s o r type b info).dbg = s.dbg ∧ (spanSend s o r type b info).down = s.down := by
  simpa [onlyIn_iff] using spanSend_only s o r type b info
theorem dropSp_only (s : State) (id : Nat) : OnlyIn [.span] s (dropSp s id) := by
  unfold dropSp; try dsimp only
  (repeat' split) <;> simp [onlyIn_iff]
@[simp] theorem dropSp_frame (s : State) (id : Nat) :
    (dropSp s id).pending = s.pending ∧ (dropSp s id).tick = s.tick ∧ (dropSp s id).free = s.free ∧
    (dropSp s id).dev = s.dev ∧ (dropSp s id).boot = s.boot ∧ (dropSp s id).trust = s.trust ∧
    (dropSp s id).regs = s.regs ∧ (dropSp s id).link = s.link ∧ (dropSp s id).pwr = s.pwr ∧
    (dropSp s id).thm = s.thm ∧ (dropSp s id).evt = s.evt ∧ (dropSp s id).mgt = s.mgt ∧
    (dropSp s id).gly = s.gly ∧ (dropSp s id).rng = s.rng ∧ (dropSp s id).krn = s.krn ∧
    (dropSp s id).mem = s.mem ∧ (dropSp s id).hbm = s.hbm ∧ (dropSp s id).fab = s.fab ∧
    (dropSp s id).dbg = s.dbg ∧ (dropSp s id).down = s.down := by
  simpa [onlyIn_iff] using dropSp_only s id
theorem failSpan_only (s : State) (id status rank : Nat) : OnlyIn [.free, .dev, .link, .evt, .span, .rng, .krn, .mem, .hbm, .fab] s (failSpan s id status rank) := by
  unfold failSpan; try dsimp only
  (repeat' split) <;> simp [onlyIn_iff]
@[simp] theorem failSpan_frame (s : State) (id status rank : Nat) :
    (failSpan s id status rank).pending = s.pending ∧ (failSpan s id status rank).tick = s.tick ∧ (failSpan s id status rank).boot = s.boot ∧
    (failSpan s id status rank).trust = s.trust ∧ (failSpan s id status rank).regs = s.regs ∧ (failSpan s id status rank).pwr = s.pwr ∧
    (failSpan s id status rank).thm = s.thm ∧ (failSpan s id status rank).mgt = s.mgt ∧ (failSpan s id status rank).gly = s.gly ∧
    (failSpan s id status rank).dbg = s.dbg ∧ (failSpan s id status rank).down = s.down := by
  simpa [onlyIn_iff] using failSpan_only s id status rank
theorem endSpan_only (s : State) (id result : Nat) : OnlyIn [.free, .dev, .link, .evt, .span, .rng, .krn, .mem, .hbm, .fab] s (endSpan s id result) := by
  unfold endSpan; try dsimp only
  (repeat' split) <;> simp [onlyIn_iff]
@[simp] theorem endSpan_frame (s : State) (id result : Nat) :
    (endSpan s id result).pending = s.pending ∧ (endSpan s id result).tick = s.tick ∧ (endSpan s id result).boot = s.boot ∧
    (endSpan s id result).trust = s.trust ∧ (endSpan s id result).regs = s.regs ∧ (endSpan s id result).pwr = s.pwr ∧
    (endSpan s id result).thm = s.thm ∧ (endSpan s id result).mgt = s.mgt ∧ (endSpan s id result).gly = s.gly ∧
    (endSpan s id result).dbg = s.dbg ∧ (endSpan s id result).down = s.down := by
  simpa [onlyIn_iff] using endSpan_only s id result
theorem failPort_only (s : State) (n status : Nat) : OnlyIn [.free, .dev, .link, .evt, .span, .rng, .krn, .mem, .hbm, .fab] s (failPort s n status) := by
  unfold failPort; try dsimp only
  (repeat' split) <;> simp [onlyIn_iff]
@[simp] theorem failPort_frame (s : State) (n status : Nat) :
    (failPort s n status).pending = s.pending ∧ (failPort s n status).tick = s.tick ∧ (failPort s n status).boot = s.boot ∧
    (failPort s n status).trust = s.trust ∧ (failPort s n status).regs = s.regs ∧ (failPort s n status).pwr = s.pwr ∧
    (failPort s n status).thm = s.thm ∧ (failPort s n status).mgt = s.mgt ∧ (failPort s n status).gly = s.gly ∧
    (failPort s n status).dbg = s.dbg ∧ (failPort s n status).down = s.down := by
  simpa [onlyIn_iff] using failPort_only s n status
theorem portLeaves_only (s : State) (n st status : Nat) : OnlyIn [.free, .dev, .link, .evt, .span, .rng, .krn, .mem, .hbm, .fab] s (portLeaves s n st status) := by
  unfold portLeaves; try dsimp only
  (repeat' split) <;> simp [onlyIn_iff]
@[simp] theorem portLeaves_frame (s : State) (n st status : Nat) :
    (portLeaves s n st status).pending = s.pending ∧ (portLeaves s n st status).tick = s.tick ∧ (portLeaves s n st status).boot = s.boot ∧
    (portLeaves s n st status).trust = s.trust ∧ (portLeaves s n st status).regs = s.regs ∧ (portLeaves s n st status).pwr = s.pwr ∧
    (portLeaves s n st status).thm = s.thm ∧ (portLeaves s n st status).mgt = s.mgt ∧ (portLeaves s n st status).gly = s.gly ∧
    (portLeaves s n st status).dbg = s.dbg ∧ (portLeaves s n st status).down = s.down := by
  simpa [onlyIn_iff] using portLeaves_only s n st status
theorem portDown_only (s : State) (n reason : Nat) : OnlyIn [.free, .dev, .link, .evt, .span, .rng, .krn, .mem, .hbm, .fab] s (portDown s n reason) := by
  unfold portDown; try dsimp only
  (repeat' split) <;> simp [onlyIn_iff]
@[simp] theorem portDown_frame (s : State) (n reason : Nat) :
    (portDown s n reason).pending = s.pending ∧ (portDown s n reason).tick = s.tick ∧ (portDown s n reason).boot = s.boot ∧
    (portDown s n reason).trust = s.trust ∧ (portDown s n reason).regs = s.regs ∧ (portDown s n reason).pwr = s.pwr ∧
    (portDown s n reason).thm = s.thm ∧ (portDown s n reason).mgt = s.mgt ∧ (portDown s n reason).gly = s.gly ∧
    (portDown s n reason).dbg = s.dbg ∧ (portDown s n reason).down = s.down := by
  simpa [onlyIn_iff] using portDown_only s n reason
theorem bindCores_only (s : State) : OnlyIn [.dev] s (bindCores s) := by
  unfold bindCores; try dsimp only
  (repeat' split) <;> simp [onlyIn_iff]
@[simp] theorem bindCores_frame (s : State) :
    (bindCores s).pending = s.pending ∧ (bindCores s).tick = s.tick ∧ (bindCores s).free = s.free ∧
    (bindCores s).boot = s.boot ∧ (bindCores s).trust = s.trust ∧ (bindCores s).regs = s.regs ∧
    (bindCores s).link = s.link ∧ (bindCores s).pwr = s.pwr ∧ (bindCores s).thm = s.thm ∧
    (bindCores s).evt = s.evt ∧ (bindCores s).mgt = s.mgt ∧ (bindCores s).gly = s.gly ∧
    (bindCores s).span = s.span ∧ (bindCores s).rng = s.rng ∧ (bindCores s).krn = s.krn ∧
    (bindCores s).mem = s.mem ∧ (bindCores s).hbm = s.hbm ∧ (bindCores s).fab = s.fab ∧
    (bindCores s).dbg = s.dbg ∧ (bindCores s).down = s.down := by
  simpa [onlyIn_iff] using bindCores_only s
theorem retireRow_only (s : State) (e : Nat) : OnlyIn [.boot] s (retireRow s e) := by
  unfold retireRow; try dsimp only
  (repeat' split) <;> simp [onlyIn_iff]
@[simp] theorem retireRow_frame (s : State) (e : Nat) :
    (retireRow s e).pending = s.pending ∧ (retireRow s e).tick = s.tick ∧ (retireRow s e).free = s.free ∧
    (retireRow s e).dev = s.dev ∧ (retireRow s e).trust = s.trust ∧ (retireRow s e).regs = s.regs ∧
    (retireRow s e).link = s.link ∧ (retireRow s e).pwr = s.pwr ∧ (retireRow s e).thm = s.thm ∧
    (retireRow s e).evt = s.evt ∧ (retireRow s e).mgt = s.mgt ∧ (retireRow s e).gly = s.gly ∧
    (retireRow s e).span = s.span ∧ (retireRow s e).rng = s.rng ∧ (retireRow s e).krn = s.krn ∧
    (retireRow s e).mem = s.mem ∧ (retireRow s e).hbm = s.hbm ∧ (retireRow s e).fab = s.fab ∧
    (retireRow s e).dbg = s.dbg ∧ (retireRow s e).down = s.down := by
  simpa [onlyIn_iff] using retireRow_only s e
theorem setPole_only (s : State) (p : Nat) (x : Pole) : OnlyIn [.fab] s (setPole s p x) := by
  unfold setPole; try dsimp only
  (repeat' split) <;> simp [onlyIn_iff]
@[simp] theorem setPole_frame (s : State) (p : Nat) (x : Pole) :
    (setPole s p x).pending = s.pending ∧ (setPole s p x).tick = s.tick ∧ (setPole s p x).free = s.free ∧
    (setPole s p x).dev = s.dev ∧ (setPole s p x).boot = s.boot ∧ (setPole s p x).trust = s.trust ∧
    (setPole s p x).regs = s.regs ∧ (setPole s p x).link = s.link ∧ (setPole s p x).pwr = s.pwr ∧
    (setPole s p x).thm = s.thm ∧ (setPole s p x).evt = s.evt ∧ (setPole s p x).mgt = s.mgt ∧
    (setPole s p x).gly = s.gly ∧ (setPole s p x).span = s.span ∧ (setPole s p x).rng = s.rng ∧
    (setPole s p x).krn = s.krn ∧ (setPole s p x).mem = s.mem ∧ (setPole s p x).hbm = s.hbm ∧
    (setPole s p x).dbg = s.dbg ∧ (setPole s p x).down = s.down := by
  simpa [onlyIn_iff] using setPole_only s p x
theorem poleStep_only (s : State) (pole : Nat) (old new : Pole) : OnlyIn [.evt, .fab] s (poleStep s pole old new) := by
  unfold poleStep; try dsimp only
  (repeat' split) <;> simp [onlyIn_iff]
@[simp] theorem poleStep_frame (s : State) (pole : Nat) (old new : Pole) :
    (poleStep s pole old new).pending = s.pending ∧ (poleStep s pole old new).tick = s.tick ∧ (poleStep s pole old new).free = s.free ∧
    (poleStep s pole old new).dev = s.dev ∧ (poleStep s pole old new).boot = s.boot ∧ (poleStep s pole old new).trust = s.trust ∧
    (poleStep s pole old new).regs = s.regs ∧ (poleStep s pole old new).link = s.link ∧ (poleStep s pole old new).pwr = s.pwr ∧
    (poleStep s pole old new).thm = s.thm ∧ (poleStep s pole old new).mgt = s.mgt ∧ (poleStep s pole old new).gly = s.gly ∧
    (poleStep s pole old new).span = s.span ∧ (poleStep s pole old new).rng = s.rng ∧ (poleStep s pole old new).krn = s.krn ∧
    (poleStep s pole old new).mem = s.mem ∧ (poleStep s pole old new).hbm = s.hbm ∧ (poleStep s pole old new).dbg = s.dbg ∧
    (poleStep s pole old new).down = s.down := by
  simpa [onlyIn_iff] using poleStep_only s pole old new
theorem cutPoles_only (s : State) (k : Nat) : OnlyIn [.boot, .fab] s (cutPoles s k) := by
  unfold cutPoles; try dsimp only
  (repeat' split) <;> simp [onlyIn_iff]
@[simp] theorem cutPoles_frame (s : State) (k : Nat) :
    (cutPoles s k).pending = s.pending ∧ (cutPoles s k).tick = s.tick ∧ (cutPoles s k).free = s.free ∧
    (cutPoles s k).dev = s.dev ∧ (cutPoles s k).trust = s.trust ∧ (cutPoles s k).regs = s.regs ∧
    (cutPoles s k).link = s.link ∧ (cutPoles s k).pwr = s.pwr ∧ (cutPoles s k).thm = s.thm ∧
    (cutPoles s k).evt = s.evt ∧ (cutPoles s k).mgt = s.mgt ∧ (cutPoles s k).gly = s.gly ∧
    (cutPoles s k).span = s.span ∧ (cutPoles s k).rng = s.rng ∧ (cutPoles s k).krn = s.krn ∧
    (cutPoles s k).mem = s.mem ∧ (cutPoles s k).hbm = s.hbm ∧ (cutPoles s k).dbg = s.dbg ∧
    (cutPoles s k).down = s.down := by
  simpa [onlyIn_iff] using cutPoles_only s k
theorem loadRepairs_only (s : State) : OnlyIn [.dev, .boot, .pwr, .thm, .evt, .mem, .hbm, .fab] s (loadRepairs s) := by
  unfold loadRepairs; try dsimp only
  (repeat' split) <;> simp [onlyIn_iff]
@[simp] theorem loadRepairs_frame (s : State) :
    (loadRepairs s).pending = s.pending ∧ (loadRepairs s).tick = s.tick ∧ (loadRepairs s).free = s.free ∧
    (loadRepairs s).trust = s.trust ∧ (loadRepairs s).regs = s.regs ∧ (loadRepairs s).link = s.link ∧
    (loadRepairs s).mgt = s.mgt ∧ (loadRepairs s).gly = s.gly ∧ (loadRepairs s).span = s.span ∧
    (loadRepairs s).rng = s.rng ∧ (loadRepairs s).krn = s.krn ∧ (loadRepairs s).dbg = s.dbg ∧
    (loadRepairs s).down = s.down := by
  simpa [onlyIn_iff] using loadRepairs_only s
theorem noteAbove_only (s : State) : OnlyIn [.thm, .evt] s (noteAbove s) := by
  unfold noteAbove; try dsimp only
  (repeat' split) <;> simp [onlyIn_iff]
@[simp] theorem noteAbove_frame (s : State) :
    (noteAbove s).pending = s.pending ∧ (noteAbove s).tick = s.tick ∧ (noteAbove s).free = s.free ∧
    (noteAbove s).dev = s.dev ∧ (noteAbove s).boot = s.boot ∧ (noteAbove s).trust = s.trust ∧
    (noteAbove s).regs = s.regs ∧ (noteAbove s).link = s.link ∧ (noteAbove s).pwr = s.pwr ∧
    (noteAbove s).mgt = s.mgt ∧ (noteAbove s).gly = s.gly ∧ (noteAbove s).span = s.span ∧
    (noteAbove s).rng = s.rng ∧ (noteAbove s).krn = s.krn ∧ (noteAbove s).mem = s.mem ∧
    (noteAbove s).hbm = s.hbm ∧ (noteAbove s).fab = s.fab ∧ (noteAbove s).dbg = s.dbg ∧
    (noteAbove s).down = s.down := by
  simpa [onlyIn_iff] using noteAbove_only s
theorem portOff_only (s : State) (n : Nat) : OnlyIn [.pwr, .span] s (portOff s n) := by
  unfold portOff; try dsimp only
  (repeat' split) <;> simp [onlyIn_iff]
@[simp] theorem portOff_frame (s : State) (n : Nat) :
    (portOff s n).pending = s.pending ∧ (portOff s n).tick = s.tick ∧ (portOff s n).free = s.free ∧
    (portOff s n).dev = s.dev ∧ (portOff s n).boot = s.boot ∧ (portOff s n).trust = s.trust ∧
    (portOff s n).regs = s.regs ∧ (portOff s n).link = s.link ∧ (portOff s n).thm = s.thm ∧
    (portOff s n).evt = s.evt ∧ (portOff s n).mgt = s.mgt ∧ (portOff s n).gly = s.gly ∧
    (portOff s n).rng = s.rng ∧ (portOff s n).krn = s.krn ∧ (portOff s n).mem = s.mem ∧
    (portOff s n).hbm = s.hbm ∧ (portOff s n).fab = s.fab ∧ (portOff s n).dbg = s.dbg ∧
    (portOff s n).down = s.down := by
  simpa [onlyIn_iff] using portOff_only s n
theorem stopPort_only (s : State) (n : Nat) : OnlyIn [.pwr, .span, .fab] s (stopPort s n) := by
  unfold stopPort; try dsimp only
  (repeat' split) <;> simp [onlyIn_iff]
@[simp] theorem stopPort_frame (s : State) (n : Nat) :
    (stopPort s n).pending = s.pending ∧ (stopPort s n).tick = s.tick ∧ (stopPort s n).free = s.free ∧
    (stopPort s n).dev = s.dev ∧ (stopPort s n).boot = s.boot ∧ (stopPort s n).trust = s.trust ∧
    (stopPort s n).regs = s.regs ∧ (stopPort s n).link = s.link ∧ (stopPort s n).thm = s.thm ∧
    (stopPort s n).evt = s.evt ∧ (stopPort s n).mgt = s.mgt ∧ (stopPort s n).gly = s.gly ∧
    (stopPort s n).rng = s.rng ∧ (stopPort s n).krn = s.krn ∧ (stopPort s n).mem = s.mem ∧
    (stopPort s n).hbm = s.hbm ∧ (stopPort s n).dbg = s.dbg ∧ (stopPort s n).down = s.down := by
  simpa [onlyIn_iff] using stopPort_only s n
theorem perstRelease_only (sris pufOk : Bool) (s : State) : OnlyIn [.tick, .dev, .boot, .link, .pwr] s (perstRelease sris pufOk s) := by
  unfold perstRelease; try dsimp only
  (repeat' split) <;> simp [onlyIn_iff]
@[simp] theorem perstRelease_frame (sris pufOk : Bool) (s : State) :
    (perstRelease sris pufOk s).pending = s.pending ∧ (perstRelease sris pufOk s).free = s.free ∧ (perstRelease sris pufOk s).trust = s.trust ∧
    (perstRelease sris pufOk s).regs = s.regs ∧ (perstRelease sris pufOk s).thm = s.thm ∧ (perstRelease sris pufOk s).evt = s.evt ∧
    (perstRelease sris pufOk s).mgt = s.mgt ∧ (perstRelease sris pufOk s).gly = s.gly ∧ (perstRelease sris pufOk s).span = s.span ∧
    (perstRelease sris pufOk s).rng = s.rng ∧ (perstRelease sris pufOk s).krn = s.krn ∧ (perstRelease sris pufOk s).mem = s.mem ∧
    (perstRelease sris pufOk s).hbm = s.hbm ∧ (perstRelease sris pufOk s).fab = s.fab ∧ (perstRelease sris pufOk s).dbg = s.dbg ∧
    (perstRelease sris pufOk s).down = s.down := by
  simpa [onlyIn_iff] using perstRelease_only sris pufOk s
theorem configReady_only (s : State) : OnlyIn [.boot, .link] s (configReady s) := by
  unfold configReady; try dsimp only
  (repeat' split) <;> simp [onlyIn_iff]
@[simp] theorem configReady_frame (s : State) :
    (configReady s).pending = s.pending ∧ (configReady s).tick = s.tick ∧ (configReady s).free = s.free ∧
    (configReady s).dev = s.dev ∧ (configReady s).trust = s.trust ∧ (configReady s).regs = s.regs ∧
    (configReady s).pwr = s.pwr ∧ (configReady s).thm = s.thm ∧ (configReady s).evt = s.evt ∧
    (configReady s).mgt = s.mgt ∧ (configReady s).gly = s.gly ∧ (configReady s).span = s.span ∧
    (configReady s).rng = s.rng ∧ (configReady s).krn = s.krn ∧ (configReady s).mem = s.mem ∧
    (configReady s).hbm = s.hbm ∧ (configReady s).fab = s.fab ∧ (configReady s).dbg = s.dbg ∧
    (configReady s).down = s.down := by
  simpa [onlyIn_iff] using configReady_only s
theorem cfgRetry_only (fn : Nat) (s : State) : OnlyIn [.link] s (cfgRetry fn s) := by
  unfold cfgRetry; try dsimp only
  (repeat' split) <;> simp [onlyIn_iff]
@[simp] theorem cfgRetry_frame (fn : Nat) (s : State) :
    (cfgRetry fn s).pending = s.pending ∧ (cfgRetry fn s).tick = s.tick ∧ (cfgRetry fn s).free = s.free ∧
    (cfgRetry fn s).dev = s.dev ∧ (cfgRetry fn s).boot = s.boot ∧ (cfgRetry fn s).trust = s.trust ∧
    (cfgRetry fn s).regs = s.regs ∧ (cfgRetry fn s).pwr = s.pwr ∧ (cfgRetry fn s).thm = s.thm ∧
    (cfgRetry fn s).evt = s.evt ∧ (cfgRetry fn s).mgt = s.mgt ∧ (cfgRetry fn s).gly = s.gly ∧
    (cfgRetry fn s).span = s.span ∧ (cfgRetry fn s).rng = s.rng ∧ (cfgRetry fn s).krn = s.krn ∧
    (cfgRetry fn s).mem = s.mem ∧ (cfgRetry fn s).hbm = s.hbm ∧ (cfgRetry fn s).fab = s.fab ∧
    (cfgRetry fn s).dbg = s.dbg ∧ (cfgRetry fn s).down = s.down := by
  simpa [onlyIn_iff] using cfgRetry_only fn s
theorem linkTrained_only (rate10 width : Nat) (flit : Bool) (s : State) : OnlyIn [.link, .evt, .span] s (linkTrained rate10 width flit s) := by
  unfold linkTrained; try dsimp only
  (repeat' split) <;> simp [onlyIn_iff]
@[simp] theorem linkTrained_frame (rate10 width : Nat) (flit : Bool) (s : State) :
    (linkTrained rate10 width flit s).pending = s.pending ∧ (linkTrained rate10 width flit s).tick = s.tick ∧ (linkTrained rate10 width flit s).free = s.free ∧
    (linkTrained rate10 width flit s).dev = s.dev ∧ (linkTrained rate10 width flit s).boot = s.boot ∧ (linkTrained rate10 width flit s).trust = s.trust ∧
    (linkTrained rate10 width flit s).regs = s.regs ∧ (linkTrained rate10 width flit s).pwr = s.pwr ∧ (linkTrained rate10 width flit s).thm = s.thm ∧
    (linkTrained rate10 width flit s).mgt = s.mgt ∧ (linkTrained rate10 width flit s).gly = s.gly ∧ (linkTrained rate10 width flit s).rng = s.rng ∧
    (linkTrained rate10 width flit s).krn = s.krn ∧ (linkTrained rate10 width flit s).mem = s.mem ∧ (linkTrained rate10 width flit s).hbm = s.hbm ∧
    (linkTrained rate10 width flit s).fab = s.fab ∧ (linkTrained rate10 width flit s).dbg = s.dbg ∧ (linkTrained rate10 width flit s).down = s.down := by
  simpa [onlyIn_iff] using linkTrained_only rate10 width flit s
theorem linkL0p_only (width : Nat) (s : State) : OnlyIn [.link, .span] s (linkL0p width s) := by
  unfold linkL0p; try dsimp only
  (repeat' split) <;> simp [onlyIn_iff]
@[simp] theorem linkL0p_frame (width : Nat) (s : State) :
    (linkL0p width s).pending = s.pending ∧ (linkL0p width s).tick = s.tick ∧ (linkL0p width s).free = s.free ∧
    (linkL0p width s).dev = s.dev ∧ (linkL0p width s).boot = s.boot ∧ (linkL0p width s).trust = s.trust ∧
    (linkL0p width s).regs = s.regs ∧ (linkL0p width s).pwr = s.pwr ∧ (linkL0p width s).thm = s.thm ∧
    (linkL0p width s).evt = s.evt ∧ (linkL0p width s).mgt = s.mgt ∧ (linkL0p width s).gly = s.gly ∧
    (linkL0p width s).rng = s.rng ∧ (linkL0p width s).krn = s.krn ∧ (linkL0p width s).mem = s.mem ∧
    (linkL0p width s).hbm = s.hbm ∧ (linkL0p width s).fab = s.fab ∧ (linkL0p width s).dbg = s.dbg ∧
    (linkL0p width s).down = s.down := by
  simpa [onlyIn_iff] using linkL0p_only width s
theorem linkChange_only (rate10 width : Nat) (how : LinkEvent) (s : State) : OnlyIn [.link, .evt, .span] s (linkChange rate10 width how s) := by
  unfold linkChange; try dsimp only
  (repeat' split) <;> simp [onlyIn_iff]
@[simp] theorem linkChange_frame (rate10 width : Nat) (how : LinkEvent) (s : State) :
    (linkChange rate10 width how s).pending = s.pending ∧ (linkChange rate10 width how s).tick = s.tick ∧ (linkChange rate10 width how s).free = s.free ∧
    (linkChange rate10 width how s).dev = s.dev ∧ (linkChange rate10 width how s).boot = s.boot ∧ (linkChange rate10 width how s).trust = s.trust ∧
    (linkChange rate10 width how s).regs = s.regs ∧ (linkChange rate10 width how s).pwr = s.pwr ∧ (linkChange rate10 width how s).thm = s.thm ∧
    (linkChange rate10 width how s).mgt = s.mgt ∧ (linkChange rate10 width how s).gly = s.gly ∧ (linkChange rate10 width how s).rng = s.rng ∧
    (linkChange rate10 width how s).krn = s.krn ∧ (linkChange rate10 width how s).mem = s.mem ∧ (linkChange rate10 width how s).hbm = s.hbm ∧
    (linkChange rate10 width how s).fab = s.fab ∧ (linkChange rate10 width how s).dbg = s.dbg ∧ (linkChange rate10 width how s).down = s.down := by
  simpa [onlyIn_iff] using linkChange_only rate10 width how s

end Sys2Proof.Laws
end

