-- ==== Sys2Proof/Laws/Keep.lean ====
section
/-! SUPPORT. Each family of commands keeps its effect to the parts that its `keep…` names: the effect passes through
unchanged when it touches no other part. -/
namespace Sys2Proof.Laws
open Sys2Proof.Machine Sys2Proof.Safety

/-- Two states that agree in every part are equal. -/
theorem state_ext {s t : State} (h : OnlyIn [] s t) : t = s := by
  have k := onlyIn_iff.1 h
  simp only [List.not_mem_nil, false_or] at k
  cases s; cases t
  simp_all

theorem keepPower_eq {s t : State} (h : OnlyIn [.pwr, .evt, .boot] s t) : keepPower s t = t := by
  have k := onlyIn_iff.1 h
  simp at k
  cases s; cases t
  simp_all [keepPower]
theorem keepDomain_eq {s t : State} (h : OnlyIn [.pwr, .krn] s t) : keepDomain s t = t := by
  have k := onlyIn_iff.1 h
  simp at k
  cases s; cases t
  simp_all [keepDomain]
theorem keepThermal_eq {s t : State} (h : OnlyIn [.thm, .evt, .boot, .pwr] s t) : keepThermal s t = t := by
  have k := onlyIn_iff.1 h
  simp at k
  cases s; cases t
  simp_all [keepThermal]
theorem keepTrustEv_eq {s t : State} (h : OnlyIn [.trust, .evt] s t) : keepTrustEv s t = t := by
  have k := onlyIn_iff.1 h
  simp at k
  cases s; cases t
  simp_all [keepTrustEv]
theorem keepLink_eq {s t : State} (h : OnlyIn [.dev, .boot, .link, .pwr, .evt, .tick] s t) : keepLink s t = t := by
  have k := onlyIn_iff.1 h
  simp at k
  cases s; cases t
  simp_all [keepLink]
theorem keepBoot_eq {s t : State} (h : OnlyIn [.boot, .trust, .evt] s t) : keepBoot s t = t := by
  have k := onlyIn_iff.1 h
  simp at k
  cases s; cases t
  simp_all [keepBoot]
theorem keepFab_eq {s t : State} (h : OnlyIn [.fab, .evt] s t) : keepFab s t = t := by
  have k := onlyIn_iff.1 h
  simp at k
  cases s; cases t
  simp_all [keepFab]
theorem keepMigrate_eq {s t : State} (h : OnlyIn [.fab, .mem, .hbm, .evt] s t) : keepMigrate s t = t := by
  have k := onlyIn_iff.1 h
  simp at k
  cases s; cases t
  simp_all [keepMigrate]
theorem keepGly_eq {s t : State} (h : OnlyIn [.free, .gly, .evt] s t) : keepGly s t = t := by
  have k := onlyIn_iff.1 h
  simp at k
  cases s; cases t
  simp_all [keepGly]
theorem keepPwr_eq {s t : State} (h : OnlyIn [.pwr] s t) : keepPwr s t = t := by
  have k := onlyIn_iff.1 h
  simp at k
  cases s; cases t
  simp_all [keepPwr]
theorem keepEvt_eq {s t : State} (h : OnlyIn [.evt] s t) : keepEvt s t = t := by
  have k := onlyIn_iff.1 h
  simp at k
  cases s; cases t
  simp_all [keepEvt]
theorem keepMat_eq {s t : State} (h : OnlyIn [.krn, .mem, .hbm, .fab, .evt, .free, .link] s t) : keepMat s t = t := by
  have k := onlyIn_iff.1 h
  simp at k
  cases s; cases t
  simp_all [keepMat]

end Sys2Proof.Laws
end

