-- ==== Sys2Proof/Laws/Memory.lean ====
section
/-! SUPPORT. The byte memory: a read after a write, and the canonical form that every operation keeps. -/
namespace Sys2Proof.Laws
open Sys2Proof.Machine Sys2Proof.Safety

theorem tget_tset {α : Type} (t : Tab α) (d : α) (k j : Nat) (v : α) :
    tget (tset t k v) d j = if j = k then v else tget t d j := by
  induction t with
  | nil =>
    simp only [tset, tget]
    by_cases h : k = j
    · simp [h]
    · have hj : ¬ j = k := fun e => h e.symm
      simp [h, hj]
  | cons c r ih =>
    obtain ⟨i, w⟩ := c
    simp only [tset]
    split
    · simp only [tget]
      by_cases h : k = j
      · simp [h]
      · have hj : ¬ j = k := fun e => h e.symm
        simp [h, hj]
    · split
      · rename_i h1 h2
        subst h2
        simp only [tget]
        by_cases h : k = j
        · simp [h]
        · have hj : ¬ j = k := fun e => h e.symm
          simp [h, hj]
      · rename_i h1 h2
        simp only [tget, ih]
        by_cases h : i = j
        · subst h
          have hj : ¬ i = k := fun e => h2 e.symm
          simp [hj]
        · simp [h]
theorem tget_tset_ne {α : Type} (t : Tab α) (d : α) {k j : Nat} (v : α) (h : k ≠ j) :
    tget (tset t k v) d j = tget t d j := by
  rw [tget_tset, if_neg (fun e => h e.symm)]

/-- Every listed address lies above `a`. -/
def Above (a : Nat) (l : List Host.Cell) : Prop := ∀ c ∈ l, a < c.1

theorem cellsWf_cons {d : Nat → Byte} {a : Nat} {v : Byte} {l : List Host.Cell} :
    cellsWf d ((a, v) :: l) = true ↔ v ≠ d a ∧ Above a l ∧ cellsWf d l = true := by
  induction l generalizing a v with
  | nil => simp [cellsWf, Above]
  | cons c r ih =>
    obtain ⟨b, w⟩ := c
    have h := ih (a := b) (v := w)
    simp only [cellsWf, Bool.and_eq_true, bne_iff_ne, ne_eq, decide_eq_true_eq]
    constructor
    · rintro ⟨⟨h1, h2⟩, h3⟩
      refine ⟨h1, ?_, h3⟩
      intro c hc
      rcases List.mem_cons.1 hc with rfl | hc
      · exact h2
      · exact Nat.lt_trans h2 ((h.1 h3).2.1 c hc)
    · rintro ⟨h1, h2, h3⟩
      exact ⟨⟨h1, h2 (b, w) (List.mem_cons_self ..)⟩, h3⟩

theorem cput_above {d : Nat → Byte} {l : List Host.Cell} {a k : Nat} {v : Byte} (h : Above k l) (hk : k < a) :
    Above k (cput d l a v) := by
  induction l with
  | nil =>
    simp only [cput]
    split
    · intro c hc; cases hc
    · intro c hc; rw [List.mem_singleton.1 hc]; exact hk
  | cons c r ih =>
    obtain ⟨b, w⟩ := c
    have hr : Above k r := fun c hc => h c (List.mem_cons_of_mem _ hc)
    have hb : k < b := h (b, w) (List.mem_cons_self ..)
    simp only [cput]
    split
    · split
      · exact h
      · intro c hc
        rcases List.mem_cons.1 hc with rfl | hc
        · exact hk
        · exact h c hc
    · split
      · split
        · exact hr
        · intro c hc
          rcases List.mem_cons.1 hc with rfl | hc
          · exact hk
          · exact hr c hc
      · intro c hc
        rcases List.mem_cons.1 hc with rfl | hc
        · exact hb
        · exact ih hr c hc

/-- One byte written keeps the canonical form. -/
theorem cput_wf {d : Nat → Byte} {l : List Host.Cell} (a : Nat) (v : Byte) (h : cellsWf d l = true) :
    cellsWf d (cput d l a v) = true := by
  induction l with
  | nil =>
    simp only [cput]
    split
    · rfl
    · simp [cellsWf]; assumption
  | cons c r ih =>
    obtain ⟨b, w⟩ := c
    obtain ⟨h1, h2, h3⟩ := cellsWf_cons.1 h
    simp only [cput]
    split
    · rename_i hab
      split
      · exact h
      · rename_i hv
        refine cellsWf_cons.2 ⟨hv, ?_, h⟩
        intro c hc
        rcases List.mem_cons.1 hc with rfl | hc
        · exact hab
        · exact Nat.lt_trans hab (h2 c hc)
    · split
      · rename_i hab
        subst hab
        split
        · exact h3
        · rename_i hv; exact cellsWf_cons.2 ⟨hv, h2, h3⟩
      · rename_i h4 h5
        exact cellsWf_cons.2 ⟨h1, cput_above h2 (Nat.lt_of_le_of_ne (Nat.le_of_not_lt h4) (Ne.symm h5)), ih h3⟩

/-- Several bytes written keep it. -/
theorem cputs_wf {d : Nat → Byte} {l : List Host.Cell} (a : Nat) (b : Bytes) (h : cellsWf d l = true) :
    cellsWf d (cputs d l a b) = true := by
  unfold cputs
  generalize b.zipIdx = z
  induction z generalizing l with
  | nil => exact h
  | cons x z ih => exact ih (cput_wf _ _ h)

theorem cellsWf_filter {d : Nat → Byte} {l : List Host.Cell} (p : Host.Cell → Bool) (h : cellsWf d l = true) :
    cellsWf d (l.filter p) = true := by
  induction l with
  | nil => rfl
  | cons c r ih =>
    obtain ⟨b, w⟩ := c
    obtain ⟨h1, h2, h3⟩ := cellsWf_cons.1 h
    simp only [List.filter]
    split
    · exact cellsWf_cons.2 ⟨h1, fun c hc => h2 c (List.mem_filter.1 hc).1, ih h3⟩
    · exact ih h3

/-- Cells dropped keep it. -/
theorem cdrop_wf {d : Nat → Byte} {l : List Host.Cell} (p : Nat → Bool) (h : cellsWf d l = true) :
    cellsWf d (cdrop l p) = true := cellsWf_filter _ h

/-- The canonical form depends on the default only at the listed addresses. -/
theorem cellsWf_congr {d e : Nat → Byte} {l : List Host.Cell} (h : cellsWf d l = true) (hd : ∀ c ∈ l, d c.1 = e c.1) :
    cellsWf e l = true := by
  induction l with
  | nil => rfl
  | cons c r ih =>
    obtain ⟨b, w⟩ := c
    obtain ⟨h1, h2, h3⟩ := cellsWf_cons.1 h
    refine cellsWf_cons.2 ⟨?_, h2, ih h3 (fun c hc => hd c (List.mem_cons_of_mem _ hc))⟩
    rw [← hd (b, w) (List.mem_cons_self ..)]; exact h1

theorem cget_above {l : List Host.Cell} {a k : Nat} (h : Above k l) (hk : a ≤ k) : cget l a = none := by
  induction l with
  | nil => rfl
  | cons c r ih =>
    obtain ⟨b, w⟩ := c
    have hb : k < b := h (b, w) (List.mem_cons_self ..)
    have hne : b ≠ a := by omega
    simp only [cget, if_neg hne]
    exact ih (fun c hc => h c (List.mem_cons_of_mem _ hc))

/-- A byte reads as it was last written; every other byte is as before. -/
theorem cget_cput {d : Nat → Byte} {l : List Host.Cell} (h : cellsWf d l = true) (a b : Nat) (v : Byte) :
    (cget (cput d l a v) b).getD (d b) = if b = a then v else (cget l b).getD (d b) := by
  induction l with
  | nil =>
    simp only [cput]
    by_cases hv : v = d a <;> by_cases hb : b = a
    · subst hb; simp [hv, cget]
    · simp [hv, cget, hb]
    · subst hb; simp [hv, cget]
    · have hab : ¬ a = b := fun e => hb e.symm
      simp [hv, cget, hb, hab]
  | cons c r ih =>
    obtain ⟨k, w⟩ := c
    obtain ⟨h1, h2, h3⟩ := cellsWf_cons.1 h
    simp only [cput]
    by_cases hk : a < k
    · simp only [if_pos hk]
      have hka : k ≠ a := by omega
      by_cases hb : b = a
      · subst hb
        by_cases hv : v = d b
        · have : cget r b = none := cget_above h2 (by omega)
          simp [hv, cget, hka, this]
        · simp [hv, cget]
      · have hab : a ≠ b := fun e => hb e.symm
        by_cases hv : v = d a
        · simp [hv, cget, hb]
        · simp [hv, cget, hb, hab]
    · simp only [if_neg hk]
      by_cases hak : a = k
      · subst hak
        simp only [if_true]
        by_cases hb : b = a
        · subst hb
          by_cases hv : v = d b
          · have : cget r b = none := cget_above h2 (by omega)
            simp [hv, this]
          · simp [hv, cget]
        · have hab : a ≠ b := fun e => hb e.symm
          by_cases hv : v = d a
          · simp [hv, cget, hb, hab]
          · simp [hv, cget, hb, hab]
      · simp only [if_neg hak, cget]
        by_cases hkb : k = b
        · subst hkb
          have : ¬ k = a := fun e => hak e.symm
          simp [this]
        · simp only [if_neg hkb]
          exact ih h3

/-- What leaves the written bytes and the keys keeps the form. -/
theorem wf_keep {s t : State} (h : Memory.wf s = true) (a : t.mem.hbm = s.mem.hbm) (b : t.mem.plot = s.mem.plot)
    (c : t.mem.key = s.mem.key) : Memory.wf t = true := by
  have d : hbmDefault t = hbmDefault s := by funext x; simp [hbmDefault, c]
  simpa [Memory.wf, a, b, d] using h
theorem foldl_wf {α : Type} (f : State → α → State) (h : ∀ s x, Memory.wf s = true → Memory.wf (f s x) = true) :
    ∀ (l : List α) (s : State), Memory.wf s = true → Memory.wf (l.foldl f s) = true
  | [], _, k => k
  | x :: l, s, k => foldl_wf f h l (f s x) (h s x k)

/-- A sector or a line written to HBM3E, or to a Plot, keeps both memories' form. -/
theorem putSector_wf {s : State} (pa : Nat) (b : Bytes) (p : Bool) (h : Memory.wf s = true) : Memory.wf (putSector s pa b p) = true := by
  have d : hbmDefault (putSector s pa b p) = hbmDefault s := by funext x; rfl
  simp only [Memory.wf, Bool.and_eq_true, d] at h ⊢
  exact ⟨cputs_wf pa b h.1, h.2⟩
theorem putHbm_wf {s : State} (line : Nat) (v : LV) (h : Memory.wf s = true) : Memory.wf (putHbm s line v) = true :=
  putSector_wf _ _ _ (putSector_wf _ _ _ h)
theorem putPlot_wf {s : State} (line : Nat) (v : LV) (h : Memory.wf s = true) : Memory.wf (putPlot s line v) = true := by
  simp only [Memory.wf, Bool.and_eq_true] at h ⊢
  exact ⟨h.1, cputs_wf _ _ h.2⟩
theorem putLine_wf {s : State} (line : Nat) (v : LV) (h : Memory.wf s = true) : Memory.wf (putLine s line v) = true := by
  unfold putLine
  split
  · exact putPlot_wf line v h
  · split
    · exact h
    · exact putHbm_wf line v h
theorem dropLine_wf {s : State} (line : Nat) (h : Memory.wf s = true) : Memory.wf (dropLine s line) = true := h
theorem parityMark_wf {s : State} (line bad kind idx : Nat) (h : Memory.wf s = true) : Memory.wf (parityMark s line bad kind idx) = true := by
  unfold parityMark; dsimp only
  (repeat' split) <;> first
    | exact h
    | exact wf_keep h (by simp [dropLine]) (by simp [dropLine]) (by simp [dropLine])
theorem meetUpset_wf {s : State} (line whole kind idx : Nat) (h : Memory.wf s = true) : Memory.wf (meetUpset s line whole kind idx) = true := by
  unfold meetUpset; dsimp only
  (repeat' split) <;> first | exact h | exact parityMark_wf _ _ _ _ h
theorem dropRow_wf {s : State} (slice row : Nat) (h : Memory.wf s = true) : Memory.wf (dropRow s slice row) = true := by
  unfold dropRow; dsimp only
  refine wf_keep (foldl_wf _ (fun s c k => dropLine_wf _ ?_) _ _ h) rfl rfl rfl
  split
  · exact putHbm_wf _ _ (meetUpset_wf _ _ _ _ k)
  · exact meetUpset_wf _ _ _ _ k
theorem rowError_wf {s : State} (slice row line : Nat) (h : Memory.wf s = true) : Memory.wf (rowError s slice row line) = true := by
  unfold rowError; dsimp only
  split
  · exact h
  · split
    · exact wf_keep h (by simp) (by simp) (by simp)
    · exact dropRow_wf _ _ (wf_keep h (by simp) (by simp) (by simp))
/-- Meeting the upset bytes of a line keeps the form. -/
theorem parity_wf {s : State} (line whole kind idx : Nat) (h : Memory.wf s = true) : Memory.wf (parity s line whole kind idx) = true := by
  unfold parity; dsimp only
  split
  · exact h
  · split
    · exact meetUpset_wf _ _ _ _ h
    · exact rowError_wf _ _ _ (meetUpset_wf _ _ _ _ h)
theorem writeBack_wf {s : State} (line : Nat) (h : Memory.wf s = true) : Memory.wf (writeBack s line) = true := by
  unfold writeBack; dsimp only
  split
  · split
    · split
      · exact wf_keep (putHbm_wf line _ (parity_wf _ _ _ _ h)) rfl rfl rfl
      · exact parity_wf _ _ _ _ h
    · exact h
  · exact h
theorem touch_wf {s : State} (line : Nat) (h : Memory.wf s = true) : Memory.wf (touch s line) = true := by
  unfold touch
  split
  · exact h
  · dsimp only
    split <;> exact h
theorem install_wf {s : State} (line : Nat) (v : LV) (ref : Bool) (h : Memory.wf s = true) :
    Memory.wf (install s line v ref) = true := by
  unfold install
  dsimp only
  split
  · exact h
  · have k : ∀ x : Option CLine, Memory.wf (match x with
        | some c => dropLine (writeBack s c.line) c.line
        | none => s) = true := by
      intro x
      cases x with
      | none => exact h
      | some c => exact writeBack_wf c.line h
    split
    · exact touch_wf line (wf_keep (k _) rfl rfl rfl)
    · exact wf_keep (k _) rfl rfl rfl
/-- A fresh key makes a Tent's written bytes unlisted and leaves the other Tents' as they are. -/
theorem rekeyTent_wf {s : State} (t : Nat) (k : Nat × Nat) (h : Memory.wf s = true) : Memory.wf (rekeyTent s t k) = true := by
  simp only [Memory.wf, Bool.and_eq_true] at h ⊢
  refine ⟨?_, h.2⟩
  show cellsWf (hbmDefault (rekeyTent s t k)) (cdrop s.mem.hbm (fun a => a / 0x2400000000 == t)) = true
  refine cellsWf_congr (cdrop_wf _ h.1) ?_
  intro c hc
  have hne : c.1 / 0x2400000000 ≠ t := by
    have := (List.mem_filter.1 hc).2
    simpa using this
  simp only [hbmDefault, rekeyTent, tupd]
  rw [tget_tset_ne _ _ _ (fun e => hne e.symm)]

theorem rekeyTents_wf {s : State} (ts : List Nat) (h : Memory.wf s = true) : Memory.wf (rekeyTents s ts) = true :=
  foldl_wf _ (fun _ t k => rekeyTent_wf t _ k) ts _ (wf_keep h rfl rfl rfl)
theorem clearTent_wf {s : State} (t : Nat) (h : Memory.wf s = true) : Memory.wf (clearTent s t) = true := by
  have d : hbmDefault (clearTent s t) = hbmDefault s := by funext x; rfl
  simp only [Memory.wf, Bool.and_eq_true, d] at h ⊢
  exact ⟨h.1, cdrop_wf (fun a => plotTent a == t) h.2⟩

theorem reset_wf : Memory.wf State.reset = true := rfl

end Sys2Proof.Laws
end

