-- ==== Sys2Proof/Laws/State.lean ====
section
/-! SUPPORT. What each named update of the state leaves: one lemma for each field, true by unfolding. -/
namespace Sys2Proof.Laws
open Sys2Proof.Machine

@[simp] theorem setCore_pending (s : State) (i : Nat) (c : Core) : (setCore s i c).pending = s.pending := rfl
@[simp] theorem setCore_tick (s : State) (i : Nat) (c : Core) : (setCore s i c).tick = s.tick := rfl
@[simp] theorem setCore_free (s : State) (i : Nat) (c : Core) : (setCore s i c).free = s.free := rfl
@[simp] theorem setCore_dev (s : State) (i : Nat) (c : Core) : (setCore s i c).dev = s.dev := rfl
@[simp] theorem setCore_boot (s : State) (i : Nat) (c : Core) : (setCore s i c).boot = s.boot := rfl
@[simp] theorem setCore_trust (s : State) (i : Nat) (c : Core) : (setCore s i c).trust = s.trust := rfl
@[simp] theorem setCore_regs (s : State) (i : Nat) (c : Core) : (setCore s i c).regs = s.regs := rfl
@[simp] theorem setCore_link (s : State) (i : Nat) (c : Core) : (setCore s i c).link = s.link := rfl
@[simp] theorem setCore_pwr (s : State) (i : Nat) (c : Core) : (setCore s i c).pwr = s.pwr := rfl
@[simp] theorem setCore_thm (s : State) (i : Nat) (c : Core) : (setCore s i c).thm = s.thm := rfl
@[simp] theorem setCore_evt (s : State) (i : Nat) (c : Core) : (setCore s i c).evt = s.evt := rfl
@[simp] theorem setCore_mgt (s : State) (i : Nat) (c : Core) : (setCore s i c).mgt = s.mgt := rfl
@[simp] theorem setCore_gly (s : State) (i : Nat) (c : Core) : (setCore s i c).gly = s.gly := rfl
@[simp] theorem setCore_span (s : State) (i : Nat) (c : Core) : (setCore s i c).span = s.span := rfl
@[simp] theorem setCore_rng (s : State) (i : Nat) (c : Core) : (setCore s i c).rng = s.rng := rfl
@[simp] theorem setCore_mem (s : State) (i : Nat) (c : Core) : (setCore s i c).mem = s.mem := rfl
@[simp] theorem setCore_hbm (s : State) (i : Nat) (c : Core) : (setCore s i c).hbm = s.hbm := rfl
@[simp] theorem setCore_fab (s : State) (i : Nat) (c : Core) : (setCore s i c).fab = s.fab := rfl
@[simp] theorem setCore_dbg (s : State) (i : Nat) (c : Core) : (setCore s i c).dbg = s.dbg := rfl
@[simp] theorem setCore_down (s : State) (i : Nat) (c : Core) : (setCore s i c).down = s.down := rfl
@[simp] theorem setCore_krn_bundles (s : State) (i : Nat) (c : Core) : (setCore s i c).krn.bundles = s.krn.bundles := rfl
@[simp] theorem setCore_krn_nextHandle (s : State) (i : Nat) (c : Core) : (setCore s i c).krn.nextHandle = s.krn.nextHandle := rfl
@[simp] theorem setCore_krn_launches (s : State) (i : Nat) (c : Core) : (setCore s i c).krn.launches = s.krn.launches := rfl
@[simp] theorem setCore_krn_combq (s : State) (i : Nat) (c : Core) : (setCore s i c).krn.combq = s.krn.combq := rfl
@[simp] theorem setCore_krn_combPtr (s : State) (i : Nat) (c : Core) : (setCore s i c).krn.combPtr = s.krn.combPtr := rfl
@[simp] theorem setCore_krn_policy (s : State) (i : Nat) (c : Core) : (setCore s i c).krn.policy = s.krn.policy := rfl
@[simp] theorem setCore_krn_gseq (s : State) (i : Nat) (c : Core) : (setCore s i c).krn.gseq = s.krn.gseq := rfl
@[simp] theorem setCore_krn_order (s : State) (i : Nat) (c : Core) : (setCore s i c).krn.order = s.krn.order := rfl

@[simp] theorem setGrp_pending (s : State) (i k : Nat) (g : Grp) : (setGrp s i k g).pending = s.pending := rfl
@[simp] theorem setGrp_tick (s : State) (i k : Nat) (g : Grp) : (setGrp s i k g).tick = s.tick := rfl
@[simp] theorem setGrp_free (s : State) (i k : Nat) (g : Grp) : (setGrp s i k g).free = s.free := rfl
@[simp] theorem setGrp_dev (s : State) (i k : Nat) (g : Grp) : (setGrp s i k g).dev = s.dev := rfl
@[simp] theorem setGrp_boot (s : State) (i k : Nat) (g : Grp) : (setGrp s i k g).boot = s.boot := rfl
@[simp] theorem setGrp_trust (s : State) (i k : Nat) (g : Grp) : (setGrp s i k g).trust = s.trust := rfl
@[simp] theorem setGrp_regs (s : State) (i k : Nat) (g : Grp) : (setGrp s i k g).regs = s.regs := rfl
@[simp] theorem setGrp_link (s : State) (i k : Nat) (g : Grp) : (setGrp s i k g).link = s.link := rfl
@[simp] theorem setGrp_pwr (s : State) (i k : Nat) (g : Grp) : (setGrp s i k g).pwr = s.pwr := rfl
@[simp] theorem setGrp_thm (s : State) (i k : Nat) (g : Grp) : (setGrp s i k g).thm = s.thm := rfl
@[simp] theorem setGrp_evt (s : State) (i k : Nat) (g : Grp) : (setGrp s i k g).evt = s.evt := rfl
@[simp] theorem setGrp_mgt (s : State) (i k : Nat) (g : Grp) : (setGrp s i k g).mgt = s.mgt := rfl
@[simp] theorem setGrp_gly (s : State) (i k : Nat) (g : Grp) : (setGrp s i k g).gly = s.gly := rfl
@[simp] theorem setGrp_span (s : State) (i k : Nat) (g : Grp) : (setGrp s i k g).span = s.span := rfl
@[simp] theorem setGrp_rng (s : State) (i k : Nat) (g : Grp) : (setGrp s i k g).rng = s.rng := rfl
@[simp] theorem setGrp_mem (s : State) (i k : Nat) (g : Grp) : (setGrp s i k g).mem = s.mem := rfl
@[simp] theorem setGrp_hbm (s : State) (i k : Nat) (g : Grp) : (setGrp s i k g).hbm = s.hbm := rfl
@[simp] theorem setGrp_fab (s : State) (i k : Nat) (g : Grp) : (setGrp s i k g).fab = s.fab := rfl
@[simp] theorem setGrp_dbg (s : State) (i k : Nat) (g : Grp) : (setGrp s i k g).dbg = s.dbg := rfl
@[simp] theorem setGrp_down (s : State) (i k : Nat) (g : Grp) : (setGrp s i k g).down = s.down := rfl
@[simp] theorem setGrp_krn_bundles (s : State) (i k : Nat) (g : Grp) : (setGrp s i k g).krn.bundles = s.krn.bundles := rfl
@[simp] theorem setGrp_krn_nextHandle (s : State) (i k : Nat) (g : Grp) : (setGrp s i k g).krn.nextHandle = s.krn.nextHandle := rfl
@[simp] theorem setGrp_krn_launches (s : State) (i k : Nat) (g : Grp) : (setGrp s i k g).krn.launches = s.krn.launches := rfl
@[simp] theorem setGrp_krn_combq (s : State) (i k : Nat) (g : Grp) : (setGrp s i k g).krn.combq = s.krn.combq := rfl
@[simp] theorem setGrp_krn_combPtr (s : State) (i k : Nat) (g : Grp) : (setGrp s i k g).krn.combPtr = s.krn.combPtr := rfl
@[simp] theorem setGrp_krn_policy (s : State) (i k : Nat) (g : Grp) : (setGrp s i k g).krn.policy = s.krn.policy := rfl
@[simp] theorem setGrp_krn_gseq (s : State) (i k : Nat) (g : Grp) : (setGrp s i k g).krn.gseq = s.krn.gseq := rfl
@[simp] theorem setGrp_krn_order (s : State) (i k : Nat) (g : Grp) : (setGrp s i k g).krn.order = s.krn.order := rfl

@[simp] theorem updLaunch_pending (s : State) (i : Nat) (f : Launch → Launch) : (updLaunch s i f).pending = s.pending := rfl
@[simp] theorem updLaunch_tick (s : State) (i : Nat) (f : Launch → Launch) : (updLaunch s i f).tick = s.tick := rfl
@[simp] theorem updLaunch_free (s : State) (i : Nat) (f : Launch → Launch) : (updLaunch s i f).free = s.free := rfl
@[simp] theorem updLaunch_dev (s : State) (i : Nat) (f : Launch → Launch) : (updLaunch s i f).dev = s.dev := rfl
@[simp] theorem updLaunch_boot (s : State) (i : Nat) (f : Launch → Launch) : (updLaunch s i f).boot = s.boot := rfl
@[simp] theorem updLaunch_trust (s : State) (i : Nat) (f : Launch → Launch) : (updLaunch s i f).trust = s.trust := rfl
@[simp] theorem updLaunch_regs (s : State) (i : Nat) (f : Launch → Launch) : (updLaunch s i f).regs = s.regs := rfl
@[simp] theorem updLaunch_link (s : State) (i : Nat) (f : Launch → Launch) : (updLaunch s i f).link = s.link := rfl
@[simp] theorem updLaunch_pwr (s : State) (i : Nat) (f : Launch → Launch) : (updLaunch s i f).pwr = s.pwr := rfl
@[simp] theorem updLaunch_thm (s : State) (i : Nat) (f : Launch → Launch) : (updLaunch s i f).thm = s.thm := rfl
@[simp] theorem updLaunch_evt (s : State) (i : Nat) (f : Launch → Launch) : (updLaunch s i f).evt = s.evt := rfl
@[simp] theorem updLaunch_mgt (s : State) (i : Nat) (f : Launch → Launch) : (updLaunch s i f).mgt = s.mgt := rfl
@[simp] theorem updLaunch_gly (s : State) (i : Nat) (f : Launch → Launch) : (updLaunch s i f).gly = s.gly := rfl
@[simp] theorem updLaunch_span (s : State) (i : Nat) (f : Launch → Launch) : (updLaunch s i f).span = s.span := rfl
@[simp] theorem updLaunch_rng (s : State) (i : Nat) (f : Launch → Launch) : (updLaunch s i f).rng = s.rng := rfl
@[simp] theorem updLaunch_mem (s : State) (i : Nat) (f : Launch → Launch) : (updLaunch s i f).mem = s.mem := rfl
@[simp] theorem updLaunch_hbm (s : State) (i : Nat) (f : Launch → Launch) : (updLaunch s i f).hbm = s.hbm := rfl
@[simp] theorem updLaunch_fab (s : State) (i : Nat) (f : Launch → Launch) : (updLaunch s i f).fab = s.fab := rfl
@[simp] theorem updLaunch_dbg (s : State) (i : Nat) (f : Launch → Launch) : (updLaunch s i f).dbg = s.dbg := rfl
@[simp] theorem updLaunch_down (s : State) (i : Nat) (f : Launch → Launch) : (updLaunch s i f).down = s.down := rfl
@[simp] theorem updLaunch_krn_bundles (s : State) (i : Nat) (f : Launch → Launch) : (updLaunch s i f).krn.bundles = s.krn.bundles := rfl
@[simp] theorem updLaunch_krn_nextHandle (s : State) (i : Nat) (f : Launch → Launch) : (updLaunch s i f).krn.nextHandle = s.krn.nextHandle := rfl
@[simp] theorem updLaunch_krn_cores (s : State) (i : Nat) (f : Launch → Launch) : (updLaunch s i f).krn.cores = s.krn.cores := rfl
@[simp] theorem updLaunch_krn_combq (s : State) (i : Nat) (f : Launch → Launch) : (updLaunch s i f).krn.combq = s.krn.combq := rfl
@[simp] theorem updLaunch_krn_combPtr (s : State) (i : Nat) (f : Launch → Launch) : (updLaunch s i f).krn.combPtr = s.krn.combPtr := rfl
@[simp] theorem updLaunch_krn_policy (s : State) (i : Nat) (f : Launch → Launch) : (updLaunch s i f).krn.policy = s.krn.policy := rfl
@[simp] theorem updLaunch_krn_gseq (s : State) (i : Nat) (f : Launch → Launch) : (updLaunch s i f).krn.gseq = s.krn.gseq := rfl
@[simp] theorem updLaunch_krn_order (s : State) (i : Nat) (f : Launch → Launch) : (updLaunch s i f).krn.order = s.krn.order := rfl

@[simp] theorem setRing_pending (s : State) (r : Nat) (g : Ring) : (setRing s r g).pending = s.pending := rfl
@[simp] theorem setRing_tick (s : State) (r : Nat) (g : Ring) : (setRing s r g).tick = s.tick := rfl
@[simp] theorem setRing_free (s : State) (r : Nat) (g : Ring) : (setRing s r g).free = s.free := rfl
@[simp] theorem setRing_dev (s : State) (r : Nat) (g : Ring) : (setRing s r g).dev = s.dev := rfl
@[simp] theorem setRing_boot (s : State) (r : Nat) (g : Ring) : (setRing s r g).boot = s.boot := rfl
@[simp] theorem setRing_trust (s : State) (r : Nat) (g : Ring) : (setRing s r g).trust = s.trust := rfl
@[simp] theorem setRing_regs (s : State) (r : Nat) (g : Ring) : (setRing s r g).regs = s.regs := rfl
@[simp] theorem setRing_link (s : State) (r : Nat) (g : Ring) : (setRing s r g).link = s.link := rfl
@[simp] theorem setRing_pwr (s : State) (r : Nat) (g : Ring) : (setRing s r g).pwr = s.pwr := rfl
@[simp] theorem setRing_thm (s : State) (r : Nat) (g : Ring) : (setRing s r g).thm = s.thm := rfl
@[simp] theorem setRing_evt (s : State) (r : Nat) (g : Ring) : (setRing s r g).evt = s.evt := rfl
@[simp] theorem setRing_mgt (s : State) (r : Nat) (g : Ring) : (setRing s r g).mgt = s.mgt := rfl
@[simp] theorem setRing_gly (s : State) (r : Nat) (g : Ring) : (setRing s r g).gly = s.gly := rfl
@[simp] theorem setRing_span (s : State) (r : Nat) (g : Ring) : (setRing s r g).span = s.span := rfl
@[simp] theorem setRing_krn (s : State) (r : Nat) (g : Ring) : (setRing s r g).krn = s.krn := rfl
@[simp] theorem setRing_mem (s : State) (r : Nat) (g : Ring) : (setRing s r g).mem = s.mem := rfl
@[simp] theorem setRing_hbm (s : State) (r : Nat) (g : Ring) : (setRing s r g).hbm = s.hbm := rfl
@[simp] theorem setRing_fab (s : State) (r : Nat) (g : Ring) : (setRing s r g).fab = s.fab := rfl
@[simp] theorem setRing_dbg (s : State) (r : Nat) (g : Ring) : (setRing s r g).dbg = s.dbg := rfl
@[simp] theorem setRing_down (s : State) (r : Nat) (g : Ring) : (setRing s r g).down = s.down := rfl
@[simp] theorem setRing_rng_ops (s : State) (r : Nat) (g : Ring) : (setRing s r g).rng.ops = s.rng.ops := rfl
@[simp] theorem setRing_rng_nextOp (s : State) (r : Nat) (g : Ring) : (setRing s r g).rng.nextOp = s.rng.nextOp := rfl
@[simp] theorem setRing_rng_ptr (s : State) (r : Nat) (g : Ring) : (setRing s r g).rng.ptr = s.rng.ptr := rfl

@[simp] theorem updOp_pending (s : State) (i : Nat) (f : Op → Op) : (updOp s i f).pending = s.pending := rfl
@[simp] theorem updOp_tick (s : State) (i : Nat) (f : Op → Op) : (updOp s i f).tick = s.tick := rfl
@[simp] theorem updOp_free (s : State) (i : Nat) (f : Op → Op) : (updOp s i f).free = s.free := rfl
@[simp] theorem updOp_dev (s : State) (i : Nat) (f : Op → Op) : (updOp s i f).dev = s.dev := rfl
@[simp] theorem updOp_boot (s : State) (i : Nat) (f : Op → Op) : (updOp s i f).boot = s.boot := rfl
@[simp] theorem updOp_trust (s : State) (i : Nat) (f : Op → Op) : (updOp s i f).trust = s.trust := rfl
@[simp] theorem updOp_regs (s : State) (i : Nat) (f : Op → Op) : (updOp s i f).regs = s.regs := rfl
@[simp] theorem updOp_link (s : State) (i : Nat) (f : Op → Op) : (updOp s i f).link = s.link := rfl
@[simp] theorem updOp_pwr (s : State) (i : Nat) (f : Op → Op) : (updOp s i f).pwr = s.pwr := rfl
@[simp] theorem updOp_thm (s : State) (i : Nat) (f : Op → Op) : (updOp s i f).thm = s.thm := rfl
@[simp] theorem updOp_evt (s : State) (i : Nat) (f : Op → Op) : (updOp s i f).evt = s.evt := rfl
@[simp] theorem updOp_mgt (s : State) (i : Nat) (f : Op → Op) : (updOp s i f).mgt = s.mgt := rfl
@[simp] theorem updOp_gly (s : State) (i : Nat) (f : Op → Op) : (updOp s i f).gly = s.gly := rfl
@[simp] theorem updOp_span (s : State) (i : Nat) (f : Op → Op) : (updOp s i f).span = s.span := rfl
@[simp] theorem updOp_krn (s : State) (i : Nat) (f : Op → Op) : (updOp s i f).krn = s.krn := rfl
@[simp] theorem updOp_mem (s : State) (i : Nat) (f : Op → Op) : (updOp s i f).mem = s.mem := rfl
@[simp] theorem updOp_hbm (s : State) (i : Nat) (f : Op → Op) : (updOp s i f).hbm = s.hbm := rfl
@[simp] theorem updOp_fab (s : State) (i : Nat) (f : Op → Op) : (updOp s i f).fab = s.fab := rfl
@[simp] theorem updOp_dbg (s : State) (i : Nat) (f : Op → Op) : (updOp s i f).dbg = s.dbg := rfl
@[simp] theorem updOp_down (s : State) (i : Nat) (f : Op → Op) : (updOp s i f).down = s.down := rfl
@[simp] theorem updOp_rng_ring (s : State) (i : Nat) (f : Op → Op) : (updOp s i f).rng.ring = s.rng.ring := rfl
@[simp] theorem updOp_rng_nextOp (s : State) (i : Nat) (f : Op → Op) : (updOp s i f).rng.nextOp = s.rng.nextOp := rfl
@[simp] theorem updOp_rng_ptr (s : State) (i : Nat) (f : Op → Op) : (updOp s i f).rng.ptr = s.rng.ptr := rfl

@[simp] theorem dropOp_pending (s : State) (i : Nat) : (dropOp s i).pending = s.pending := rfl
@[simp] theorem dropOp_tick (s : State) (i : Nat) : (dropOp s i).tick = s.tick := rfl
@[simp] theorem dropOp_free (s : State) (i : Nat) : (dropOp s i).free = s.free := rfl
@[simp] theorem dropOp_dev (s : State) (i : Nat) : (dropOp s i).dev = s.dev := rfl
@[simp] theorem dropOp_boot (s : State) (i : Nat) : (dropOp s i).boot = s.boot := rfl
@[simp] theorem dropOp_trust (s : State) (i : Nat) : (dropOp s i).trust = s.trust := rfl
@[simp] theorem dropOp_regs (s : State) (i : Nat) : (dropOp s i).regs = s.regs := rfl
@[simp] theorem dropOp_link (s : State) (i : Nat) : (dropOp s i).link = s.link := rfl
@[simp] theorem dropOp_pwr (s : State) (i : Nat) : (dropOp s i).pwr = s.pwr := rfl
@[simp] theorem dropOp_thm (s : State) (i : Nat) : (dropOp s i).thm = s.thm := rfl
@[simp] theorem dropOp_evt (s : State) (i : Nat) : (dropOp s i).evt = s.evt := rfl
@[simp] theorem dropOp_mgt (s : State) (i : Nat) : (dropOp s i).mgt = s.mgt := rfl
@[simp] theorem dropOp_gly (s : State) (i : Nat) : (dropOp s i).gly = s.gly := rfl
@[simp] theorem dropOp_span (s : State) (i : Nat) : (dropOp s i).span = s.span := rfl
@[simp] theorem dropOp_krn (s : State) (i : Nat) : (dropOp s i).krn = s.krn := rfl
@[simp] theorem dropOp_mem (s : State) (i : Nat) : (dropOp s i).mem = s.mem := rfl
@[simp] theorem dropOp_hbm (s : State) (i : Nat) : (dropOp s i).hbm = s.hbm := rfl
@[simp] theorem dropOp_fab (s : State) (i : Nat) : (dropOp s i).fab = s.fab := rfl
@[simp] theorem dropOp_dbg (s : State) (i : Nat) : (dropOp s i).dbg = s.dbg := rfl
@[simp] theorem dropOp_down (s : State) (i : Nat) : (dropOp s i).down = s.down := rfl
@[simp] theorem dropOp_rng_ring (s : State) (i : Nat) : (dropOp s i).rng.ring = s.rng.ring := rfl
@[simp] theorem dropOp_rng_nextOp (s : State) (i : Nat) : (dropOp s i).rng.nextOp = s.rng.nextOp := rfl
@[simp] theorem dropOp_rng_ptr (s : State) (i : Nat) : (dropOp s i).rng.ptr = s.rng.ptr := rfl

@[simp] theorem setPort_pending (s : State) (n : Nat) (p : Port) : (setPort s n p).pending = s.pending := rfl
@[simp] theorem setPort_tick (s : State) (n : Nat) (p : Port) : (setPort s n p).tick = s.tick := rfl
@[simp] theorem setPort_free (s : State) (n : Nat) (p : Port) : (setPort s n p).free = s.free := rfl
@[simp] theorem setPort_dev (s : State) (n : Nat) (p : Port) : (setPort s n p).dev = s.dev := rfl
@[simp] theorem setPort_boot (s : State) (n : Nat) (p : Port) : (setPort s n p).boot = s.boot := rfl
@[simp] theorem setPort_trust (s : State) (n : Nat) (p : Port) : (setPort s n p).trust = s.trust := rfl
@[simp] theorem setPort_regs (s : State) (n : Nat) (p : Port) : (setPort s n p).regs = s.regs := rfl
@[simp] theorem setPort_link (s : State) (n : Nat) (p : Port) : (setPort s n p).link = s.link := rfl
@[simp] theorem setPort_pwr (s : State) (n : Nat) (p : Port) : (setPort s n p).pwr = s.pwr := rfl
@[simp] theorem setPort_thm (s : State) (n : Nat) (p : Port) : (setPort s n p).thm = s.thm := rfl
@[simp] theorem setPort_evt (s : State) (n : Nat) (p : Port) : (setPort s n p).evt = s.evt := rfl
@[simp] theorem setPort_mgt (s : State) (n : Nat) (p : Port) : (setPort s n p).mgt = s.mgt := rfl
@[simp] theorem setPort_gly (s : State) (n : Nat) (p : Port) : (setPort s n p).gly = s.gly := rfl
@[simp] theorem setPort_rng (s : State) (n : Nat) (p : Port) : (setPort s n p).rng = s.rng := rfl
@[simp] theorem setPort_krn (s : State) (n : Nat) (p : Port) : (setPort s n p).krn = s.krn := rfl
@[simp] theorem setPort_mem (s : State) (n : Nat) (p : Port) : (setPort s n p).mem = s.mem := rfl
@[simp] theorem setPort_hbm (s : State) (n : Nat) (p : Port) : (setPort s n p).hbm = s.hbm := rfl
@[simp] theorem setPort_fab (s : State) (n : Nat) (p : Port) : (setPort s n p).fab = s.fab := rfl
@[simp] theorem setPort_dbg (s : State) (n : Nat) (p : Port) : (setPort s n p).dbg = s.dbg := rfl
@[simp] theorem setPort_down (s : State) (n : Nat) (p : Port) : (setPort s n p).down = s.down := rfl
@[simp] theorem setPort_span_ops (s : State) (n : Nat) (p : Port) : (setPort s n p).span.ops = s.span.ops := rfl
@[simp] theorem setPort_span_held (s : State) (n : Nat) (p : Port) : (setPort s n p).span.held = s.span.held := rfl
@[simp] theorem setPort_span_reqs (s : State) (n : Nat) (p : Port) : (setPort s n p).span.reqs = s.span.reqs := rfl
@[simp] theorem setPort_span_out (s : State) (n : Nat) (p : Port) : (setPort s n p).span.out = s.span.out := rfl
@[simp] theorem setPort_span_wire (s : State) (n : Nat) (p : Port) : (setPort s n p).span.wire = s.span.wire := rfl
@[simp] theorem setPort_span_wait (s : State) (n : Nat) (p : Port) : (setPort s n p).span.wait = s.span.wait := rfl

@[simp] theorem updSp_pending (s : State) (i : Nat) (f : SpanOp → SpanOp) : (updSp s i f).pending = s.pending := rfl
@[simp] theorem updSp_tick (s : State) (i : Nat) (f : SpanOp → SpanOp) : (updSp s i f).tick = s.tick := rfl
@[simp] theorem updSp_free (s : State) (i : Nat) (f : SpanOp → SpanOp) : (updSp s i f).free = s.free := rfl
@[simp] theorem updSp_dev (s : State) (i : Nat) (f : SpanOp → SpanOp) : (updSp s i f).dev = s.dev := rfl
@[simp] theorem updSp_boot (s : State) (i : Nat) (f : SpanOp → SpanOp) : (updSp s i f).boot = s.boot := rfl
@[simp] theorem updSp_trust (s : State) (i : Nat) (f : SpanOp → SpanOp) : (updSp s i f).trust = s.trust := rfl
@[simp] theorem updSp_regs (s : State) (i : Nat) (f : SpanOp → SpanOp) : (updSp s i f).regs = s.regs := rfl
@[simp] theorem updSp_link (s : State) (i : Nat) (f : SpanOp → SpanOp) : (updSp s i f).link = s.link := rfl
@[simp] theorem updSp_pwr (s : State) (i : Nat) (f : SpanOp → SpanOp) : (updSp s i f).pwr = s.pwr := rfl
@[simp] theorem updSp_thm (s : State) (i : Nat) (f : SpanOp → SpanOp) : (updSp s i f).thm = s.thm := rfl
@[simp] theorem updSp_evt (s : State) (i : Nat) (f : SpanOp → SpanOp) : (updSp s i f).evt = s.evt := rfl
@[simp] theorem updSp_mgt (s : State) (i : Nat) (f : SpanOp → SpanOp) : (updSp s i f).mgt = s.mgt := rfl
@[simp] theorem updSp_gly (s : State) (i : Nat) (f : SpanOp → SpanOp) : (updSp s i f).gly = s.gly := rfl
@[simp] theorem updSp_rng (s : State) (i : Nat) (f : SpanOp → SpanOp) : (updSp s i f).rng = s.rng := rfl
@[simp] theorem updSp_krn (s : State) (i : Nat) (f : SpanOp → SpanOp) : (updSp s i f).krn = s.krn := rfl
@[simp] theorem updSp_mem (s : State) (i : Nat) (f : SpanOp → SpanOp) : (updSp s i f).mem = s.mem := rfl
@[simp] theorem updSp_hbm (s : State) (i : Nat) (f : SpanOp → SpanOp) : (updSp s i f).hbm = s.hbm := rfl
@[simp] theorem updSp_fab (s : State) (i : Nat) (f : SpanOp → SpanOp) : (updSp s i f).fab = s.fab := rfl
@[simp] theorem updSp_dbg (s : State) (i : Nat) (f : SpanOp → SpanOp) : (updSp s i f).dbg = s.dbg := rfl
@[simp] theorem updSp_down (s : State) (i : Nat) (f : SpanOp → SpanOp) : (updSp s i f).down = s.down := rfl
@[simp] theorem updSp_span_ports (s : State) (i : Nat) (f : SpanOp → SpanOp) : (updSp s i f).span.ports = s.span.ports := rfl
@[simp] theorem updSp_span_held (s : State) (i : Nat) (f : SpanOp → SpanOp) : (updSp s i f).span.held = s.span.held := rfl
@[simp] theorem updSp_span_reqs (s : State) (i : Nat) (f : SpanOp → SpanOp) : (updSp s i f).span.reqs = s.span.reqs := rfl
@[simp] theorem updSp_span_out (s : State) (i : Nat) (f : SpanOp → SpanOp) : (updSp s i f).span.out = s.span.out := rfl
@[simp] theorem updSp_span_wire (s : State) (i : Nat) (f : SpanOp → SpanOp) : (updSp s i f).span.wire = s.span.wire := rfl
@[simp] theorem updSp_span_wait (s : State) (i : Nat) (f : SpanOp → SpanOp) : (updSp s i f).span.wait = s.span.wait := rfl

@[simp] theorem setEvRing_pending (s : State) (n : Nat) (r : EvRing) : (setEvRing s n r).pending = s.pending := rfl
@[simp] theorem setEvRing_tick (s : State) (n : Nat) (r : EvRing) : (setEvRing s n r).tick = s.tick := rfl
@[simp] theorem setEvRing_free (s : State) (n : Nat) (r : EvRing) : (setEvRing s n r).free = s.free := rfl
@[simp] theorem setEvRing_dev (s : State) (n : Nat) (r : EvRing) : (setEvRing s n r).dev = s.dev := rfl
@[simp] theorem setEvRing_boot (s : State) (n : Nat) (r : EvRing) : (setEvRing s n r).boot = s.boot := rfl
@[simp] theorem setEvRing_trust (s : State) (n : Nat) (r : EvRing) : (setEvRing s n r).trust = s.trust := rfl
@[simp] theorem setEvRing_regs (s : State) (n : Nat) (r : EvRing) : (setEvRing s n r).regs = s.regs := rfl
@[simp] theorem setEvRing_link (s : State) (n : Nat) (r : EvRing) : (setEvRing s n r).link = s.link := rfl
@[simp] theorem setEvRing_pwr (s : State) (n : Nat) (r : EvRing) : (setEvRing s n r).pwr = s.pwr := rfl
@[simp] theorem setEvRing_thm (s : State) (n : Nat) (r : EvRing) : (setEvRing s n r).thm = s.thm := rfl
@[simp] theorem setEvRing_mgt (s : State) (n : Nat) (r : EvRing) : (setEvRing s n r).mgt = s.mgt := rfl
@[simp] theorem setEvRing_gly (s : State) (n : Nat) (r : EvRing) : (setEvRing s n r).gly = s.gly := rfl
@[simp] theorem setEvRing_span (s : State) (n : Nat) (r : EvRing) : (setEvRing s n r).span = s.span := rfl
@[simp] theorem setEvRing_rng (s : State) (n : Nat) (r : EvRing) : (setEvRing s n r).rng = s.rng := rfl
@[simp] theorem setEvRing_krn (s : State) (n : Nat) (r : EvRing) : (setEvRing s n r).krn = s.krn := rfl
@[simp] theorem setEvRing_mem (s : State) (n : Nat) (r : EvRing) : (setEvRing s n r).mem = s.mem := rfl
@[simp] theorem setEvRing_hbm (s : State) (n : Nat) (r : EvRing) : (setEvRing s n r).hbm = s.hbm := rfl
@[simp] theorem setEvRing_fab (s : State) (n : Nat) (r : EvRing) : (setEvRing s n r).fab = s.fab := rfl
@[simp] theorem setEvRing_dbg (s : State) (n : Nat) (r : EvRing) : (setEvRing s n r).dbg = s.dbg := rfl
@[simp] theorem setEvRing_down (s : State) (n : Nat) (r : EvRing) : (setEvRing s n r).down = s.down := rfl
@[simp] theorem setEvRing_evt_q (s : State) (n : Nat) (r : EvRing) : (setEvRing s n r).evt.q = s.evt.q := rfl
@[simp] theorem setEvRing_evt_cnt (s : State) (n : Nat) (r : EvRing) : (setEvRing s n r).evt.cnt = s.evt.cnt := rfl
@[simp] theorem setEvRing_evt_win (s : State) (n : Nat) (r : EvRing) : (setEvRing s n r).evt.win = s.evt.win := rfl
@[simp] theorem setEvRing_evt_nUnc (s : State) (n : Nat) (r : EvRing) : (setEvRing s n r).evt.nUnc = s.evt.nUnc := rfl
@[simp] theorem setEvRing_evt_nFatal (s : State) (n : Nat) (r : EvRing) : (setEvRing s n r).evt.nFatal = s.evt.nFatal := rfl
@[simp] theorem setEvRing_evt_alert (s : State) (n : Nat) (r : EvRing) : (setEvRing s n r).evt.alert = s.evt.alert := rfl
@[simp] theorem setEvRing_evt_failed (s : State) (n : Nat) (r : EvRing) : (setEvRing s n r).evt.failed = s.evt.failed := rfl
@[simp] theorem setEvRing_evt_due (s : State) (n : Nat) (r : EvRing) : (setEvRing s n r).evt.due = s.evt.due := rfl

@[simp] theorem hostReply_pending (s : State) (m : HostMsg) : (hostReply s m).pending = s.pending := rfl
@[simp] theorem hostReply_tick (s : State) (m : HostMsg) : (hostReply s m).tick = s.tick := rfl
@[simp] theorem hostReply_free (s : State) (m : HostMsg) : (hostReply s m).free = s.free := rfl
@[simp] theorem hostReply_dev (s : State) (m : HostMsg) : (hostReply s m).dev = s.dev := rfl
@[simp] theorem hostReply_boot (s : State) (m : HostMsg) : (hostReply s m).boot = s.boot := rfl
@[simp] theorem hostReply_trust (s : State) (m : HostMsg) : (hostReply s m).trust = s.trust := rfl
@[simp] theorem hostReply_regs (s : State) (m : HostMsg) : (hostReply s m).regs = s.regs := rfl
@[simp] theorem hostReply_pwr (s : State) (m : HostMsg) : (hostReply s m).pwr = s.pwr := rfl
@[simp] theorem hostReply_thm (s : State) (m : HostMsg) : (hostReply s m).thm = s.thm := rfl
@[simp] theorem hostReply_evt (s : State) (m : HostMsg) : (hostReply s m).evt = s.evt := rfl
@[simp] theorem hostReply_mgt (s : State) (m : HostMsg) : (hostReply s m).mgt = s.mgt := rfl
@[simp] theorem hostReply_gly (s : State) (m : HostMsg) : (hostReply s m).gly = s.gly := rfl
@[simp] theorem hostReply_span (s : State) (m : HostMsg) : (hostReply s m).span = s.span := rfl
@[simp] theorem hostReply_rng (s : State) (m : HostMsg) : (hostReply s m).rng = s.rng := rfl
@[simp] theorem hostReply_krn (s : State) (m : HostMsg) : (hostReply s m).krn = s.krn := rfl
@[simp] theorem hostReply_mem (s : State) (m : HostMsg) : (hostReply s m).mem = s.mem := rfl
@[simp] theorem hostReply_hbm (s : State) (m : HostMsg) : (hostReply s m).hbm = s.hbm := rfl
@[simp] theorem hostReply_fab (s : State) (m : HostMsg) : (hostReply s m).fab = s.fab := rfl
@[simp] theorem hostReply_dbg (s : State) (m : HostMsg) : (hostReply s m).dbg = s.dbg := rfl
@[simp] theorem hostReply_down (s : State) (m : HostMsg) : (hostReply s m).down = s.down := rfl
@[simp] theorem hostReply_link_up (s : State) (m : HostMsg) : (hostReply s m).link.up = s.link.up := rfl
@[simp] theorem hostReply_link_rate10 (s : State) (m : HostMsg) : (hostReply s m).link.rate10 = s.link.rate10 := rfl
@[simp] theorem hostReply_link_width (s : State) (m : HostMsg) : (hostReply s m).link.width = s.link.width := rfl
@[simp] theorem hostReply_link_flit (s : State) (m : HostMsg) : (hostReply s m).link.flit = s.link.flit := rfl
@[simp] theorem hostReply_link_active (s : State) (m : HostMsg) : (hostReply s m).link.active = s.link.active := rfl
@[simp] theorem hostReply_link_bars (s : State) (m : HostMsg) : (hostReply s m).link.bars = s.link.bars := rfl
@[simp] theorem hostReply_link_mps (s : State) (m : HostMsg) : (hostReply s m).link.mps = s.link.mps := rfl
@[simp] theorem hostReply_link_mrrs (s : State) (m : HostMsg) : (hostReply s m).link.mrrs = s.link.mrrs := rfl
@[simp] theorem hostReply_link_tag10 (s : State) (m : HostMsg) : (hostReply s m).link.tag10 = s.link.tag10 := rfl
@[simp] theorem hostReply_link_relaxed (s : State) (m : HostMsg) : (hostReply s m).link.relaxed = s.link.relaxed := rfl
@[simp] theorem hostReply_link_ecrcGen (s : State) (m : HostMsg) : (hostReply s m).link.ecrcGen = s.link.ecrcGen := rfl
@[simp] theorem hostReply_link_ecrcChk (s : State) (m : HostMsg) : (hostReply s m).link.ecrcChk = s.link.ecrcChk := rfl
@[simp] theorem hostReply_link_cplTimeout (s : State) (m : HostMsg) : (hostReply s m).link.cplTimeout = s.link.cplTimeout := rfl
@[simp] theorem hostReply_link_msix (s : State) (m : HostMsg) : (hostReply s m).link.msix = s.link.msix := rfl
@[simp] theorem hostReply_link_cfgReady (s : State) (m : HostMsg) : (hostReply s m).link.cfgReady = s.link.cfgReady := rfl
@[simp] theorem hostReply_link_sris (s : State) (m : HostMsg) : (hostReply s m).link.sris = s.link.sris := rfl
@[simp] theorem hostReply_link_d3 (s : State) (m : HostMsg) : (hostReply s m).link.d3 = s.link.d3 := rfl
@[simp] theorem hostReply_link_memSpace (s : State) (m : HostMsg) : (hostReply s m).link.memSpace = s.link.memSpace := rfl
@[simp] theorem hostReply_link_ats (s : State) (m : HostMsg) : (hostReply s m).link.ats = s.link.ats := rfl
@[simp] theorem hostReply_link_bar4 (s : State) (m : HostMsg) : (hostReply s m).link.bar4 = s.link.bar4 := rfl
@[simp] theorem hostReply_link_numVfs (s : State) (m : HostMsg) : (hostReply s m).link.numVfs = s.link.numVfs := rfl
@[simp] theorem hostReply_link_vfPend (s : State) (m : HostMsg) : (hostReply s m).link.vfPend = s.link.vfPend := rfl
@[simp] theorem hostReply_link_vfShut (s : State) (m : HostMsg) : (hostReply s m).link.vfShut = s.link.vfShut := rfl
@[simp] theorem hostReply_link_unmasked (s : State) (m : HostMsg) : (hostReply s m).link.unmasked = s.link.unmasked := rfl
@[simp] theorem hostReply_link_pba (s : State) (m : HostMsg) : (hostReply s m).link.pba = s.link.pba := rfl
@[simp] theorem hostReply_link_reads (s : State) (m : HostMsg) : (hostReply s m).link.reads = s.link.reads := rfl
@[simp] theorem hostReply_link_nextTag (s : State) (m : HostMsg) : (hostReply s m).link.nextTag = s.link.nextTag := rfl
@[simp] theorem hostReply_link_atc (s : State) (m : HostMsg) : (hostReply s m).link.atc = s.link.atc := rfl
@[simp] theorem hostReply_link_inval (s : State) (m : HostMsg) : (hostReply s m).link.inval = s.link.inval := rfl
@[simp] theorem hostReply_link_aer (s : State) (m : HostMsg) : (hostReply s m).link.aer = s.link.aer := rfl
@[simp] theorem hostReply_link_held (s : State) (m : HostMsg) : (hostReply s m).link.held = s.link.held := rfl

@[simp] theorem aer_pending (s : State) (n k : Nat) : (aer s n k).pending = s.pending := rfl
@[simp] theorem aer_tick (s : State) (n k : Nat) : (aer s n k).tick = s.tick := rfl
@[simp] theorem aer_free (s : State) (n k : Nat) : (aer s n k).free = s.free := rfl
@[simp] theorem aer_dev (s : State) (n k : Nat) : (aer s n k).dev = s.dev := rfl
@[simp] theorem aer_boot (s : State) (n k : Nat) : (aer s n k).boot = s.boot := rfl
@[simp] theorem aer_trust (s : State) (n k : Nat) : (aer s n k).trust = s.trust := rfl
@[simp] theorem aer_regs (s : State) (n k : Nat) : (aer s n k).regs = s.regs := rfl
@[simp] theorem aer_pwr (s : State) (n k : Nat) : (aer s n k).pwr = s.pwr := rfl
@[simp] theorem aer_thm (s : State) (n k : Nat) : (aer s n k).thm = s.thm := rfl
@[simp] theorem aer_evt (s : State) (n k : Nat) : (aer s n k).evt = s.evt := rfl
@[simp] theorem aer_mgt (s : State) (n k : Nat) : (aer s n k).mgt = s.mgt := rfl
@[simp] theorem aer_gly (s : State) (n k : Nat) : (aer s n k).gly = s.gly := rfl
@[simp] theorem aer_span (s : State) (n k : Nat) : (aer s n k).span = s.span := rfl
@[simp] theorem aer_rng (s : State) (n k : Nat) : (aer s n k).rng = s.rng := rfl
@[simp] theorem aer_krn (s : State) (n k : Nat) : (aer s n k).krn = s.krn := rfl
@[simp] theorem aer_mem (s : State) (n k : Nat) : (aer s n k).mem = s.mem := rfl
@[simp] theorem aer_hbm (s : State) (n k : Nat) : (aer s n k).hbm = s.hbm := rfl
@[simp] theorem aer_fab (s : State) (n k : Nat) : (aer s n k).fab = s.fab := rfl
@[simp] theorem aer_dbg (s : State) (n k : Nat) : (aer s n k).dbg = s.dbg := rfl
@[simp] theorem aer_down (s : State) (n k : Nat) : (aer s n k).down = s.down := rfl
@[simp] theorem aer_link_up (s : State) (n k : Nat) : (aer s n k).link.up = s.link.up := rfl
@[simp] theorem aer_link_rate10 (s : State) (n k : Nat) : (aer s n k).link.rate10 = s.link.rate10 := rfl
@[simp] theorem aer_link_width (s : State) (n k : Nat) : (aer s n k).link.width = s.link.width := rfl
@[simp] theorem aer_link_flit (s : State) (n k : Nat) : (aer s n k).link.flit = s.link.flit := rfl
@[simp] theorem aer_link_active (s : State) (n k : Nat) : (aer s n k).link.active = s.link.active := rfl
@[simp] theorem aer_link_bars (s : State) (n k : Nat) : (aer s n k).link.bars = s.link.bars := rfl
@[simp] theorem aer_link_mps (s : State) (n k : Nat) : (aer s n k).link.mps = s.link.mps := rfl
@[simp] theorem aer_link_mrrs (s : State) (n k : Nat) : (aer s n k).link.mrrs = s.link.mrrs := rfl
@[simp] theorem aer_link_tag10 (s : State) (n k : Nat) : (aer s n k).link.tag10 = s.link.tag10 := rfl
@[simp] theorem aer_link_relaxed (s : State) (n k : Nat) : (aer s n k).link.relaxed = s.link.relaxed := rfl
@[simp] theorem aer_link_ecrcGen (s : State) (n k : Nat) : (aer s n k).link.ecrcGen = s.link.ecrcGen := rfl
@[simp] theorem aer_link_ecrcChk (s : State) (n k : Nat) : (aer s n k).link.ecrcChk = s.link.ecrcChk := rfl
@[simp] theorem aer_link_cplTimeout (s : State) (n k : Nat) : (aer s n k).link.cplTimeout = s.link.cplTimeout := rfl
@[simp] theorem aer_link_msix (s : State) (n k : Nat) : (aer s n k).link.msix = s.link.msix := rfl
@[simp] theorem aer_link_cfgReady (s : State) (n k : Nat) : (aer s n k).link.cfgReady = s.link.cfgReady := rfl
@[simp] theorem aer_link_sris (s : State) (n k : Nat) : (aer s n k).link.sris = s.link.sris := rfl
@[simp] theorem aer_link_d3 (s : State) (n k : Nat) : (aer s n k).link.d3 = s.link.d3 := rfl
@[simp] theorem aer_link_memSpace (s : State) (n k : Nat) : (aer s n k).link.memSpace = s.link.memSpace := rfl
@[simp] theorem aer_link_ats (s : State) (n k : Nat) : (aer s n k).link.ats = s.link.ats := rfl
@[simp] theorem aer_link_bar4 (s : State) (n k : Nat) : (aer s n k).link.bar4 = s.link.bar4 := rfl
@[simp] theorem aer_link_numVfs (s : State) (n k : Nat) : (aer s n k).link.numVfs = s.link.numVfs := rfl
@[simp] theorem aer_link_vfPend (s : State) (n k : Nat) : (aer s n k).link.vfPend = s.link.vfPend := rfl
@[simp] theorem aer_link_vfShut (s : State) (n k : Nat) : (aer s n k).link.vfShut = s.link.vfShut := rfl
@[simp] theorem aer_link_unmasked (s : State) (n k : Nat) : (aer s n k).link.unmasked = s.link.unmasked := rfl
@[simp] theorem aer_link_pba (s : State) (n k : Nat) : (aer s n k).link.pba = s.link.pba := rfl
@[simp] theorem aer_link_reads (s : State) (n k : Nat) : (aer s n k).link.reads = s.link.reads := rfl
@[simp] theorem aer_link_nextTag (s : State) (n k : Nat) : (aer s n k).link.nextTag = s.link.nextTag := rfl
@[simp] theorem aer_link_atc (s : State) (n k : Nat) : (aer s n k).link.atc = s.link.atc := rfl
@[simp] theorem aer_link_inval (s : State) (n k : Nat) : (aer s n k).link.inval = s.link.inval := rfl
@[simp] theorem aer_link_out (s : State) (n k : Nat) : (aer s n k).link.out = s.link.out := rfl
@[simp] theorem aer_link_held (s : State) (n k : Nat) : (aer s n k).link.held = s.link.held := rfl

@[simp] theorem setDom_pending (s : State) (d : Nat) (x : Dom) : (setDom s d x).pending = s.pending := rfl
@[simp] theorem setDom_tick (s : State) (d : Nat) (x : Dom) : (setDom s d x).tick = s.tick := rfl
@[simp] theorem setDom_free (s : State) (d : Nat) (x : Dom) : (setDom s d x).free = s.free := rfl
@[simp] theorem setDom_dev (s : State) (d : Nat) (x : Dom) : (setDom s d x).dev = s.dev := rfl
@[simp] theorem setDom_boot (s : State) (d : Nat) (x : Dom) : (setDom s d x).boot = s.boot := rfl
@[simp] theorem setDom_trust (s : State) (d : Nat) (x : Dom) : (setDom s d x).trust = s.trust := rfl
@[simp] theorem setDom_regs (s : State) (d : Nat) (x : Dom) : (setDom s d x).regs = s.regs := rfl
@[simp] theorem setDom_link (s : State) (d : Nat) (x : Dom) : (setDom s d x).link = s.link := rfl
@[simp] theorem setDom_thm (s : State) (d : Nat) (x : Dom) : (setDom s d x).thm = s.thm := rfl
@[simp] theorem setDom_evt (s : State) (d : Nat) (x : Dom) : (setDom s d x).evt = s.evt := rfl
@[simp] theorem setDom_mgt (s : State) (d : Nat) (x : Dom) : (setDom s d x).mgt = s.mgt := rfl
@[simp] theorem setDom_gly (s : State) (d : Nat) (x : Dom) : (setDom s d x).gly = s.gly := rfl
@[simp] theorem setDom_span (s : State) (d : Nat) (x : Dom) : (setDom s d x).span = s.span := rfl
@[simp] theorem setDom_rng (s : State) (d : Nat) (x : Dom) : (setDom s d x).rng = s.rng := rfl
@[simp] theorem setDom_krn (s : State) (d : Nat) (x : Dom) : (setDom s d x).krn = s.krn := rfl
@[simp] theorem setDom_mem (s : State) (d : Nat) (x : Dom) : (setDom s d x).mem = s.mem := rfl
@[simp] theorem setDom_hbm (s : State) (d : Nat) (x : Dom) : (setDom s d x).hbm = s.hbm := rfl
@[simp] theorem setDom_fab (s : State) (d : Nat) (x : Dom) : (setDom s d x).fab = s.fab := rfl
@[simp] theorem setDom_dbg (s : State) (d : Nat) (x : Dom) : (setDom s d x).dbg = s.dbg := rfl
@[simp] theorem setDom_down (s : State) (d : Nat) (x : Dom) : (setDom s d x).down = s.down := rfl
@[simp] theorem setDom_pwr_vin (s : State) (d : Nat) (x : Dom) : (setDom s d x).pwr.vin = s.pwr.vin := rfl
@[simp] theorem setDom_pwr_iin (s : State) (d : Nat) (x : Dom) : (setDom s d x).pwr.iin = s.pwr.iin := rfl
@[simp] theorem setDom_pwr_pin (s : State) (d : Nat) (x : Dom) : (setDom s d x).pwr.pin = s.pwr.pin := rfl
@[simp] theorem setDom_pwr_running (s : State) (d : Nat) (x : Dom) : (setDom s d x).pwr.running = s.pwr.running := rfl
@[simp] theorem setDom_pwr_opened (s : State) (d : Nat) (x : Dom) : (setDom s d x).pwr.opened = s.pwr.opened := rfl
@[simp] theorem setDom_pwr_lowPosted (s : State) (d : Nat) (x : Dom) : (setDom s d x).pwr.lowPosted = s.pwr.lowPosted := rfl
@[simp] theorem setDom_pwr_localSense (s : State) (d : Nat) (x : Dom) : (setDom s d x).pwr.localSense = s.pwr.localSense := rfl
@[simp] theorem setDom_pwr_rise (s : State) (d : Nat) (x : Dom) : (setDom s d x).pwr.rise = s.pwr.rise := rfl
@[simp] theorem setDom_pwr_phaseBad (s : State) (d : Nat) (x : Dom) : (setDom s d x).pwr.phaseBad = s.pwr.phaseBad := rfl
@[simp] theorem setDom_pwr_railOff (s : State) (d : Nat) (x : Dom) : (setDom s d x).pwr.railOff = s.pwr.railOff := rfl
@[simp] theorem setDom_pwr_railMv (s : State) (d : Nat) (x : Dom) : (setDom s d x).pwr.railMv = s.pwr.railMv := rfl
@[simp] theorem setDom_pwr_alloc (s : State) (d : Nat) (x : Dom) : (setDom s d x).pwr.alloc = s.pwr.alloc := rfl
@[simp] theorem setDom_pwr_vmin (s : State) (d : Nat) (x : Dom) : (setDom s d x).pwr.vmin = s.pwr.vmin := rfl
@[simp] theorem setDom_pwr_droop (s : State) (d : Nat) (x : Dom) : (setDom s d x).pwr.droop = s.pwr.droop := rfl
@[simp] theorem setDom_pwr_stepping (s : State) (d : Nat) (x : Dom) : (setDom s d x).pwr.stepping = s.pwr.stepping := rfl
@[simp] theorem setDom_pwr_ramp6 (s : State) (d : Nat) (x : Dom) : (setDom s d x).pwr.ramp6 = s.pwr.ramp6 := rfl
@[simp] theorem setDom_pwr_arb (s : State) (d : Nat) (x : Dom) : (setDom s d x).pwr.arb = s.pwr.arb := rfl
@[simp] theorem setDom_pwr_hold (s : State) (d : Nat) (x : Dom) : (setDom s d x).pwr.hold = s.pwr.hold := rfl
@[simp] theorem setDom_pwr_floor (s : State) (d : Nat) (x : Dom) : (setDom s d x).pwr.floor = s.pwr.floor := rfl
@[simp] theorem setDom_pwr_cnt5 (s : State) (d : Nat) (x : Dom) : (setDom s d x).pwr.cnt5 = s.pwr.cnt5 := rfl
@[simp] theorem setDom_pwr_cnt6 (s : State) (d : Nat) (x : Dom) : (setDom s d x).pwr.cnt6 = s.pwr.cnt6 := rfl
@[simp] theorem setDom_pwr_droopCnt (s : State) (d : Nat) (x : Dom) : (setDom s d x).pwr.droopCnt = s.pwr.droopCnt := rfl
@[simp] theorem setDom_pwr_wait (s : State) (d : Nat) (x : Dom) : (setDom s d x).pwr.wait = s.pwr.wait := rfl
@[simp] theorem setDom_pwr_domFail (s : State) (d : Nat) (x : Dom) : (setDom s d x).pwr.domFail = s.pwr.domFail := rfl
@[simp] theorem setDom_pwr_ptr (s : State) (d : Nat) (x : Dom) : (setDom s d x).pwr.ptr = s.pwr.ptr := rfl
@[simp] theorem setDom_pwr_eff (s : State) (d : Nat) (x : Dom) : (setDom s d x).pwr.eff = s.pwr.eff := rfl
@[simp] theorem setDom_pwr_clamped (s : State) (d : Nat) (x : Dom) : (setDom s d x).pwr.clamped = s.pwr.clamped := rfl
@[simp] theorem setDom_pwr_trip (s : State) (d : Nat) (x : Dom) : (setDom s d x).pwr.trip = s.pwr.trip := rfl
@[simp] theorem setDom_pwr_latched (s : State) (d : Nat) (x : Dom) : (setDom s d x).pwr.latched = s.pwr.latched := rfl
@[simp] theorem setDom_pwr_trips (s : State) (d : Nat) (x : Dom) : (setDom s d x).pwr.trips = s.pwr.trips := rfl
@[simp] theorem setDom_pwr_holdOff (s : State) (d : Nat) (x : Dom) : (setDom s d x).pwr.holdOff = s.pwr.holdOff := rfl
@[simp] theorem setDom_pwr_tripOff (s : State) (d : Nat) (x : Dom) : (setDom s d x).pwr.tripOff = s.pwr.tripOff := rfl
@[simp] theorem setDom_pwr_tripNow (s : State) (d : Nat) (x : Dom) : (setDom s d x).pwr.tripNow = s.pwr.tripNow := rfl
@[simp] theorem setDom_pwr_aux (s : State) (d : Nat) (x : Dom) : (setDom s d x).pwr.aux = s.pwr.aux := rfl
@[simp] theorem setDom_pwr_thermtrip (s : State) (d : Nat) (x : Dom) : (setDom s d x).pwr.thermtrip = s.pwr.thermtrip := rfl
@[simp] theorem setDom_pwr_clkLocked (s : State) (d : Nat) (x : Dom) : (setDom s d x).pwr.clkLocked = s.pwr.clkLocked := rfl
@[simp] theorem setDom_pwr_alignCnt (s : State) (d : Nat) (x : Dom) : (setDom s d x).pwr.alignCnt = s.pwr.alignCnt := rfl

@[simp] theorem setChan_pending (s : State) (c : Nat) (x : Chan) : (setChan s c x).pending = s.pending := rfl
@[simp] theorem setChan_tick (s : State) (c : Nat) (x : Chan) : (setChan s c x).tick = s.tick := rfl
@[simp] theorem setChan_free (s : State) (c : Nat) (x : Chan) : (setChan s c x).free = s.free := rfl
@[simp] theorem setChan_dev (s : State) (c : Nat) (x : Chan) : (setChan s c x).dev = s.dev := rfl
@[simp] theorem setChan_boot (s : State) (c : Nat) (x : Chan) : (setChan s c x).boot = s.boot := rfl
@[simp] theorem setChan_trust (s : State) (c : Nat) (x : Chan) : (setChan s c x).trust = s.trust := rfl
@[simp] theorem setChan_regs (s : State) (c : Nat) (x : Chan) : (setChan s c x).regs = s.regs := rfl
@[simp] theorem setChan_link (s : State) (c : Nat) (x : Chan) : (setChan s c x).link = s.link := rfl
@[simp] theorem setChan_pwr (s : State) (c : Nat) (x : Chan) : (setChan s c x).pwr = s.pwr := rfl
@[simp] theorem setChan_thm (s : State) (c : Nat) (x : Chan) : (setChan s c x).thm = s.thm := rfl
@[simp] theorem setChan_evt (s : State) (c : Nat) (x : Chan) : (setChan s c x).evt = s.evt := rfl
@[simp] theorem setChan_mgt (s : State) (c : Nat) (x : Chan) : (setChan s c x).mgt = s.mgt := rfl
@[simp] theorem setChan_gly (s : State) (c : Nat) (x : Chan) : (setChan s c x).gly = s.gly := rfl
@[simp] theorem setChan_span (s : State) (c : Nat) (x : Chan) : (setChan s c x).span = s.span := rfl
@[simp] theorem setChan_rng (s : State) (c : Nat) (x : Chan) : (setChan s c x).rng = s.rng := rfl
@[simp] theorem setChan_krn (s : State) (c : Nat) (x : Chan) : (setChan s c x).krn = s.krn := rfl
@[simp] theorem setChan_mem (s : State) (c : Nat) (x : Chan) : (setChan s c x).mem = s.mem := rfl
@[simp] theorem setChan_fab (s : State) (c : Nat) (x : Chan) : (setChan s c x).fab = s.fab := rfl
@[simp] theorem setChan_dbg (s : State) (c : Nat) (x : Chan) : (setChan s c x).dbg = s.dbg := rfl
@[simp] theorem setChan_down (s : State) (c : Nat) (x : Chan) : (setChan s c x).down = s.down := rfl
@[simp] theorem setChan_hbm_stk (s : State) (c : Nat) (x : Chan) : (setChan s c x).hbm.stk = s.hbm.stk := rfl
@[simp] theorem setChan_hbm_rewrite (s : State) (c : Nat) (x : Chan) : (setChan s c x).hbm.rewrite = s.hbm.rewrite := rfl

@[simp] theorem setStack_pending (s : State) (k : Nat) (x : Stack) : (setStack s k x).pending = s.pending := rfl
@[simp] theorem setStack_tick (s : State) (k : Nat) (x : Stack) : (setStack s k x).tick = s.tick := rfl
@[simp] theorem setStack_free (s : State) (k : Nat) (x : Stack) : (setStack s k x).free = s.free := rfl
@[simp] theorem setStack_dev (s : State) (k : Nat) (x : Stack) : (setStack s k x).dev = s.dev := rfl
@[simp] theorem setStack_boot (s : State) (k : Nat) (x : Stack) : (setStack s k x).boot = s.boot := rfl
@[simp] theorem setStack_trust (s : State) (k : Nat) (x : Stack) : (setStack s k x).trust = s.trust := rfl
@[simp] theorem setStack_regs (s : State) (k : Nat) (x : Stack) : (setStack s k x).regs = s.regs := rfl
@[simp] theorem setStack_link (s : State) (k : Nat) (x : Stack) : (setStack s k x).link = s.link := rfl
@[simp] theorem setStack_pwr (s : State) (k : Nat) (x : Stack) : (setStack s k x).pwr = s.pwr := rfl
@[simp] theorem setStack_thm (s : State) (k : Nat) (x : Stack) : (setStack s k x).thm = s.thm := rfl
@[simp] theorem setStack_evt (s : State) (k : Nat) (x : Stack) : (setStack s k x).evt = s.evt := rfl
@[simp] theorem setStack_mgt (s : State) (k : Nat) (x : Stack) : (setStack s k x).mgt = s.mgt := rfl
@[simp] theorem setStack_gly (s : State) (k : Nat) (x : Stack) : (setStack s k x).gly = s.gly := rfl
@[simp] theorem setStack_span (s : State) (k : Nat) (x : Stack) : (setStack s k x).span = s.span := rfl
@[simp] theorem setStack_rng (s : State) (k : Nat) (x : Stack) : (setStack s k x).rng = s.rng := rfl
@[simp] theorem setStack_krn (s : State) (k : Nat) (x : Stack) : (setStack s k x).krn = s.krn := rfl
@[simp] theorem setStack_mem (s : State) (k : Nat) (x : Stack) : (setStack s k x).mem = s.mem := rfl
@[simp] theorem setStack_fab (s : State) (k : Nat) (x : Stack) : (setStack s k x).fab = s.fab := rfl
@[simp] theorem setStack_dbg (s : State) (k : Nat) (x : Stack) : (setStack s k x).dbg = s.dbg := rfl
@[simp] theorem setStack_down (s : State) (k : Nat) (x : Stack) : (setStack s k x).down = s.down := rfl
@[simp] theorem setStack_hbm_chans (s : State) (k : Nat) (x : Stack) : (setStack s k x).hbm.chans = s.hbm.chans := rfl
@[simp] theorem setStack_hbm_rewrite (s : State) (k : Nat) (x : Stack) : (setStack s k x).hbm.rewrite = s.hbm.rewrite := rfl

@[simp] theorem setPole_pending (s : State) (p : Nat) (x : Pole) : (setPole s p x).pending = s.pending := rfl
@[simp] theorem setPole_tick (s : State) (p : Nat) (x : Pole) : (setPole s p x).tick = s.tick := rfl
@[simp] theorem setPole_free (s : State) (p : Nat) (x : Pole) : (setPole s p x).free = s.free := rfl
@[simp] theorem setPole_dev (s : State) (p : Nat) (x : Pole) : (setPole s p x).dev = s.dev := rfl
@[simp] theorem setPole_boot (s : State) (p : Nat) (x : Pole) : (setPole s p x).boot = s.boot := rfl
@[simp] theorem setPole_trust (s : State) (p : Nat) (x : Pole) : (setPole s p x).trust = s.trust := rfl
@[simp] theorem setPole_regs (s : State) (p : Nat) (x : Pole) : (setPole s p x).regs = s.regs := rfl
@[simp] theorem setPole_link (s : State) (p : Nat) (x : Pole) : (setPole s p x).link = s.link := rfl
@[simp] theorem setPole_pwr (s : State) (p : Nat) (x : Pole) : (setPole s p x).pwr = s.pwr := rfl
@[simp] theorem setPole_thm (s : State) (p : Nat) (x : Pole) : (setPole s p x).thm = s.thm := rfl
@[simp] theorem setPole_evt (s : State) (p : Nat) (x : Pole) : (setPole s p x).evt = s.evt := rfl
@[simp] theorem setPole_mgt (s : State) (p : Nat) (x : Pole) : (setPole s p x).mgt = s.mgt := rfl
@[simp] theorem setPole_gly (s : State) (p : Nat) (x : Pole) : (setPole s p x).gly = s.gly := rfl
@[simp] theorem setPole_span (s : State) (p : Nat) (x : Pole) : (setPole s p x).span = s.span := rfl
@[simp] theorem setPole_rng (s : State) (p : Nat) (x : Pole) : (setPole s p x).rng = s.rng := rfl
@[simp] theorem setPole_krn (s : State) (p : Nat) (x : Pole) : (setPole s p x).krn = s.krn := rfl
@[simp] theorem setPole_mem (s : State) (p : Nat) (x : Pole) : (setPole s p x).mem = s.mem := rfl
@[simp] theorem setPole_hbm (s : State) (p : Nat) (x : Pole) : (setPole s p x).hbm = s.hbm := rfl
@[simp] theorem setPole_dbg (s : State) (p : Nat) (x : Pole) : (setPole s p x).dbg = s.dbg := rfl
@[simp] theorem setPole_down (s : State) (p : Nat) (x : Pole) : (setPole s p x).down = s.down := rfl
@[simp] theorem setPole_fab_testq (s : State) (p : Nat) (x : Pole) : (setPole s p x).fab.testq = s.fab.testq := rfl
@[simp] theorem setPole_fab_testPtr (s : State) (p : Nat) (x : Pole) : (setPole s p x).fab.testPtr = s.fab.testPtr := rfl
@[simp] theorem setPole_fab_cut (s : State) (p : Nat) (x : Pole) : (setPole s p x).fab.cut = s.fab.cut := rfl
@[simp] theorem setPole_fab_migrate (s : State) (p : Nat) (x : Pole) : (setPole s p x).fab.migrate = s.fab.migrate := rfl
@[simp] theorem setPole_fab_stepped (s : State) (p : Nat) (x : Pole) : (setPole s p x).fab.stepped = s.fab.stepped := rfl
@[simp] theorem setPole_fab_cutNow (s : State) (p : Nat) (x : Pole) : (setPole s p x).fab.cutNow = s.fab.cutNow := rfl
@[simp] theorem setPole_fab_replays (s : State) (p : Nat) (x : Pole) : (setPole s p x).fab.replays = s.fab.replays := rfl
@[simp] theorem setPole_fab_relief (s : State) (p : Nat) (x : Pole) : (setPole s p x).fab.relief = s.fab.relief := rfl
@[simp] theorem setPole_fab_mods (s : State) (p : Nat) (x : Pole) : (setPole s p x).fab.mods = s.fab.mods := rfl
@[simp] theorem setPole_fab_downStart (s : State) (p : Nat) (x : Pole) : (setPole s p x).fab.downStart = s.fab.downStart := rfl
@[simp] theorem setPole_fab_downSvc (s : State) (p : Nat) (x : Pole) : (setPole s p x).fab.downSvc = s.fab.downSvc := rfl
@[simp] theorem setPole_fab_degraded (s : State) (p : Nat) (x : Pole) : (setPole s p x).fab.degraded = s.fab.degraded := rfl
@[simp] theorem setPole_fab_epoch (s : State) (p : Nat) (x : Pole) : (setPole s p x).fab.epoch = s.fab.epoch := rfl
@[simp] theorem setPole_fab_lat (s : State) (p : Nat) (x : Pole) : (setPole s p x).fab.lat = s.fab.lat := rfl
@[simp] theorem setPole_fab_inflight (s : State) (p : Nat) (x : Pole) : (setPole s p x).fab.inflight = s.fab.inflight := rfl
@[simp] theorem setPole_fab_bkt (s : State) (p : Nat) (x : Pole) : (setPole s p x).fab.bkt = s.fab.bkt := rfl

@[simp] theorem setTdi_pending (s : State) (p v : Nat) : (setTdi s p v).pending = s.pending := rfl
@[simp] theorem setTdi_tick (s : State) (p v : Nat) : (setTdi s p v).tick = s.tick := rfl
@[simp] theorem setTdi_free (s : State) (p v : Nat) : (setTdi s p v).free = s.free := rfl
@[simp] theorem setTdi_dev (s : State) (p v : Nat) : (setTdi s p v).dev = s.dev := rfl
@[simp] theorem setTdi_boot (s : State) (p v : Nat) : (setTdi s p v).boot = s.boot := rfl
@[simp] theorem setTdi_regs (s : State) (p v : Nat) : (setTdi s p v).regs = s.regs := rfl
@[simp] theorem setTdi_link (s : State) (p v : Nat) : (setTdi s p v).link = s.link := rfl
@[simp] theorem setTdi_pwr (s : State) (p v : Nat) : (setTdi s p v).pwr = s.pwr := rfl
@[simp] theorem setTdi_thm (s : State) (p v : Nat) : (setTdi s p v).thm = s.thm := rfl
@[simp] theorem setTdi_evt (s : State) (p v : Nat) : (setTdi s p v).evt = s.evt := rfl
@[simp] theorem setTdi_mgt (s : State) (p v : Nat) : (setTdi s p v).mgt = s.mgt := rfl
@[simp] theorem setTdi_gly (s : State) (p v : Nat) : (setTdi s p v).gly = s.gly := rfl
@[simp] theorem setTdi_span (s : State) (p v : Nat) : (setTdi s p v).span = s.span := rfl
@[simp] theorem setTdi_rng (s : State) (p v : Nat) : (setTdi s p v).rng = s.rng := rfl
@[simp] theorem setTdi_krn (s : State) (p v : Nat) : (setTdi s p v).krn = s.krn := rfl
@[simp] theorem setTdi_mem (s : State) (p v : Nat) : (setTdi s p v).mem = s.mem := rfl
@[simp] theorem setTdi_hbm (s : State) (p v : Nat) : (setTdi s p v).hbm = s.hbm := rfl
@[simp] theorem setTdi_fab (s : State) (p v : Nat) : (setTdi s p v).fab = s.fab := rfl
@[simp] theorem setTdi_dbg (s : State) (p v : Nat) : (setTdi s p v).dbg = s.dbg := rfl
@[simp] theorem setTdi_down (s : State) (p v : Nat) : (setTdi s p v).down = s.down := rfl
@[simp] theorem setTdi_trust_copyA (s : State) (p v : Nat) : (setTdi s p v).trust.copyA = s.trust.copyA := rfl
@[simp] theorem setTdi_trust_copyB (s : State) (p v : Nat) : (setTdi s p v).trust.copyB = s.trust.copyB := rfl
@[simp] theorem setTdi_trust_rpmc (s : State) (p v : Nat) : (setTdi s p v).trust.rpmc = s.trust.rpmc := rfl
@[simp] theorem setTdi_trust_lifeRecords (s : State) (p v : Nat) : (setTdi s p v).trust.lifeRecords = s.trust.lifeRecords := rfl
@[simp] theorem setTdi_trust_lifeBins (s : State) (p v : Nat) : (setTdi s p v).trust.lifeBins = s.trust.lifeBins := rfl
@[simp] theorem setTdi_trust_log (s : State) (p v : Nat) : (setTdi s p v).trust.log = s.trust.log := rfl
@[simp] theorem setTdi_trust_seq (s : State) (p v : Nat) : (setTdi s p v).trust.seq = s.trust.seq := rfl
@[simp] theorem setTdi_trust_chain (s : State) (p v : Nat) : (setTdi s p v).trust.chain = s.trust.chain := rfl
@[simp] theorem setTdi_trust_pchain (s : State) (p v : Nat) : (setTdi s p v).trust.pchain = s.trust.pchain := rfl
@[simp] theorem setTdi_trust_logFull (s : State) (p v : Nat) : (setTdi s p v).trust.logFull = s.trust.logFull := rfl
@[simp] theorem setTdi_trust_keys (s : State) (p v : Nat) : (setTdi s p v).trust.keys = s.trust.keys := rfl
@[simp] theorem setTdi_trust_conns (s : State) (p v : Nat) : (setTdi s p v).trust.conns = s.trust.conns := rfl
@[simp] theorem setTdi_trust_ideBad (s : State) (p v : Nat) : (setTdi s p v).trust.ideBad = s.trust.ideBad := rfl
@[simp] theorem setTdi_trust_tapOpen (s : State) (p v : Nat) : (setTdi s p v).trust.tapOpen = s.trust.tapOpen := rfl
@[simp] theorem setTdi_trust_everAttached (s : State) (p v : Nat) : (setTdi s p v).trust.everAttached = s.trust.everAttached := rfl
@[simp] theorem setTdi_trust_mboxResult (s : State) (p v : Nat) : (setTdi s p v).trust.mboxResult = s.trust.mboxResult := rfl
@[simp] theorem setTdi_trust_mboxBusy (s : State) (p v : Nat) : (setTdi s p v).trust.mboxBusy = s.trust.mboxBusy := rfl

@[simp] theorem setConn_pending (s : State) (c : Nat) (x : Conn) : (setConn s c x).pending = s.pending := rfl
@[simp] theorem setConn_tick (s : State) (c : Nat) (x : Conn) : (setConn s c x).tick = s.tick := rfl
@[simp] theorem setConn_free (s : State) (c : Nat) (x : Conn) : (setConn s c x).free = s.free := rfl
@[simp] theorem setConn_dev (s : State) (c : Nat) (x : Conn) : (setConn s c x).dev = s.dev := rfl
@[simp] theorem setConn_boot (s : State) (c : Nat) (x : Conn) : (setConn s c x).boot = s.boot := rfl
@[simp] theorem setConn_regs (s : State) (c : Nat) (x : Conn) : (setConn s c x).regs = s.regs := rfl
@[simp] theorem setConn_link (s : State) (c : Nat) (x : Conn) : (setConn s c x).link = s.link := rfl
@[simp] theorem setConn_pwr (s : State) (c : Nat) (x : Conn) : (setConn s c x).pwr = s.pwr := rfl
@[simp] theorem setConn_thm (s : State) (c : Nat) (x : Conn) : (setConn s c x).thm = s.thm := rfl
@[simp] theorem setConn_evt (s : State) (c : Nat) (x : Conn) : (setConn s c x).evt = s.evt := rfl
@[simp] theorem setConn_mgt (s : State) (c : Nat) (x : Conn) : (setConn s c x).mgt = s.mgt := rfl
@[simp] theorem setConn_gly (s : State) (c : Nat) (x : Conn) : (setConn s c x).gly = s.gly := rfl
@[simp] theorem setConn_span (s : State) (c : Nat) (x : Conn) : (setConn s c x).span = s.span := rfl
@[simp] theorem setConn_rng (s : State) (c : Nat) (x : Conn) : (setConn s c x).rng = s.rng := rfl
@[simp] theorem setConn_krn (s : State) (c : Nat) (x : Conn) : (setConn s c x).krn = s.krn := rfl
@[simp] theorem setConn_mem (s : State) (c : Nat) (x : Conn) : (setConn s c x).mem = s.mem := rfl
@[simp] theorem setConn_hbm (s : State) (c : Nat) (x : Conn) : (setConn s c x).hbm = s.hbm := rfl
@[simp] theorem setConn_fab (s : State) (c : Nat) (x : Conn) : (setConn s c x).fab = s.fab := rfl
@[simp] theorem setConn_dbg (s : State) (c : Nat) (x : Conn) : (setConn s c x).dbg = s.dbg := rfl
@[simp] theorem setConn_down (s : State) (c : Nat) (x : Conn) : (setConn s c x).down = s.down := rfl
@[simp] theorem setConn_trust_copyA (s : State) (c : Nat) (x : Conn) : (setConn s c x).trust.copyA = s.trust.copyA := rfl
@[simp] theorem setConn_trust_copyB (s : State) (c : Nat) (x : Conn) : (setConn s c x).trust.copyB = s.trust.copyB := rfl
@[simp] theorem setConn_trust_rpmc (s : State) (c : Nat) (x : Conn) : (setConn s c x).trust.rpmc = s.trust.rpmc := rfl
@[simp] theorem setConn_trust_lifeRecords (s : State) (c : Nat) (x : Conn) : (setConn s c x).trust.lifeRecords = s.trust.lifeRecords := rfl
@[simp] theorem setConn_trust_lifeBins (s : State) (c : Nat) (x : Conn) : (setConn s c x).trust.lifeBins = s.trust.lifeBins := rfl
@[simp] theorem setConn_trust_log (s : State) (c : Nat) (x : Conn) : (setConn s c x).trust.log = s.trust.log := rfl
@[simp] theorem setConn_trust_seq (s : State) (c : Nat) (x : Conn) : (setConn s c x).trust.seq = s.trust.seq := rfl
@[simp] theorem setConn_trust_chain (s : State) (c : Nat) (x : Conn) : (setConn s c x).trust.chain = s.trust.chain := rfl
@[simp] theorem setConn_trust_pchain (s : State) (c : Nat) (x : Conn) : (setConn s c x).trust.pchain = s.trust.pchain := rfl
@[simp] theorem setConn_trust_logFull (s : State) (c : Nat) (x : Conn) : (setConn s c x).trust.logFull = s.trust.logFull := rfl
@[simp] theorem setConn_trust_keys (s : State) (c : Nat) (x : Conn) : (setConn s c x).trust.keys = s.trust.keys := rfl
@[simp] theorem setConn_trust_tdi (s : State) (c : Nat) (x : Conn) : (setConn s c x).trust.tdi = s.trust.tdi := rfl
@[simp] theorem setConn_trust_ideBad (s : State) (c : Nat) (x : Conn) : (setConn s c x).trust.ideBad = s.trust.ideBad := rfl
@[simp] theorem setConn_trust_tapOpen (s : State) (c : Nat) (x : Conn) : (setConn s c x).trust.tapOpen = s.trust.tapOpen := rfl
@[simp] theorem setConn_trust_everAttached (s : State) (c : Nat) (x : Conn) : (setConn s c x).trust.everAttached = s.trust.everAttached := rfl
@[simp] theorem setConn_trust_mboxResult (s : State) (c : Nat) (x : Conn) : (setConn s c x).trust.mboxResult = s.trust.mboxResult := rfl
@[simp] theorem setConn_trust_mboxBusy (s : State) (c : Nat) (x : Conn) : (setConn s c x).trust.mboxBusy = s.trust.mboxBusy := rfl

@[simp] theorem putReg_pending (s : State) (o i m r v : Nat) : (putReg s o i m r v).pending = s.pending := rfl
@[simp] theorem putReg_tick (s : State) (o i m r v : Nat) : (putReg s o i m r v).tick = s.tick := rfl
@[simp] theorem putReg_free (s : State) (o i m r v : Nat) : (putReg s o i m r v).free = s.free := rfl
@[simp] theorem putReg_dev (s : State) (o i m r v : Nat) : (putReg s o i m r v).dev = s.dev := rfl
@[simp] theorem putReg_boot (s : State) (o i m r v : Nat) : (putReg s o i m r v).boot = s.boot := rfl
@[simp] theorem putReg_trust (s : State) (o i m r v : Nat) : (putReg s o i m r v).trust = s.trust := rfl
@[simp] theorem putReg_link (s : State) (o i m r v : Nat) : (putReg s o i m r v).link = s.link := rfl
@[simp] theorem putReg_pwr (s : State) (o i m r v : Nat) : (putReg s o i m r v).pwr = s.pwr := rfl
@[simp] theorem putReg_thm (s : State) (o i m r v : Nat) : (putReg s o i m r v).thm = s.thm := rfl
@[simp] theorem putReg_evt (s : State) (o i m r v : Nat) : (putReg s o i m r v).evt = s.evt := rfl
@[simp] theorem putReg_mgt (s : State) (o i m r v : Nat) : (putReg s o i m r v).mgt = s.mgt := rfl
@[simp] theorem putReg_gly (s : State) (o i m r v : Nat) : (putReg s o i m r v).gly = s.gly := rfl
@[simp] theorem putReg_span (s : State) (o i m r v : Nat) : (putReg s o i m r v).span = s.span := rfl
@[simp] theorem putReg_rng (s : State) (o i m r v : Nat) : (putReg s o i m r v).rng = s.rng := rfl
@[simp] theorem putReg_krn (s : State) (o i m r v : Nat) : (putReg s o i m r v).krn = s.krn := rfl
@[simp] theorem putReg_mem (s : State) (o i m r v : Nat) : (putReg s o i m r v).mem = s.mem := rfl
@[simp] theorem putReg_hbm (s : State) (o i m r v : Nat) : (putReg s o i m r v).hbm = s.hbm := rfl
@[simp] theorem putReg_fab (s : State) (o i m r v : Nat) : (putReg s o i m r v).fab = s.fab := rfl
@[simp] theorem putReg_dbg (s : State) (o i m r v : Nat) : (putReg s o i m r v).dbg = s.dbg := rfl
@[simp] theorem putReg_down (s : State) (o i m r v : Nat) : (putReg s o i m r v).down = s.down := rfl
@[simp] theorem putReg_regs_sel (s : State) (o i m r v : Nat) : (putReg s o i m r v).regs.sel = s.regs.sel := rfl
@[simp] theorem putReg_regs_latch (s : State) (o i m r v : Nat) : (putReg s o i m r v).regs.latch = s.regs.latch := rfl
@[simp] theorem putReg_regs_stage (s : State) (o i m r v : Nat) : (putReg s o i m r v).regs.stage = s.regs.stage := rfl

@[simp] theorem setDown_pending (s : State) (d : Down) : (setDown s d).pending = s.pending := rfl
@[simp] theorem setDown_tick (s : State) (d : Down) : (setDown s d).tick = s.tick := rfl
@[simp] theorem setDown_free (s : State) (d : Down) : (setDown s d).free = s.free := rfl
@[simp] theorem setDown_dev (s : State) (d : Down) : (setDown s d).dev = s.dev := rfl
@[simp] theorem setDown_boot (s : State) (d : Down) : (setDown s d).boot = s.boot := rfl
@[simp] theorem setDown_trust (s : State) (d : Down) : (setDown s d).trust = s.trust := rfl
@[simp] theorem setDown_regs (s : State) (d : Down) : (setDown s d).regs = s.regs := rfl
@[simp] theorem setDown_link (s : State) (d : Down) : (setDown s d).link = s.link := rfl
@[simp] theorem setDown_pwr (s : State) (d : Down) : (setDown s d).pwr = s.pwr := rfl
@[simp] theorem setDown_thm (s : State) (d : Down) : (setDown s d).thm = s.thm := rfl
@[simp] theorem setDown_evt (s : State) (d : Down) : (setDown s d).evt = s.evt := rfl
@[simp] theorem setDown_mgt (s : State) (d : Down) : (setDown s d).mgt = s.mgt := rfl
@[simp] theorem setDown_gly (s : State) (d : Down) : (setDown s d).gly = s.gly := rfl
@[simp] theorem setDown_span (s : State) (d : Down) : (setDown s d).span = s.span := rfl
@[simp] theorem setDown_rng (s : State) (d : Down) : (setDown s d).rng = s.rng := rfl
@[simp] theorem setDown_krn (s : State) (d : Down) : (setDown s d).krn = s.krn := rfl
@[simp] theorem setDown_mem (s : State) (d : Down) : (setDown s d).mem = s.mem := rfl
@[simp] theorem setDown_hbm (s : State) (d : Down) : (setDown s d).hbm = s.hbm := rfl
@[simp] theorem setDown_fab (s : State) (d : Down) : (setDown s d).fab = s.fab := rfl
@[simp] theorem setDown_dbg (s : State) (d : Down) : (setDown s d).dbg = s.dbg := rfl

@[simp] theorem dropLine_pending (s : State) (l : Nat) : (dropLine s l).pending = s.pending := rfl
@[simp] theorem dropLine_tick (s : State) (l : Nat) : (dropLine s l).tick = s.tick := rfl
@[simp] theorem dropLine_free (s : State) (l : Nat) : (dropLine s l).free = s.free := rfl
@[simp] theorem dropLine_dev (s : State) (l : Nat) : (dropLine s l).dev = s.dev := rfl
@[simp] theorem dropLine_boot (s : State) (l : Nat) : (dropLine s l).boot = s.boot := rfl
@[simp] theorem dropLine_trust (s : State) (l : Nat) : (dropLine s l).trust = s.trust := rfl
@[simp] theorem dropLine_regs (s : State) (l : Nat) : (dropLine s l).regs = s.regs := rfl
@[simp] theorem dropLine_link (s : State) (l : Nat) : (dropLine s l).link = s.link := rfl
@[simp] theorem dropLine_pwr (s : State) (l : Nat) : (dropLine s l).pwr = s.pwr := rfl
@[simp] theorem dropLine_thm (s : State) (l : Nat) : (dropLine s l).thm = s.thm := rfl
@[simp] theorem dropLine_evt (s : State) (l : Nat) : (dropLine s l).evt = s.evt := rfl
@[simp] theorem dropLine_mgt (s : State) (l : Nat) : (dropLine s l).mgt = s.mgt := rfl
@[simp] theorem dropLine_gly (s : State) (l : Nat) : (dropLine s l).gly = s.gly := rfl
@[simp] theorem dropLine_span (s : State) (l : Nat) : (dropLine s l).span = s.span := rfl
@[simp] theorem dropLine_rng (s : State) (l : Nat) : (dropLine s l).rng = s.rng := rfl
@[simp] theorem dropLine_krn (s : State) (l : Nat) : (dropLine s l).krn = s.krn := rfl
@[simp] theorem dropLine_hbm (s : State) (l : Nat) : (dropLine s l).hbm = s.hbm := rfl
@[simp] theorem dropLine_fab (s : State) (l : Nat) : (dropLine s l).fab = s.fab := rfl
@[simp] theorem dropLine_dbg (s : State) (l : Nat) : (dropLine s l).dbg = s.dbg := rfl
@[simp] theorem dropLine_down (s : State) (l : Nat) : (dropLine s l).down = s.down := rfl
@[simp] theorem dropLine_mem_hbm (s : State) (l : Nat) : (dropLine s l).mem.hbm = s.mem.hbm := rfl
@[simp] theorem dropLine_mem_hbmPois (s : State) (l : Nat) : (dropLine s l).mem.hbmPois = s.mem.hbmPois := rfl
@[simp] theorem dropLine_mem_key (s : State) (l : Nat) : (dropLine s l).mem.key = s.mem.key := rfl
@[simp] theorem dropLine_mem_xts (s : State) (l : Nat) : (dropLine s l).mem.xts = s.mem.xts := rfl
@[simp] theorem dropLine_mem_pairs (s : State) (l : Nat) : (dropLine s l).mem.pairs = s.mem.pairs := rfl
@[simp] theorem dropLine_mem_flaw (s : State) (l : Nat) : (dropLine s l).mem.flaw = s.mem.flaw := rfl
@[simp] theorem dropLine_mem_plot (s : State) (l : Nat) : (dropLine s l).mem.plot = s.mem.plot := rfl
@[simp] theorem dropLine_mem_plotPois (s : State) (l : Nat) : (dropLine s l).mem.plotPois = s.mem.plotPois := rfl
@[simp] theorem dropLine_mem_miss (s : State) (l : Nat) : (dropLine s l).mem.miss = s.mem.miss := rfl
@[simp] theorem dropLine_mem_reqs (s : State) (l : Nat) : (dropLine s l).mem.reqs = s.mem.reqs := rfl
@[simp] theorem dropLine_mem_redq (s : State) (l : Nat) : (dropLine s l).mem.redq = s.mem.redq := rfl
@[simp] theorem dropLine_mem_msa (s : State) (l : Nat) : (dropLine s l).mem.msa = s.mem.msa := rfl
@[simp] theorem dropLine_mem_dead (s : State) (l : Nat) : (dropLine s l).mem.dead = s.mem.dead := rfl
@[simp] theorem dropLine_mem_fill (s : State) (l : Nat) : (dropLine s l).mem.fill = s.mem.fill := rfl
@[simp] theorem dropLine_mem_rowErr (s : State) (l : Nat) : (dropLine s l).mem.rowErr = s.mem.rowErr := rfl
@[simp] theorem dropLine_mem_rowOut (s : State) (l : Nat) : (dropLine s l).mem.rowOut = s.mem.rowOut := rfl
@[simp] theorem dropLine_mem_rowRec (s : State) (l : Nat) : (dropLine s l).mem.rowRec = s.mem.rowRec := rfl
@[simp] theorem dropLine_mem_maps (s : State) (l : Nat) : (dropLine s l).mem.maps = s.mem.maps := rfl
@[simp] theorem dropLine_mem_wayOut (s : State) (l : Nat) : (dropLine s l).mem.wayOut = s.mem.wayOut := rfl
@[simp] theorem dropLine_mem_nextReq (s : State) (l : Nat) : (dropLine s l).mem.nextReq = s.mem.nextReq := rfl
@[simp] theorem dropLine_mem_ptr (s : State) (l : Nat) : (dropLine s l).mem.ptr = s.mem.ptr := rfl

end Sys2Proof.Laws
end

