-- ==== Sys2Proof/WellFormed.lean ====
section
/-! DEFINITION. Which operands a command may have: the ranges that the spec's numbering gives cores, slots,
rails, ports and so on. `exec` does not ask for it; it says which terms stand for commands at all. -/
namespace Sys2Proof

/-- A group of a core (R56) with an instruction of 1 to 16 bytes. -/
def Iss.wf (i : Iss) : Bool := i.core < 512 && i.slot < 32 && 0 < i.len && i.len ≤ 16
def Src.wf : Src → Bool
  | .reg r => r < 256
  | .imm _ => true
/-- Widths of R62 and registers of R56. -/
def LsArgs.wf (a : LsArgs) : Bool :=
  (a.width == 1 || a.width == 2 || a.width == 4 || a.width == 8 || a.width == 16) && a.addr < 256 && a.data < 256 &&
  !(a.store && a.space == .const) && a.cls.all (· < 4)
def AtomArgs.wf (a : AtomArgs) : Bool :=
  a.addr < 256 && a.src < 256 && a.cmp < 256 && a.space != .const && a.cls.all (· < 4) &&
  match a.kind with
  | .ret _ _ d => d < 256
  | .red _ _ => true
/-- The field ranges of Ledger sections 1 to 10 (R435). -/
def Defect.wf : Defect → Bool
  | .hbmRemap c pc sid bg bk row _ | .hbmUnrepaired c pc sid bg bk row =>
    c < 384 && pc < 2 && sid < 4 && bg < 4 && bk < 4 && row < 32768
  | .hbmChannelOut c => c < 384
  | .hbmPin c pc pin => c < 384 && pc < 2 && pin < 64
  | .gsRow sl _ _ => sl < 384
  | .gsWay sl way => sl < 384 && way < 16
  | .pole p st _ => p < 8192 && st < 5
  | .core t c ph => t < 8 && c < 8 && ph < 9
  | .domain i => i < 1020
  | .phase r ph => r < 84 && ph < 8
  | .sensor i => i < 1184
  | .sense r => r ≤ 104
  | .lateral e m _ w => e < 14 && m < 16 && w ≤ 64
  | .spanLane p _ w => p < 18 && w ≤ 8
/-- A sector has 36 symbols of 16 bits (R247). -/
def Sector.wf (f : Sector) : Bool := f.errs.all (fun e => e.1 < 36 && e.2 < 65536)
def RoleUnit.wf : RoleUnit → Bool
  | .core i => i < 512
  | .cluster i => i < 64
  | .plot t => t < 8
  | .port n => n < 18
def SpanIn.wf (m : SpanIn) : Bool :=
  m.port < 18 && m.msg.type < 16 && m.msg.dst < 1024 && m.msg.src < 1024 && m.msg.payload.length ≤ 4096
/-- A host page and its access width. -/
def doorbellWf (fn page : Nat) : Bool := fn ≤ 8 && page < 256

/-- The operands lie in the ranges of the spec's numbering. -/
def Instr.wf : Instr → Bool
  | .configurationRequestRetry fn | .d3hotEntry fn | .d0Return fn | .eventRingEnable fn _ | .eventRingDisable fn _ => fn ≤ 8
  | .senseOpen r => r ≤ 104
  | .phaseFail r ph _ => r < 84 && ph < 8
  | .droopDetect c _ | .stretchRelease c _ _ => c < 84
  | .domainPowerUp d _ | .domainGrantTimeout d _ | .domainRampDone d _ | .domainShutdownDone d => d < 1020
  | .domainGrant r _ => r < 104
  | .coreIdleOff c _ | .matrixOperationStart c | .matrixOperationEnd c | .bankDrain c | .splitArrival c
  | .combineRequest c _ | .sortRequest c | .attentionForward c | .attentionBackward c | .coreFaultReset c
  | .promotionReceipt _ c => c < 512
  | .sensorSuspect i _ => i < 1184
  | .combine k => k < 64
  | .haltTakesEffect c sl | .spinTimeout c sl => c < 512 && sl < 32
  | .sqTail fn page _ w _ | .cqHead fn page _ w _ => doorbellWf fn page && 0 < w
  | .ringEnable fn r _ | .ringDisable fn r _ => fn ≤ 8 && r < 256
  | .ringDisabled r | .descriptorAdmit r => r < 256
  | .evtHead fn _ _ | .w1cClear fn _ _ _ _ | .configurationWrite fn _ | .atsInvalidateRequest fn _ _ => fn ≤ 8
  | .teardownErase p | .teardownDone p => p < 8
  | .bar4Read fn _ len _ => fn ≤ 8 && 0 < len && len ≤ 4096
  | .bar4Write fn _ d _ _ => fn ≤ 8 && 0 < d.length && d.length ≤ 4096
  | .vfEnable n => n ≤ 8
  | .vfFlr v | .lockInterfaceRequest v | .startInterfaceRequest v | .stopInterfaceRequest v => 1 ≤ v && v ≤ 8
  | .msixUnmask fn v => fn ≤ 8 && v < 64
  | .keyImport _ p sl k => p < 8 && sl < 16 && k.length == 32
  | .keyDrop _ p sl => p < 8 && sl < 16
  | .branch a c _ _ k => a.wf && c < 256 && k.all (· < 256)
  | .indirectBranch a t _ k => a.wf && t < 256 && k.all (· < 256)
  | .exit a | .brk a | .fence a _ | .trap a _ => a.wf
  | .vectorInstruction a _ d srcs => a.wf && d < 256 && srcs.all Src.wf
  | .specialFunction a _ d x => a.wf && d < 256 && x.wf
  | .loadStore a l => a.wf && l.wf
  | .atomic a l => a.wf && l.wf
  | .xln a _ d f x y z n =>
    a.wf && d < 256 && f < 256 && x.wf && y.wf && z.wf && (n == 2 || n == 4 || n == 8 || n == 16 || n == 32)
  | .tally a _ d f x => a.wf && d < 256 && f < 256 && x.wf
  | .join a b n => a.wf && b < 16 && n ≤ 1024
  | .lockAcq a x | .lockRel a x => a.wf && x < 256
  | .mmaIssue a d x | .attIssue a d x => a.wf && d < 256 && x < 256
  | .mmaWait a t => a.wf && t < 256
  | .debugAttach m | .debugDetach m => m < 256
  | .sliceRequest sl _ | .reductionPerform sl | .memorySideAtomic sl _ _ => sl < 384
  | .fillArrival sl _ a b _ => sl < 384 && a.wf && b.wf
  | .rowRemap c _ l => c < 384 && l.all (fun e => e.2.wf)
  | .patrolScrub c _ _ f => c < 384 && f.wf
  | .refreshManagement c pc b _ => c < 384 && pc < 2 && b < 64
  | .hbmThermalRead k _ _ | .hbmErrorWindow k _ _ | .hiddenHeatExit k => k < 24
  | .poleBeatFail p l b => p < 8192 && b < 2 ^ 536 && l.all (· < 2 ^ 536)
  | .poleTest p _ => p < 8192
  | .plotMigration t => t < 8
  | .lateralModuleRetrain e m r w =>
    e < 14 && m < 16 && (w == 0 || ((w == 32 || w == 64) && ([32, 24, 16, 12, 8, 4] : List Nat).contains r))
  | .bucketAdmit k _ c => k < 6 && c < 4
  | .roleEpochIncrement u => u.wf
  | .spanPortEnable p | .spanPortDisable p | .spanSense p _ | .spanTrainTimeout p | .spanEqualisationDone p _ _
  | .spanLinkTest p _ | .spanSecureDone p _ _ _ _ | .spanDownRetry p | .spanRetrain p _ | .spanRetrainDone p _
  | .spanKeyUpdate p _ | .spanPortDrainDone p => p < 18
  | .spanFlitReceive p f => p < 18 && f.bytes.length == 256
  | .spanData m | .spanReady m | .spanReq m | .spanClear m | .spanDone m | .spanCounts m | .spanGo m | .spanAbort m
  | .spanNack m | .spanRelease m => m.wf
  | .entdaa a => a < 128
  | .ledgerCheck _ f => f.defects.all Defect.wf
  | .lowWordRead a o n _ => a < 1024 + 16 && (n = 4 || n = 8) && o % n = 0
  | .registerWrite a _ _ n _ => a < 1024 + 16 && 0 < n
  | .perstNRelease _ _ | .configSpaceReady | .conventionalReset _ | .linkTraining _ _ _ | .converterStart _ _
  | .converterStop _ _ | .inputStageOpen _ _ | .inputReconnect _ _ | .inputLowTimer _ _ | .powerAllocation _ _ _ _
  | .clockLoss | .sensorSample _ _ | .throttleTick | .thermalFloor | .thermalTrip _ | .tripRestart _ _ | .bondTempSample
  | .lifeLogWrite _ | .bootCtlLoad | .packageVerdict _ _ | .bootCtlStart | .startComplete _ | .startTimeout
  | .configCommit _ | .devCtlRepitch | .devCtlStrike | .sealCommit _ _ | .secMboxGo _ _ | .descriptorFetch _ | .nop _
  | .loadBundle _ _ | .unloadBundle _ | .launch _ | .setPlacement _ _ | .launchComplete _ | .launchTimeout _ | .copy _
  | .copySealed _ _ | .fill _ | .compare _ _ | .digest _ _ | .scrub _ _ | .chainOperationDone _ | .prefetch _ | .flush _
  | .invalidate _ | .declareDead _ | .declareDeadRetire _ | .plotMap _ | .plotUnmap _ | .tlbInvalidate _ | .allReduce _
  | .reduceScatter _ | .allGather _ | .allToAll _ | .spanSend _ | .spanRecv _ | .spanOperationTimeout _
  | .setPolicyGuard _ | .setPolicyGroundsheet _ | .semSignal _ | .semWait _ | .semWaitWake _ | .semWaitTimeout _
  | .queryPoleFailures _ | .queryPortLatency _ | .queryStaleRole _ | .queryHbmOut _ | .queryBondWear _
  | .eventRecordWrite _ | .vfDisable | .vfShutdownDone | .pfFlr | .hostReadCompletion _ _ | .hostCompletionTimeout _
  | .getMeasurements _ _ | .spdmRequest _ _ _ | .pqCert _ _ | .pqSig _ | .getLog _ _ _ | .chunkGet _ | .tallyUpdate _
  | .dbgHalt | .dbgHaltCore | .dbgStep _ | .dbgResume | .dbgResetCore | .dbgRegData _ | .dbgLsData _ | .spanBusyRetry _
  | .mctpMessage _ _ _ _ | .pldmRequest _ _ _ | .setStateEffecterStates _ _ _ | .fruRead _ _ | .guylineListenDone _ _ _
  | .claim _ _ _ | .disc _ _ | .sync _ _ _ _ | .beat _ _ | .grant _ _ _ | .glnBreak _ _ | .leave _ | .beatTimer
  | .syncTimer | .grantRound | .masterLost | .ringInLoss | .ringRecover | .grantTimeout _ | .pinCheck _ | .leakMeasure _
  | .pwrVminCtlClear | .alignmentMarker _ | .aux3v3Absent | .inputAbsentHoldRelease _ => true

end Sys2Proof
end

