-- ==== Sys2Proof/Tests/Slice0.lean ====
section
/-! SUPPORT. The model's own tests: ill-formed terms that WellFormed refuses, worked examples of the spec on single
commands, and for each statement a witness that meets the hypotheses of its clauses. -/
namespace Sys2Proof.Tests
open Sys2Proof.Machine Sys2Proof.Safety
-- One proof after another: side by side they need more memory than a check has.
set_option Elab.async false


/-! Small states. -/
/-- The state after reset with another device state, the host link's functions ready from PITCHING on. -/
def atSt (d : DevSt) : State :=
  let s := State.reset
  { s with dev := { s.dev with st := d }, link := { s.link with cfgReady := true } }
/-- OPEN with one partition, number 0, of all eight Tents with a code reserve of 256 MiB. -/
def openS : State :=
  let s := atSt .open_
  { s with dev := { s.dev with inService := true, locked := true, ptab := [(0x40000, 0x400FF#32)] }
           link := { s.link with memSpace := [0] } }
/-- OPEN with partitions 0 (Tents 0 to 3) and 1 (Tents 4 to 7), which is confidential; two virtual functions. -/
def twoS : State :=
  { openS with dev := { openS.dev with ptab := [(0x40000, 0x4000F#32), (0x41000, 0x401F0#32)] }
               link := { openS.link with numVfs := 2, memSpace := [0, 1, 2] } }
/-- A descriptor: its fields as offset, length and value. -/
def desc (fs : List (Nat × Nat × Nat)) : Bytes :=
  fs.foldl (fun d f => d.take f.1 ++ le f.2.1 f.2.2 ++ d.drop (f.1 + f.2.1)) (zeros 64)
/-- Ring 3 of partition 0 enabled by the PF, with its context 2, and one operation 7 admitted on it. -/
def opS (s : State) (fs : List (Nat × Nat × Nat)) (stage : Nat := 0) : State :=
  { s with rng := { s.rng with ring := [(3, { st := 1 })], nextOp := 8
                               ops := [{ id := 7, ring := 3, slot := 0, desc := desc fs, tick := 0, stage := stage }] }
           regs := { s.regs with w := tset s.regs.w (0x20010 + 0x40 * 3) 0x4#32 } }

theorem witness_StepRunsTheCommandInFront :
    (({ State.reset with pending := [.clockLoss] } : State).pending = .clockLoss :: []) ∧
    (openS.pending = [] ∧ openS.dev.st ≠ .stowed ∧ openS.dev.st ≠ .tripped) ∧
    (State.reset.pending = [] ∧ (State.reset.dev.st = .stowed ∨ State.reset.dev.st = .tripped)) := by
  exact ⟨by decide, by decide, by decide⟩


theorem witness_MemoryKeepsItsCanonicalForm :
    (Memory.wf openS = true) := by
  decide


theorem witness_AntiRollbackNeverFalls :
    (idRec State.reset ≠ none) := by
  decide


theorem witness_ThrottleAndLeakStayInRange :
    (openS.thm.level ≤ 64 ∧ openS.thm.phase < 4 ∧ openS.thm.leakRun.length ≤ 3) := by
  decide


/-! A context: 0 of partition 0, its root in a cached line with a leaf to HBM3E, one to the host, one to the registers, one to
the Plots, an entry that is not valid, a read-only leaf and one that reaches the code reserve. -/
def cached (line : Nat) (d : Bytes) : CLine :=
  { slice := sliceAt line, set := setAt line, way := 0, line, data := pad d 128, dirty := true, pois := 0, ref := false }
def mapped (s : State) : State :=
  { s with
    regs := { s.regs with w := tset (tset s.regs.w 0x40024 0x20000#32) 0x40028 0xC0000008#32 }
    mem := { s.mem with lines := [cached 0x20000000 (le 8 0x40000007 ++ le 8 0x8000000F ++ le 8 0xF0000000007 ++
      le 8 0x80000000007 ++ le 8 0 ++ le 8 0xC0000003 ++ le 8 0x7)] } }
/-- Launch 7 of partition 0 with one set of one group on core 0, its bundle in the code reserve, its core powered. -/
def theLaunch : Launch :=
  { op := 7, part := 0, ctx := 0, cls := 1, bundle := 1, grid := (1, 1, 1), split := 0, haltEntry := false, arg := 0, seed := 0
    entry := { code := 0, regs := 16, groups := 1, barriers := 2, sharedLs := 0, groupLs := 1024, formats := 0, accBanks := 1, uses := 0 }
    dynLs := 0, spin := 100, maxCores := 0, timeout := 0, next := 1, cores := [0] }
def theSet : GSet := { launch := 7, idx := 0, slots := [0], lsBase := 0, lsLen := 1024, shared := 0, banks := [0] }
def theGrp : Grp := { launch := 7, set := 0, idx := 0, pc := 0 }
def theCore : Core := { grps := [(0, theGrp)], sets := [theSet] }
def coreS (c : Core) : State :=
  let s := mapped (opS openS [(0, 1, 4)])
  { s with pwr := { s.pwr with doms := [(0, { st := 2 })] }
           krn := { s.krn with launches := [theLaunch], cores := [(0, c)]
                               bundles := [{ handle := 1, part := 0, base := 0, len := 4096, codeOff := 0, codeLen := 4096, roOff := 0, roLen := 0, entries := [] }] } }
def grpS (g : Grp) : State := coreS { theCore with grps := [(0, g)] }
/-- A debugger is attached to partition 0. -/
def debugged (s : State) : State := { s with dbg := { s.dbg with attach := 1 } }
def iss : Iss := { core := 0, slot := 0, len := 16 }

theorem witness_TranslationStaysInThePartition :
    (bit (ctxCfg openS 0) 31 = false ∨ 2 ^ 48 ≤ 0 ∨ bits (ctxCfg openS 0) 0 19 ≤ 0 / 2 ^ 30) ∧
    (bit (ctxCfg (mapped openS) 0) 31 = false ∨ 2 ^ 48 ≤ 8 * 2 ^ 30 ∨ bits (ctxCfg (mapped openS) 0) 0 19 ≤ 8 * 2 ^ 30 / 2 ^ 30) ∧
    (translate (mapped openS) 0 0x3FFFFFFF true = .pa 0x7FFFFFFF) ∧
    (translate (mapped openS) 0 0x1234 false = .pa 0x40001234 ∧ 0x1234 / 65536 = 0xFFFF / 65536) ∧
    (translate (mapped openS) 0 0x80000010 true = .regs 0x10) ∧
    (readEntry (mapped openS) 0 (0x20000000 + 8 * bits 0x100000000 30 18) = some 0 ∧ bit 0 0 = false) ∧
    (ctxOk (mapped openS) 0 0x40000123 = true ∧ readEntry (mapped openS) (ctxKeyPart (mapped openS) 0)
        (ctxRoot (mapped openS) 0 + 8 * bits 0x40000123 30 18) = some 0x8000000F ∧ bit 0x8000000F 0 = true ∧ bit 0x8000000F 1 = true ∧
        entryBad 0x8000000F true = false ∧ entryAddr 0x8000000F % 2 ^ 30 = 0 ∧ bit 0x8000000F 3 = true ∧ bit 0x8000000F 2 = true) := by
  and_intros <;> decide +kernel


theorem witness_RoundingTakesTheNearestEven :
    (fe4m3 ∈ floatFormats ∧ 0 < 17 ∧ 0 < 1 ∧ rne (gridF fe4m3 17 1) = 0x58 ∧ 0x58 ≤ fe4m3.maxCode ∧ 0x59 ≤ fe4m3.maxCode ∧
        offBy fe4m3 17 1 0x58 * (decodeF fe4m3 0x59).frac.2 = offBy fe4m3 17 1 0x59 * (decodeF fe4m3 0x58).frac.2) ∧
    (rne (5 / 2, 5 % 2, 2) = 2 ∧ ((5 : Int) - (2 * 2 : Nat)).natAbs = ((5 : Int) - (3 * 2 : Nat)).natAbs) ∧
    (rne (gridF fe4m3 (Num.fin true 300 0).frac.1 (Num.fin true 300 0).frac.2) = 0x79 ∧ 0x79 ≤ fe4m3.maxCode) := by
  exact ⟨by decide, by decide, by decide⟩


theorem witness_FormatsConvertAndRoundTrip :
    (∀ f ∈ [ffp32, fbf16, ffp16, fe4m3, fe5m2, fe3m2, fe2m3, fe2m1], f.maxCode < 2 ^ f.w ∧ f.maxCode % 2 ^ (f.eb + f.mb) ≤ f.maxCode) ∧
    ((List.replicate 64 2).length = 64 ∧ ∀ x ∈ List.replicate 64 2, x < 3) ∧
    (∃ q : Quant, q = quantMx 9 (fun _ => {}) ([0x40E66666#32, 0x40A00000#32, 0x40266666#32, 0xBE99999A#32, 0x3E4CCCCD#32].map ofFp32 ++
          List.replicate 27 (ofFp32 0#32))) := by
  exact ⟨by decide, by decide, by exact ⟨_, rfl⟩⟩


theorem witness_Int32AccumulatorsAddExactlyAndSaturate :
    ((0x7FFFFFFE#32) ≠ 0x7FFFFFFF#32 ∧ (0x7FFFFFFE#32) ≠ 0x80000000#32) ∧
    ((0x80 : Nat) < 256) ∧
    ([0x80, 0x7F].length = [0x80, 0x80].length ∧ [0x80, 0x7F].length ≤ 131071 ∧ suml [1, 1] = [0x80, 0x7F].length ∧
        (∀ a ∈ [0x80, 0x7F], a < 256) ∧ (∀ b ∈ [0x80, 0x80], b < 256)) := by
  exact ⟨by decide, by decide, by decide⟩


theorem witness_TrapAndBreakpointInstructions :
    (Issues (grpS theGrp) iss [] theLaunch theSet theGrp ∧ (attached (grpS theGrp) theLaunch.part = false ∧ theLaunch.trap = none ∧
        posting (grpS theGrp) = true ∧ iss.core ∉ theLaunch.trapped)) ∧
    (Issues (debugged (grpS theGrp)) iss [] theLaunch theSet theGrp ∧ attached (debugged (grpS theGrp)) theLaunch.part = true) := by
  exact ⟨by exact ⟨⟨by decide +kernel, by decide +kernel⟩, by decide +kernel⟩,
    by exact ⟨⟨by decide +kernel, by decide +kernel⟩, by decide +kernel⟩⟩


/-! Power and temperature. -/
def withPwr (s : State) (p : Pwr) : State := { s with pwr := p }
def stowedS (p : Pwr) : State := withPwr State.reset p
def openP (p : Pwr) : State := withPwr openS p
def coolP : Pwr := { railMv := [(0, 800)] }

theorem witness_InputRailsAndDroop :
    ((stowedS { running := false }).dev.st = .stowed ∧ (stowedS { running := false }).pwr.running = false ∧
        (stowedS { running := false }).pwr.opened = false ∧
        (stowedS { running := false }).pwr.tripOff = false ∧ (stowedS { running := false }).pwr.holdOff = false ∧ (40000 : Int) ≤ 40000 ∧
            (40000 : Int) ≤ 60000 ∧ 10000 ≤ 10000) ∧
    ((-60000 : Int) ≤ 39999 ∧ (39999 : Int) ≤ 80000 ∧ ((39999 : Int) < 40000 ∨ 60000 < (39999 : Int))) ∧
    ((stowedS { running := false, opened := true }).pwr.opened = true ∧ (-60000 : Int) ≤ 59999 ∧ (59999 : Int) < 60000 ∧ 100000 ≤ 100000) ∧
    (openS.pwr.running = true ∧ openS.pwr.lowPosted = false ∧ (38000 : Int) ≤ 38000 ∧ (38000 : Int) ≤ 42000 ∧ 100000 < 100001) ∧
    (openS.pwr.running = true ∧ (-60000 : Int) ≤ 37999 ∧ (37999 : Int) ≤ 80000 ∧ (37999 : Int) < 38000 ∧ 1000 ≤ 1000) ∧
    (openS.pwr.running = true ∧ (-60000 : Int) ≤ 61001 ∧ (61001 : Int) ≤ 80000 ∧ (61000 : Int) < 61001 ∧ 10 ≤ 10 ∧ openS.pwr.opened = false) ∧
    (openS.dev.st ≠ .stowed ∧ openS.dev.st ≠ .tripped ∧ 84 ≤ 104 ∧ 104 ≤ 104 ∧ 104 ∉ openS.pwr.localSense) ∧
    (openS.dev.st ≠ .stowed ∧ openS.dev.st ≠ .tripped ∧ 0 < railPhases 0 ∧ 150 < 151 ∧ 16 * 0 + 0 ∉ openS.pwr.phaseBad ∧ 0 ∉ openS.pwr.railOff ∧
        phasesBad (openP { phaseBad := sadd openS.pwr.phaseBad (16 * 0 + 0) }) 0 ≤ phaseLimit 0) ∧
    ((openP { phaseBad := [1280] }).dev.st ≠ .stowed ∧ (openP { phaseBad := [1280] }).dev.st ≠ .tripped ∧ 3 < 4 ∧ 10 ≤ 10 ∧
        1280 + 3 ∉ (openP { phaseBad := [1280] }).pwr.phaseBad ∧ 80 ∉ (openP { phaseBad := [1280] }).pwr.railOff ∧
            1 ≤ phasesBad (openP { phaseBad := [1280] }) 80 ∧
        (openP { phaseBad := [1280] }).pwr.aux = true) ∧
    ((openP coolP).dev.st ≠ .stowed ∧ (openP coolP).dev.st ≠ .tripped ∧ 0 < 64 ∧
        ((769 : Nat) : Int) < (setpoint (openP coolP) 0 : Int) - (droopMv (openP coolP) : Int)) ∧
    (tget (openP { coolP with droop := [(0, 6)] }).pwr.droop 4 0 = 6 ∧ 0 ∉ (openP { coolP with droop := [(0, 6)] }).pwr.stepping ∧ 32 ≤ 32 ∧
        (setpoint (openP { coolP with droop := [(0, 6)] }) 0 : Int) - (droopMv (openP { coolP with droop := [(0, 6)] }) : Int) + 10 < ((781 : Nat) : Int)) ∧
    (tget (openP { coolP with droop := [(0, 5)], stepping := [0] }).pwr.droop 4 0 = 5 ∧
        0 ∈ (openP { coolP with droop := [(0, 5)], stepping := [0] }).pwr.stepping ∧ 16 ≤ 16) := by
  and_intros <;> decide


theorem witness_OnlyOverStressStops :
    (exec (.converterStart 80001 0) State.reset matches .fault .overStress) ∧
    (∃ t, exec .clockLoss State.reset = .next t) := by
  exact ⟨by decide, by exact ⟨_, rfl⟩⟩


theorem witness_AllocationKeepsEveryLimit :
    (openS.dev.st ≠ .stowed ∧ openS.dev.st ≠ .tripped ∧ 80000 ≤ 80000) ∧
    (arbPeriod 10000 1000 11000 = (4445, false) ∧ 4000 < 4445) := by
  exact ⟨by decide, by decide⟩


theorem witness_DomainsPowerUpAndDown :
    ((withPwr (coreS theCore) { doms := [(512, { st := 2 })] }).dev.st ≠ .stowed ∧
        (withPwr (coreS theCore) { doms := [(512, { st := 2 })] }).dev.st ≠ .tripped ∧
        wanted (withPwr (coreS theCore) { doms := [(512, { st := 2 })] }) 0 = true ∧
            domRail 0 ∉ (withPwr (coreS theCore) { doms := [(512, { st := 2 })] }).pwr.railOff ∧
        domBad (withPwr (coreS theCore) { doms := [(512, { st := 2 })] }) 0 = false ∧
            (domOf (withPwr (coreS theCore) { doms := [(512, { st := 2 })] }) 0).st = 0 ∧
        0 ∉ (withPwr (coreS theCore) { doms := [(512, { st := 2 })] }).pwr.wait ∧
            ramping (withPwr (coreS theCore) { doms := [(512, { st := 2 })] }) (domRail 0) = false ∧
        0 + domInrush 0 ≤ railLimit (withPwr (coreS theCore) { doms := [(512, { st := 2 })] }) (domRail 0) ∧
        railLimit (withPwr (coreS theCore) { doms := [(512, { st := 2 })] }) (domRail 0) < 1000000 + domInrush 0) ∧
    (nextWaiting (openP { wait := [1019] }) (domRail 1019) = some 1019 ∧ ramping (openP { wait := [1019] }) (domRail 1019) = false ∧
        0 + domInrush 1019 ≤ railLimit (openP { wait := [1019] }) (domRail 1019)) ∧
    (512 ∈ (openP { wait := [512] }).pwr.wait ∧ domRail 512 < 64 ∧ ramping (openP { wait := [512] }) (domRail 512) = false ∧
        0 + domInrush 512 ≤ railLimit (openP { wait := [512] }) (domRail 512)) ∧
    ((domOf (openP { doms := [(512, { st := 1 })] }) 512).st = 1 ∧ domRail 512 ∉ (openP { doms := [(512, { st := 1 })] }).pwr.ramp6 ∧ 512 ≤ 512 ∧
        95 ≤ 95) ∧
    ((coreOf openS 3).sets = [] ∧ idleUs openS ≠ 0 ∧ idleUs openS ≤ 100 ∧ (domOf (openP { doms := [(3, { st := 2 })] }) 3).st = 2) ∧
    ((domOf (openP { doms := [(576, { st := 3, pend := true })] }) 576).st = 3 ∧ 576 ≤ 576) ∧
    ((domOf (openP { doms := [(512, { st := 3, pend := true })] }) 512).st = 3 ∧ 512 ≤ 512 ∧ 512 < 576) ∧
    ((domOf (openP { doms := [(0, { st := 3 })] }) 0).st = 3 ∧ 0 < 512) := by
  and_intros <;> decide


theorem witness_HostLinkComesUpAndGoesDown :
    (State.reset.dev.st = .stowed ∧ State.reset.pwr.running = true) ∧
    ((atSt .pitching).dev.st = .pitching ∧ ({ atSt .pitching with link := {} } : State).link.cfgReady = false) ∧
    (openS.dev.st ≠ .stowed ∧ openS.dev.st ≠ .tripped ∧ 1280 ∈ [25, 50, 80, 160, 320, 640, 1280] ∧ 16 ∈ [1, 2, 4, 8, 16]) ∧
    (({ openS with link := { openS.link with up := true, flit := true, width := 16 } } : State).link.up = true ∧
        ({ openS with link := { openS.link with up := true, flit := true, width := 16 } } : State).link.flit = true ∧ 4 ≤ 16) ∧
    ((ConvReset.perst = .perst ∨ State.reset.link.up = true) ∧
        (ConvReset.hot = .perst ∨ ({ openS with link := { openS.link with up := true } } : State).link.up = true)) := by
  and_intros <;> decide


theorem witness_ThermalSensingThrottleAndTrip :
    (openS.dev.st ≠ .stowed ∧ openS.dev.st ≠ .tripped ∧ (280 : Int) ≤ 280) ∧
    (({ openS with thm := { temp := [(0, 65)] } } : State).dev.st ≠ .stowed ∧
        ({ openS with thm := { temp := [(0, 65)] } } : State).dev.st ≠ .tripped ∧ 0 < 1184 ∧ 100000 < 100001 ∧
        0 ∉ ({ openS with thm := { temp := [(0, 65)] } } : State).thm.excl ∧ outlier { openS with thm := { temp := [(0, 65)] } } 0 = true) ∧
    (openS.pwr.aux = true ∧ (460 : Int) < 461 ∧ (460 : Int) < 461) ∧
    ((stowedS { running := false, tripOff := true }).pwr.tripOff = true ∧
        ({ stowedS { running := false, tripOff := true } with dev := { st := .tripped } } : State).dev.st = .tripped ∧
        (stowedS { running := false, tripOff := true }).pwr.aux = true ∧ (stowedS { running := false, tripOff := true }).pwr.holdOff = false ∧
            60 ≤ 60 ∧ (220 : Int) ≤ 220) := by
  exact ⟨by decide, by decide, by decide, by decide⟩


def bootS (b : Boot) : State := { atSt .pitching with boot := b }
def noFind : Findings := { defects := [], railMv := [], vestibule0Ok := true, storeOk := true }

/-- A warm start's Ledger: rows 23 of 64 are next; an HBM3E row, a Groundsheet row and a Pole's wire are listed. -/
def warmL : LedgerAcc :=
  { gen := 1, svn := 0, sealTime := 0, logIndex := 0, rotation := 23, digest := []
    secs := { fixed := [(2, [defEntry (.hbmUnrepaired 2 0 0 0 0 100)]), (4, [defEntry (.gsRow 5 40 0)]), (6, defEntries (.pole 3 1 [7]))] } }
/-- A Ledger with one empty section, and a device whose Identity Store names it. -/
def ledgerB : Bytes := ledgerBytes {} 1 0 0 0 0
def ledgerS (n : Nat) : State :=
  let s := bootS { phase := 3 }
  { s with regs := { w := [(0x1001C, BitVec.ofNat 32 n)] }, trust := { s.trust with copyA := { gen := 1, digest := Config.shake256 ledgerB } } }
theorem ledger_accepted : ∃ b l, ledgerVerdict (ledgerS 144) b = .inr l := by
  have h1 : ledgerParse ledgerB (ldgLen (ledgerS 144)) = some { fixed := [(1, [])] } := by decide +kernel
  have h2 : ledgerTag (ledgerB.take (ledgerB.length - 64)) = ledgerB.drop (ledgerB.length - 64) := by
    obtain ⟨x, hx⟩ : ∃ x, ledgerB = x ++ ledgerTag x := ⟨_, rfl⟩
    have hl : (ledgerTag x).length = 64 := by simp [ledgerTag, Config.kmac256]
    rw [hx, List.length_append, hl, Nat.add_sub_cancel, List.take_left, List.drop_left]
  have h3 : slice ledgerB 24 16 = pad Config.serial 16 := rfl
  have h4 : fld ledgerB 8 8 = (idCur (ledgerS 144)).gen := by decide +kernel
  have h5 : Config.shake256 ledgerB = (idCur (ledgerS 144)).digest := rfl
  refine ⟨ledgerB, ?_⟩
  simp only [ledgerVerdict, h1, h2, h3, h4, h5, bne_self_eq_false, Bool.or_self, Bool.false_eq_true, if_false]
  exact ⟨_, rfl⟩

theorem witness_StartPhasesAdvance :
    ((atSt .pitching).dev.st = .pitching ∧ (atSt .pitching).link.cfgReady = true ∧
        ((bootS { phase := 2 }).boot.phase = 0 ∨ (bootS { phase := 2 }).boot.phase = 2)) ∧
    ((bootS { phase := 3 }).boot.phase ≠ 0 ∧ (bootS { phase := 3 }).boot.phase ≠ 2 ∧ (bootS { phase := 3 }).dev.st = .pitching ∧
        ((bootS { phase := 3 }).boot.phase = 3 ∨ (bootS { phase := 3 }).boot.phase = 4) ∧ (bootS { phase := 1 }).dev.st = .pitching ∧
            (bootS { phase := 1 }).boot.phase = 1) ∧
    ((bootS { phase := 3 }).dev.st = .pitching ∧ (bootS { phase := 3 }).boot.phase = 3 ∧ ldgLen (bootS { phase := 3 }) = 0 ∧ noFind.storeOk = true ∧
        ({ noFind with storeOk := false } : Findings).storeOk = false) ∧
    ((∃ r, ledgerVerdict (ledgerS 144) [] = .inl r) ∧ ∃ b l, ledgerVerdict (ledgerS 144) b = .inr l) ∧
    ((ledgerS 144).dev.st = .pitching ∧ (ledgerS 144).boot.phase = 3 ∧ ldgLen (ledgerS 144) = 144) ∧
    ((bootS { phase := 3 }).dev.st = .pitching ∧ ldgLen { bootS { phase := 3 } with regs := { w := [(0x1001C, 192#32)] } } ≠ 0) ∧
    ((bootS { phase := 4, found := some noFind }).dev.st = .pitching ∧ (bootS { phase := 4, found := some noFind }).boot.phase = 4 ∧
        (bootS { phase := 4, found := some noFind }).boot.found = some noFind ∧ 360000 ≤ startBound (bootS { phase := 4, found := some noFind }) ∧
            noFind.vestibule0Ok = true ∧
        phasesBad (trainEdges (startPoles (setRails (loadRepairs (addFindings (bootS { phase := 4, found := some noFind }) noFind.defects)) noFind)) noFind.defects) 80 ≤ 1 ∧
        (declare (trainEdges (startPoles (setRails (loadRepairs (addFindings (bootS { phase := 4, found := some noFind }) noFind.defects)) noFind)) noFind.defects)).dev.usable ≠ 0 ∧
        startBound (bootS { phase := 4, found := some noFind }) < 360001) ∧
    ((bootS { kind := 2, ledger := some warmL }).boot.kind = 2 ∧ (bootS { kind := 2, ledger := some warmL }).boot.ledger = some warmL ∧
        24 % 16 ≠ warmL.rotation % 16 ∧
        (∀ e ∈ secOf warmL.secs 4, ¬ (e % 65536 = 5 ∧ bits e 16 16 = 24)) ∧ (bootS { kind := 1 }).boot.kind ≠ 2) := by
  and_intros <;> first | decide +kernel | (first | exact ⟨9, rfl⟩ | exact ledger_accepted) | rfl | (intro _; rfl)


/-! A configuration that a commit accepts: partition 0 of all Tents, BAR4 at 1 GiB and the semaphores at 512 MiB. -/
def setUp : State :=
  { atSt .pitched with dev := { st := .pitched, usable := 255, declWays := (List.range 8).map (fun t => (t, 14)) }
                       regs := { w := [(0x40000, 0x400FF#32), (0x40008, 1#32), (0x4000C, 0x20000#32)] } }
def commitBytes (c : Nat) : Bytes := (le 1 0x3F ++ zeros 15) ++ (le 8 1 ++ (le 4 c ++ zeros 36))
def commitOf (c : Nat) : Op := { id := 7, ring := 3, slot := 0, desc := commitBytes c, tick := 0 }
def commitS : State :=
  { setUp with rng := { ops := [commitOf (crc32c (cfgImage setUp)).toNat], ring := [(3, { st := 1 })], nextOp := 8 }
               dev := { setUp.dev with commitOp := some 7 } }
theorem commitOf_crc (c : Nat) (h : c < 2 ^ 32) : (commitOf c).f 24 4 = c := by
  have e : commitBytes c = (le 1 0x3F ++ zeros 15 ++ le 8 1) ++ (le 4 c ++ zeros 36) := by simp [commitBytes, List.append_assoc]
  rw [Op.f, commitOf, e, fld_mid _ _ _ _ 24 (by simp)]
  exact Nat.mod_eq_of_lt (by omega)
theorem commitOf_gen (c : Nat) : (commitOf c).f 16 8 = 1 := by
  rw [Op.f, commitOf, commitBytes, fld_mid _ _ _ _ 16 (by simp), Nat.mod_eq_of_lt (by decide)]
theorem commitOf_code (c : Nat) : (commitOf c).code = 0x3F := by
  have e : commitBytes c = [] ++ (le 1 0x3F ++ (zeros 15 ++ (le 8 1 ++ (le 4 c ++ zeros 36)))) := by simp [commitBytes]
  rw [Op.code, commitOf, e, fld_mid _ _ _ _ 0 rfl, Nat.mod_eq_of_lt (by decide)]
theorem commitOf_zeros (c : Nat) : allZero (slice (commitOf c).desc 28 36) = true := by
  have e : commitBytes c = (le 1 0x3F ++ zeros 15 ++ le 8 1 ++ le 4 c) ++ (zeros 36 ++ []) := by
    simp [commitBytes, List.append_assoc]
  have k := slice_mid (le 1 0x3F ++ zeros 15 ++ le 8 1 ++ le 4 c) (zeros 36) []
  rw [← e] at k
  simp only [List.length_append, le_length, zeros_length] at k
  rw [commitOf, k]; rfl
theorem cfgImage_regs {s t : State} (h : s.regs = t.regs) : cfgImage s = cfgImage t := by
  simp only [cfgImage, rwlVal, rawReg, h]
theorem commit_accepted (c : Nat) (hc : c = (crc32c (cfgImage setUp)).toNat) : commitBad commitS (commitOf c) = none := by
  have h1 : commitS.dev.st = .pitched := rfl
  have h2 : commitS.dev.commitGen = 0 := rfl
  have h3 : (rwlList.flatMap (badRange commitS)).head? = none := by decide +kernel
  have h4 : (badRelations commitS).head? = none := by decide +kernel
  have h5 : cfgImage commitS = cfgImage setUp := cfgImage_regs rfl
  have h6 : c < 2 ^ 32 := by have := (crc32c (cfgImage setUp)).isLt; omega
  simp [commitBad, commitOf_zeros, commitOf_crc c h6, commitOf_gen, h1, h2, h3, h4, h5, ← hc]

theorem commit_moves : moveSoon commitS = false := by decide +kernel

theorem witness_ConfigurationAndDeviceControl :
    (∃ o, opOf commitS 7 = some o ∧ o.code = 0x3F ∧ commitS.dev.commitOp = some 7 ∧ commitS.dev.strikeWaits = false ∧
        commitBad commitS o = none) ∧
    (opOf { opS (atSt .pitched) [(0, 1, 0x3F)] with dev := { (atSt .pitched).dev with commitOp := some 7 } } 7 =
          some { id := 7, ring := 3, slot := 0, desc := desc [(0, 1, 0x3F)], tick := 0 } ∧
        commitBad { opS (atSt .pitched) [(0, 1, 0x3F)] with dev := { (atSt .pitched).dev with commitOp := some 7 } }
          { id := 7, ring := 3, slot := 0, desc := desc [(0, 1, 0x3F)], tick := 0 } = some { status := 3, off := 0xFFFFFFFF, lsb := 1 }) ∧
    (moveSoon commitS = false ∧
        moveSoon { commitS with dev := { commitS.dev with ptab := twoS.dev.ptab }, fab := { commitS.fab with epoch := (List.range 594).map (fun u => (u, { last := some 0 })) } } = true) ∧
    (openS.dev.st = .open_ ∧ openS.dev.repitch = false ∧ openS.dev.fatal = false ∧ (openS.dev.st = .pitched ∨ openS.dev.st = .open_) ∧
        (rawReg openS 0x10028 0 0 + 2 ^ 32 * rawReg openS 0x1002C 0 0 = 0)) ∧
    (rawReg { openS with regs := { w := [(0x10028, 64#32), (0x10030, 8388608#32)] } } 0x10028 0 0 + 2 ^ 32 * rawReg { openS with regs := { w := [(0x10028, 64#32), (0x10030, 8388608#32)] } } 0x1002C 0 0 = 64 ∧
        64 % 64 = 0 ∧ 8388608 ≤ rawReg { openS with regs := { w := [(0x10028, 64#32), (0x10030, 8388608#32)] } } 0x10030 0 0 ∧
        ({ openS with dev := { openS.dev with commitOp := some 7 } } : State).dev.commitOp.isSome = true ∧ openS.dev.commitOp = none) ∧
    (({ atSt .striking with boot := { sealing := some (1, []) } } : State).dev.st = .striking ∧
        ({ atSt .striking with boot := { sealing := some (1, []) } } : State).boot.sealing = some (1, [])) ∧
    (rawReg { openS with regs := { w := [(0xB0008, 7422#32)] } } 0xB0008 0 0 = 7422) := by
  and_intros <;> first | decide +kernel | (exact ⟨_, rfl, commitOf_code _, rfl, rfl, commit_accepted _ rfl⟩) | (exact commit_moves) | rfl | (intro _; rfl)


/-! HBM3E, Poles and buckets. -/
def hbmS (h : Hbm) : State := { openS with hbm := h }
def fabS (f : Fab) : State := { openS with fab := f }
def aReq (line : Nat) (act : MemDo) : MemReq := { id := 1, src := .core 0, cls := 1, line, act }
/-- An empty beat with VALID set and SEQ 0, its CRC worked out by hand from R230. -/
def goodBeat : PoleBeat := 2 ^ 528 + 2 ^ 512 * 0xf809
def bktS : State := fabS { bkt := [(portKey 0 3 1, { tok := 100000, at_ := 0, held := [.mem (aReq 0 .read)] })] }

theorem witness_HbmPolesAndBuckets :
    ((hbmS { chans := [(5, { corr := [(77, 8)], remap := [(3, 0)] })] }).dev.st ≠ .stowed ∧ (hbmS {}).dev.st ≠ .tripped ∧
        8 ≤ tget (chanOf (hbmS { chans := [(5, { corr := [(77, 8)], remap := [(3, 0)] })] }) 5).corr 0 77 ∧
        77 ∉ (chanOf (hbmS { chans := [(5, { corr := [(77, 8)], remap := [(3, 0)] })] }) 5).unrep ∧ 1 < 1572 ∧
            1 ∉ (chanOf (hbmS { chans := [(5, { corr := [(77, 8)], remap := [(3, 0)] })] }) 5).remap.map (·.2) ∧
        (∀ j < 1, j ∈ (chanOf (hbmS { chans := [(5, { corr := [(77, 8)], remap := [(3, 0)] })] }) 5).remap.map (·.2))) ∧
    (∃ all n, all = tget (chanOf openS 5).raa 0 66 + tget (chanOf openS 5).held 0 66 + 7 ∧ n = Nat.min all (Config.raaMax (5 / 16))) ∧
    (openS.dev.st ≠ .stowed ∧ openS.dev.st ≠ .tripped ∧ (104 : Int) < 105 ∧ (105 : Int) ≤ 105 ∧ openS.pwr.aux = true) ∧
    ((stackOf { hbmS { stk := [(3, { hidden := true, clearAt := some 0 })] } with tick := 1000000000 } 3).hidden = true ∧
        (stackOf { hbmS { stk := [(3, { hidden := true, clearAt := some 0 })] } with tick := 1000000000 } 3).clearAt = some 0 ∧
            0 + 1000000000 ≤ 1000000000) ∧
    (Memory.wf openS = true ∧ (∀ l ∈ rowLines 5 77, tfind openS.mem.flaw (l / 64) = none ∧ tfind openS.mem.flaw (l / 64 + 1) = none)) ∧
    (openS.dev.st ≠ .stowed ∧ openS.dev.st ≠ .tripped ∧ lineAt 0 0 + 64 = lineAt 0 0 + 64 * (1 % 2) ∧ outOfService openS 64 = false ∧
        sectorVerdict openS 64 {} = .clean [] ∧
        sectorVerdict openS 64 { errs := [(3, 5)] } = .corrected [] false) ∧
    (sectorVerdict openS 64 { parity := 4 } = .uncorrectable ∧ resident openS (lineOf 64) = none) ∧
    ((Machine.poleOf openS 5).st < 3 ∧ beatValid 0 = false ∧ beatValid (2 ^ 528) = true ∧ beatOk (Machine.poleOf openS 5) (2 ^ 528) = false) ∧
    (beatValid goodBeat = true ∧ beatOk (Machine.poleOf openS 5) goodBeat = true ∧ (Machine.poleOf openS 5).discard = false) ∧
    (nextTest (fabS { testq := [5] }) (5 / 1024) = some 5 ∧ (Machine.poleOf (fabS { testq := [5] }) 5).st < 4 ∧
        (Machine.poleOf (fabS { testq := [5] }) (buddy 5)).st ≠ 3 ∧ buddy 5 ≠ 5) ∧
    (8 ∈ (fabS { migrate := [8], cut := [8] }).fab.migrate ∧ 8 / 8 = 1) ∧
    ((openS.dev.st = .pitched ∨ openS.dev.st = .open_) ∧ 7 < edgeModules 13 ∧ edgeUp openS 13 = true ∧ (moduleOf openS 13 7).2 ≠ 0) ∧
    (tfind bktS.fab.bkt (portKey 0 3 1) = some { tok := 100000, at_ := 0, held := [.mem (aReq 0 .read)] } ∧
        64 * reqBytes bktS (aReq 0 .read) ≤ refill { tok := 100000, at_ := 0, held := [.mem (aReq 0 .read)] } (bktCfg bktS (keyPart bktS (portKey 0 3 1)) 0 1) bktS.tick) := by
  and_intros <;> first | decide +kernel | (exact ⟨_, _, rfl, rfl⟩) | rfl | (intro _; rfl)


def mgtS (m : Mgt) : State := { openS with mgt := m }

theorem witness_ManagementAndModuleChecks :
    (posting openS = true ∧ openS.mgt.i3c = none ∧ (mgtS { i3c := some 9 }).mgt.i3c ≠ none) ∧
    ((0 = 0 ∧ (mgtS { i3c := some 9 }).mgt.i3c.isSome = true) ∧ (1 = 1 ∧ openS.link.cfgReady = true) ∧
        (List.replicate 4096 (0 : Byte)).length ≤ 4096 ∧ 4096 < (List.replicate 4097 (0 : Byte)).length) ∧
    ((MctpType.pldm, 1) ∈ [(MctpType.pldm, 1), (MctpType.spdm, 5)] ∧ (2 * 3 + 1, 1) ∈ (mgtS { inflight := [(7, 1)] }).mgt.inflight ∧
        (2 * 3 + 1, 5) ∉ (mgtS { inflight := [(7, 1)] }).mgt.inflight) ∧
    ((mgtS { inflight := [(7, 1)] }).mgt.inflight = (2 * 3 + 1, 1) :: [] ∧ 1 < 2 ∧ (2 * 3 + 1, 1) ∉ ([] : List (Nat × Nat)) ∧
        posting (mgtS { inflight := [(7, 1)] }) = true ∧ fld [6#8, 0#8] 0 2 = 6) ∧
    (posting { mgtS { inflight := [(7, 1)] } with dev := { st := .pitching } } = false ∧
        ({ mgtS { inflight := [(7, 1)] } with dev := { st := .pitching } } : State).dev.st = .pitching) ∧
    (posting openS = true ∧ 4 < 5 ∧ openS.pwr.aux = true ∧ (openP { aux := false }).pwr.aux = false) ∧
    (PinShort.toGnd ≠ .ok ∧ 3 < 11 ∧ 3 ∉ openS.mgt.pins ∧ 4 ≠ 3 ∧ 4 ∈ (mgtS { pins := [4] }).mgt.pins) ∧
    (({ openS with thm := { leakRun := [0, 0] } } : State).thm.leakRun = [leakClass 7000, leakClass 7000] ∧
        leakClass 7000 ≠ ({ openS with thm := { leakRun := [0, 0] } } : State).thm.leak) ∧
    (({ openS with thm := { leakRun := [0, 0] } } : State).thm.leakRun = 0 :: [0] ∧ 0 ≠ leakClass 6999) ∧
    ((openP { running := false, holdOff := true }).pwr.running = false ∧ (openP { running := false, holdOff := true }).pwr.holdOff = true ∧
        10 ≤ 10) := by
  and_intros <;> decide +kernel


/-! The Guyline. -/
def glyS (g : Gly) (prio : Nat := 8) (rack : Nat := 0) : State :=
  { openS with gly := g, dev := { openS.dev with ptab := openS.dev.ptab ++ [(0xD0000, BitVec.ofNat 32 prio), (0xD0004, BitVec.ofNat 32 rack)] } }
def hd (own : Bool) (type : Nat) (body : List Nat) (hops : Nat := 62) : GlnHead :=
  { hops, srcPos := 2, seq := 5, own, crc := (frame type hops 2 5 body).crc }
def ringG : Gly := { st := 3, hold := true, n := 4, pos := 1 }
def aBeat : Beat := { state := 3, throttle := 0, power10 := 100, demand25 := 100, regionMax := 200, lid := 100, uncorrected := 1, fatal := 0 }

theorem witness_GuylineElectsAndGrants :
    ((glyS { st := 1, hold := true }).gly.st = 1 ∧ glnPrio (glyS { st := 1, hold := true }) ≠ 0) ∧
    ((glyS { st := 2, hold := true }).gly.hold = true ∧ (glyS { st := 2, hold := true }).gly.st = 2 ∧ crcGood (hd true 1 [9]) 1 [9] = true ∧
        (hd true 1 [9]).own = true ∧
        crcGood (hd false 1 [9]) 1 [9] = true ∧ (hd false 1 [9]).hops < 63 ∧ glnPrio (glyS { st := 2, hold := true }) < 9 ∧
            7 < glnPrio (glyS { st := 2, hold := true }) ∧
        crcGood (hd false 1 [7]) 1 [7] = true ∧ crcGood (hd false 2 [4]) 2 [4] = true) ∧
    ((glyS ringG).gly.hold = true ∧ (glyS ringG).gly.st = 3 ∧ crcGood (hd true 2 [64]) 2 [64] = true ∧ (hd true 2 [64]).own = true ∧ 64 < 64 + 1 ∧
        63 + 1 ≤ 64) ∧
    ((glyS ringG).gly.hold = true ∧ (glyS ringG).gly.st = 3 ∧ crcGood (hd false 7 []) 7 [] = true ∧ crcGood (hd false 6 [3]) 6 [3] = true ∧
        (hd false 7 []).own = false ∧ (glyS ringG).gly.master = false ∧ (glyS ringG).gly.breaking = false) ∧
    ((glyS { ringG with st := 4, breaking := true }).gly.hold = true ∧ (glyS { ringG with st := 4, breaking := true }).gly.st = 4 ∧
        (glyS { ringG with st := 4, breaking := true }).gly.breaking = true) ∧
    (crcGood (hd false 7 []) 5 [1, 2000] = false ∧ 0 < (glyS ringG).gly.n ∧ (glyS { ringG with master := true }).gly.master = true) ∧
    (crcGood (hd false 3 [1000, 96, 400]) 3 [1000, 96, 400] = true ∧ crcGood (hd true 3 [0, 0, 0]) 3 [0, 0, 0] = true ∧
        crcGood (hd false 4 (beatBody aBeat)) 4 (beatBody aBeat) = true) ∧
    ((glyS ringG).gly.next = none ∧ 1200 ≤ (glyS ringG).gly.grant.getD 1200 ∧ (glyS ringG).gly.grant.getD 1200 < 1225 ∧
        crcGood (hd false 5 [1, 1225]) 5 [(glyS ringG).gly.pos, 1225] = true) ∧
    ((glyS { ringG with next := some 1300 }).gly.next = some 1300 ∧ 1300 < 1301 ∧ crcGood (hd false 5 [1, 1301]) 5 [1, 1301] = true) ∧
    ((glyS { ringG with st := 4 }).gly.st = 4 ∧ crcGood (hd false 5 [1, 1000]) 5 [(glyS { ringG with st := 4 }).gly.pos, 1000] = true ∧
        crcGood (hd false 5 [2, 1000]) 5 [2, 1000] = true ∧ 2 ≠ (glyS ringG).gly.pos) ∧
    (999 < 1000 ∧ 1000 ≤ 1000 ∧ (glyS { ringG with grant := some 3000, master := true }).gly.grant = some 3000 ∧
        (glyS { ringG with grant := some 3000, master := true }).gly.master = true ∧
        (glyS { ringG with grant := some 3000, master := true }).gly.n ≠ 0 ∧ (glyS { ringG with grant := some 3000 }).gly.master = false) ∧
    ((glyS { ringG with master := true }).gly.hold = true ∧ (glyS { ringG with master := true }).gly.st = 3 ∧
        (glyS { ringG with master := true }).gly.n ≤ 64 ∧ 0 < (glyS { ringG with master := true }).gly.n ∧
        (glyS { ringG with master := true }).gly.next = none ∧ glnRack (glyS { ringG with master := true }) = 0) ∧
    (glnRack (glyS { ringG with master := true } 8 4799) ≠ 0 ∧
        glnRack (glyS { ringG with master := true } 8 4799) < 1200 * (glyS { ringG with master := true } 8 4799).gly.n ∧
        1200 * (glyS { ringG with master := true } 8 4800).gly.n ≤ glnRack (glyS { ringG with master := true } 8 4800)) := by
  and_intros <;> decide +kernel


theorem witness_GrantsNeverExceedTheRackBudget :
    (1200 * [1200, 3600].length ≤ 2400 ∧ (∀ d ∈ [1200, 3600], 1200 ≤ d) ∧ 2399 < 1200 * [1200, 3600].length) := by
  decide


/-! Rings. -/
def ringS (g : Ring) : State := let s := opS openS []; { s with rng := { ring := [(3, g)] } }

theorem witness_RingsTakeDoorbellsAndDescriptors :
    (barGate (ringS {}) 0 false false {} = .served ∧ ringReach (ringS {}) 0 3 = true ∧ (ringOf (ringS {}) 3).st = 0 ∧
        downOf (ringS {}) (if 0 = 0 then bits (ringCfg (ringS {}) 3) 8 4 else 0 - 1) = none ∧ enableOk (ringS {}) 0 3 = true) ∧
    (barGate (ringS {}) 0 false false {} = .served ∧ ringReach (ringS {}) 0 4 = true ∧ (ringOf (ringS {}) 4).st = 0 ∧
        downOf (ringS {}) (if 0 = 0 then bits (ringCfg (ringS {}) 4) 8 4 else 0 - 1) = none ∧ enableOk (ringS {}) 0 4 = false) ∧
    (barGate (ringS { st := 2, pend := true }) 0 false false {} = .served ∧ ringReach (ringS { st := 2, pend := true }) 0 3 = true ∧
        (ringOf (ringS { st := 2, pend := true }) 3).st = 2 ∧ (ringOf (ringS { st := 2, pend := true }) 3).pend = true) ∧
    (barGate (ringS { st := 1 }) 0 false false {} = .served ∧ ringReach (ringS { st := 1 }) 0 3 = true ∧ (ringOf (ringS { st := 1 }) 3).st = 1 ∧
        (ringOf (ringS { st := 1 }) 3).pend = false ∧ (ringOf (ringS { st := 1 }) 3).fetched = [] ∧ (∀ o ∈ (ringS { st := 1 }).rng.ops, o.ring ≠ 3)) ∧
    ((ringOf (ringS { st := 2 }) 3).st = 2 ∧ (ringOf (ringS { st := 2 }) 3).pend = false ∧ (∀ o ∈ (ringS { st := 2 }).rng.ops, o.ring ≠ 3)) ∧
    (pageRing 0 3 = some 3 ∧ barGate (ringS { st := 1 }) 0 false false {} = .served ∧ pageOwned (ringS { st := 1 }) 0 3 = true ∧
        (4 ≠ 4 ∨ (ringOf (ringS { st := 1 }) 3).st ≠ 1 ∨ ringSize (ringS { st := 1 }) 3 ≤ 16)) ∧
    (4 = 4 ∧ (ringOf (ringS { st := 1 }) 3).st = 1 ∧ 15 < ringSize (ringS { st := 1 }) 3 ∧ 15 ≠ (ringOf (ringS { st := 1 }) 3).sqTail ∧
        (15 + ringSize (ringS { st := 1 }) 3 - (ringOf (ringS { st := 1 }) 3).sqTail) % ringSize (ringS { st := 1 }) 3 ≤ ringSize (ringS { st := 1 }) 3 - 1 -
          ((ringOf (ringS { st := 1 }) 3).sqTail + ringSize (ringS { st := 1 }) 3 - (ringOf (ringS { st := 1 }) 3).sqHead) % ringSize (ringS { st := 1 }) 3) ∧
    (5 < ringSize (ringS { st := 1, cqTail := 5 }) 3 ∧ 5 ≠ (ringOf (ringS { st := 1, cqTail := 5 }) 3).cqHead ∧
        (5 + ringSize (ringS { st := 1, cqTail := 5 }) 3 - (ringOf (ringS { st := 1, cqTail := 5 }) 3).cqHead) % ringSize (ringS { st := 1, cqTail := 5 }) 3 ≤
          ((ringOf (ringS { st := 1, cqTail := 5 }) 3).cqTail + ringSize (ringS { st := 1, cqTail := 5 }) 3 - (ringOf (ringS { st := 1, cqTail := 5 }) 3).cqHead) % ringSize (ringS { st := 1, cqTail := 5 }) 3) ∧
    (nextRing (ringS { st := 1, sqTail := 1 }) = some 3 ∧ bit (ringCfg (ringS { st := 1, sqTail := 1 }) 3) 5 = false) ∧
    ((ringOf (ringS { st := 1, fetched := [(0, desc [(0, 1, 1)])] }) 3).st = 1 ∧
        (ringOf (ringS { st := 1, fetched := [(0, desc [(0, 1, 1)])] }) 3).fetched = (0, desc [(0, 1, 1)]) :: [] ∧
        heldBack (ringS { st := 1, fetched := [(0, desc [(0, 1, 1)])] }) 3 (desc [(0, 1, 1)]) = false ∧
        admitBad (ringS { st := 1, fetched := [(0, desc [(0, 1, 1)])] }) { id := 0, ring := 3, slot := 0, desc := desc [(0, 1, 1)], tick := 0 } = none) ∧
    (heldBack (opS openS [(0, 1, 0x31)] 2) 3 (desc [(0, 1, 1)]) = true ∧
        admitBad (ringS { st := 1, fetched := [(0, desc [(0, 1, 0x77)])] }) { id := 0, ring := 3, slot := 0, desc := desc [(0, 1, 0x77)], tick := 0 } = some 3 ∧
        (ringS { st := 1 }).evt.q = [] ∧ bit (ringCfg (ringS { st := 1 }) 3) 6 = false ∧ (permit (ringS { st := 1 }) 0).2 = true) := by
  and_intros <;> decide +kernel


theorem witness_CompletionWritesOneRecord :
    (opOf (opS openS [(0, 1, 1), (8, 8, 0x1122334455667788)]) 7 = some { id := 7, ring := 3, slot := 0, desc := desc [(0, 1, 1), (8, 8, 0x1122334455667788)], tick := 0 } ∧
        (opS openS [(0, 1, 1)]).evt.q = [] ∧ (ringOf (opS openS [(0, 1, 1)]) 3).st ≠ 0 ∧ bit (ringCfg (opS openS [(0, 1, 1)]) 3) 6 = false ∧
            (permit (opS openS [(0, 1, 1)]) 0).2 = true) ∧
    (∃ b, (permit { openS with link := { openS.link with ats := [0] } } 0).2 = b) ∧
    (bit ({ id := 7, ring := 3, slot := 0, desc := desc [(0, 1, 1), (1, 1, 2)], tick := 0 } : Op).flags 1 = true ∧
        (bit ({ id := 7, ring := 3, slot := 0, desc := desc [(0, 1, 1), (1, 1, 0)], tick := 0 } : Op).flags 1 = false ∨ 0 ≠ 0)) := by
  exact ⟨by decide, by exact ⟨_, rfl⟩, by decide⟩


/-! Descriptors. -/
def op7 (fs : List (Nat × Nat × Nat)) (stage : Nat := 0) : Op := { id := 7, ring := 3, slot := 0, desc := desc fs, tick := 0, stage := stage }
/-- The state with that operation, over the mapped context, the semaphores at 512 MiB. -/
def semS (fs : List (Nat × Nat × Nat)) (stage : Nat := 0) : State :=
  let s := mapped (opS openS fs stage)
  { s with dev := { s.dev with ptab := s.dev.ptab ++ [(0x4000C, 0x20000#32)] } }
/-- An administrative ring. -/
def adminS (fs : List (Nat × Nat × Nat)) : State := let s := opS openS fs; { s with regs := { s.regs with w := tset s.regs.w (0x20010 + 0x40 * 3) 0xF04#32 } }
def queryF (k start : Nat) : List (Nat × Nat × Nat) := [(0, 1, 0x38), (16, 1, k), (20, 4, start), (24, 8, 0x1000), (32, 4, 64)]

theorem witness_SimpleDescriptorsSemaphoresAndQueries :
    (opOf (opS openS [(0, 1, 0x01)]) 7 = some (op7 [(0, 1, 0x01)]) ∧ (op7 [(0, 1, 0x01)]).code = 0x01 ∧ (op7 [(0, 1, 0x01)]).stage = 0) ∧
    (opOf (opS openS [(0, 1, 0x18), (16, 8, 0x30000)]) 7 = some (op7 [(0, 1, 0x18), (16, 8, 0x30000)]) ∧
        (op7 [(0, 1, 0x18), (16, 8, 0x30000)]).code = 0x18 ∧
        (op7 [(0, 1, 0x18), (16, 8, 0x30000)]).f 16 8 % 65536 = 0 ∧ (op7 [(0, 1, 0x18), (16, 8, 0x30000)]).f 24 8 % 65536 = 0 ∧
            (op7 [(0, 1, 0x18), (16, 8, 0x30000)]).f 32 1 = 0 ∧
        (op7 [(0, 1, 0x18), (16, 8, 0x30000)]).f 33 1 = 0 ∧ allZero (slice (op7 [(0, 1, 0x18), (16, 8, 0x30000)]).desc 34 30) = true) ∧
    (opOf (opS openS [(0, 1, 0x18), (16, 8, 1)]) 7 = some (op7 [(0, 1, 0x18), (16, 8, 1)]) ∧
        ((op7 [(0, 1, 0x18), (16, 8, 1)]).f 16 8 % 65536 ≠ 0 ∨ 4 ≤ (op7 [(0, 1, 0x18), (16, 8, 1)]).f 32 1)) ∧
    ((op7 [(0, 1, 0x28), (16, 1, 8)]).code = 0x28 ∧ (op7 [(0, 1, 0x28), (16, 1, 8)]).f 16 1 = 8 ∧ (op7 [(0, 1, 0x28), (16, 1, 4)]).f 16 1 = 4) ∧
    (opOf (semS [(0, 1, 0x30), (24, 8, 5)]) 7 = some (op7 [(0, 1, 0x30), (24, 8, 5)]) ∧ (op7 [(0, 1, 0x30), (24, 8, 5)]).code = 0x30 ∧
        (op7 [(0, 1, 0x30), (24, 8, 5)]).f 16 2 ≤ 4095 ∧
        (op7 [(0, 1, 0x30), (24, 8, 5)]).f 18 1 ≤ 1 ∧ allZero (slice (op7 [(0, 1, 0x30), (24, 8, 5)]).desc 19 5) = true ∧
            allZero (slice (op7 [(0, 1, 0x30), (24, 8, 5)]).desc 32 32) = true ∧
        peekFrom (semS [(0, 1, 0x30), (24, 8, 5)]) 8 (semAddr (semS [(0, 1, 0x30), (24, 8, 5)]) (op7 [(0, 1, 0x30), (24, 8, 5)])) 8 = some ((le 8 0x40000007).map (·, false))) ∧
    (opOf (semS [(0, 1, 0x31), (24, 8, 0x40000007)] 2) 7 = some (op7 [(0, 1, 0x31), (24, 8, 0x40000007)] 2) ∧
        (op7 [(0, 1, 0x31), (24, 8, 0x40000007)] 2).stage = 2 ∧
        peekFrom (semS [(0, 1, 0x31), (24, 8, 0x40000007)] 2) 8 (semAddr (semS [(0, 1, 0x31), (24, 8, 0x40000007)] 2) (op7 [(0, 1, 0x31), (24, 8, 0x40000007)] 2)) 8 = some ((le 8 0x40000007).map (·, false)) ∧
        anyPois ((le 8 0x40000007).map (·, false)) = false ∧
            (op7 [(0, 1, 0x31), (24, 8, 0x40000007)] 2).f 24 8 ≤ unle (bytesOf ((le 8 0x40000007).map (·, false)))) ∧
    (peekFrom (semS [(0, 1, 0x31), (20, 4, 1), (24, 8, 0x40000008)] 2) 8 (semAddr (semS [(0, 1, 0x31), (20, 4, 1), (24, 8, 0x40000008)] 2) (op7 [(0, 1, 0x31), (20, 4, 1), (24, 8, 0x40000008)] 2)) 8 = some ((le 8 0x40000007).map (·, false)) ∧
        unle (bytesOf ((le 8 0x40000007).map (·, false))) < (op7 [(0, 1, 0x31), (20, 4, 1), (24, 8, 0x40000008)] 2).f 24 8 ∧
            (op7 [(0, 1, 0x31), (20, 4, 1), (24, 8, 0x40000008)] 2).f 20 4 ≠ 0 ∧
        (op7 [(0, 1, 0x31), (20, 4, 1), (24, 8, 0x40000008)] 2).tick + 100000 * (op7 [(0, 1, 0x31), (20, 4, 1), (24, 8, 0x40000008)] 2).f 20 4 ≤ ({ semS [(0, 1, 0x31), (20, 4, 1), (24, 8, 0x40000008)] 2 with tick := 100000 } : State).tick) ∧
    (opOf (semS [(0, 1, 0x31), (24, 8, 5)]) 7 = some (op7 [(0, 1, 0x31), (24, 8, 5)]) ∧ (op7 [(0, 1, 0x31), (24, 8, 5)]).code = 0x31 ∧
        (op7 [(0, 1, 0x31), (24, 8, 5)]).f 16 2 ≤ 4095 ∧
        allZero (slice (op7 [(0, 1, 0x31), (24, 8, 5)]).desc 18 2) = true ∧ allZero (slice (op7 [(0, 1, 0x31), (24, 8, 5)]).desc 32 32) = true) ∧
    (opOf (adminS (queryF 5 7)) 7 = some (op7 (queryF 5 7)) ∧ (op7 (queryF 5 7)).code = 0x38 ∧ allZero (slice (op7 (queryF 5 7)).desc 17 3) = true ∧
        (op7 (queryF 5 7)).f 24 8 % 64 = 0 ∧
        64 ≤ (op7 (queryF 5 7)).f 32 4 ∧ (op7 (queryF 5 7)).f 32 4 ≤ 16777216 ∧ (op7 (queryF 5 7)).f 32 4 % 64 = 0 ∧
            allZero (slice (op7 (queryF 5 7)).desc 36 28) = true ∧
        opPart (adminS (queryF 5 7)) (op7 (queryF 5 7)) = 15 ∧ (op7 (queryF 5 7)).f 16 1 = 5 ∧ (permit (adminS (queryF 5 7)) 0).2 = true) ∧
    (opPart (opS openS (queryF 1 0)) (op7 (queryF 1 0)) = 0 ∧ (op7 (queryF 1 0)).f 16 1 = 1) ∧
    ((op7 (queryF 5 8)).f 20 4 ≤ (wearRecords (adminS (queryF 5 8)) (op7 (queryF 5 8))).length ∧
        (wearRecords (adminS (queryF 5 9)) (op7 (queryF 5 9))).length < (op7 (queryF 5 9)).f 20 4) := by
  and_intros <;> decide +kernel


def evtS (e : Evt) : State := { openS with evt := e, regs := { w := [(0xE0008, 0x4#32)] } }
def anEv : Ev := { code := 0x401, sev := 1, ts := 0, part := 8, ring := 0xFFFF, unit := 0, addr := 0, detail := [] }
def downS (step : Nat) : State := { openS with down := [{ part := 0, step := step, stop := false, back := true }] }

theorem witness_EventRingsAndTeardown :
    (barGate (evtS {}) 0 false false {} = .served ∧ regOk (evtS {}) 0 0xE0008 = true ∧ (evRing (evtS {}) 0).on = false ∧ 4 ≤ evCfg (evtS {}) 0 % 32 ∧
        evCfg (evtS {}) 0 % 32 ≤ 16) ∧
    (regOk openS 0 0xE0008 = true ∧ (evRing openS 0).on = false ∧ (evCfg openS 0 % 32 < 4 ∨ 16 < evCfg openS 0 % 32)) ∧
    (regOk (evtS { ring := [(0, { on := true })] }) 0 0xE000C = true ∧ (evRing (evtS { ring := [(0, { on := true })] }) 0).on = true ∧
        15 < 2 ^ (evCfg (evtS { ring := [(0, { on := true })] }) 0 % 32)) ∧
    ((evtS { q := [anEv] }).evt.q = anEv :: [] ∧ anEv.sev < 2 ∧ anEv.part ≥ 8 ∧ (evtS { q := [anEv] }).evt.due = [] ∧
        anEv.code ∉ [0x540, 0x541, 0x550] ∧ (evRing (evtS { q := [anEv] }) 0).on = false) ∧
    ((evRing (evtS { q := [anEv], ring := [(0, { on := true, wr := 14 })] }) 0).on = true ∧
        ((evRing (evtS { q := [anEv], ring := [(0, { on := true, wr := 14 })] }) 0).wr + evSize (evtS { q := [anEv] }) 0 -
        (evRing (evtS { q := [anEv], ring := [(0, { on := true, wr := 14 })] }) 0).head) % evSize (evtS { q := [anEv] }) 0 < evSize (evtS { q := [anEv] }) 0 - 1) ∧
    (downOf (downS 1) 0 = some { part := 0, step := 1, stop := false, back := true } ∧
        downOf (downS 2) 0 = some { part := 0, step := 2, stop := false, back := true } ∧ (downS 2).dev.repitch = false) := by
  and_intros <;> decide


/-! A bundle of one section of code (16 bytes) and one entry point. -/
def bundleB : Bytes :=
  le 4 0x314C5842 ++ le 2 1 ++ le 2 2 ++ le 4 96 ++ le 2 1 ++ le 2 0 ++ (le 4 1 ++ le 4 48 ++ le 4 16 ++ le 4 0) ++ (le 4 3 ++ le 4 64 ++ le 4 32 ++ le 4 0) ++
  zeros 16 ++ (le 4 0 ++ le 2 16 ++ le 1 1 ++ le 1 0 ++ zeros 24)
def bundleX : Bundle :=
  { handle := 0, part := 0, base := 0, len := 96, codeOff := 48, codeLen := 16, roOff := 0, roLen := 0,
    entries := [{ code := 0, regs := 16, groups := 1, barriers := 0, sharedLs := 0, groupLs := 0, formats := 0, accBanks := 0, uses := 0 }] }
def loadF (n : Nat) : List (Nat × Nat × Nat) := [(0, 1, 0x02), (16, 8, 0x1000), (24, 4, n)]
def unloadS : State := let s := opS openS [(0, 1, 0x03), (16, 4, 1)]; { s with krn := { s.krn with bundles := [{ bundleX with handle := 1 }] } }

theorem witness_BundlesAndLaunches :
    (opOf (opS openS (loadF 15)) 7 = some (op7 (loadF 15)) ∧ (op7 (loadF 15)).code = 0x02 ∧
        ((op7 (loadF 15)).f 16 8 % 16 ≠ 0 ∨ (op7 (loadF 15)).f 24 4 < 16 ∨ 268435456 < (op7 (loadF 15)).f 24 4)) ∧
    (opOf (opS openS (loadF 268435456)) 7 = some (op7 (loadF 268435456)) ∧ 16 ≤ (op7 (loadF 268435456)).f 24 4 ∧
        (op7 (loadF 268435456)).f 24 4 ≤ 268435456 ∧ (op7 (loadF 268435456)).f 28 4 < 2 ∧
        allZero (slice (op7 (loadF 268435456)).desc 32 32) = true ∧
        reserveSlot ({ opS openS (loadF 268435456) with krn := { bundles := [bundleX] } }) (opPart (opS openS (loadF 268435456)) (op7 (loadF 268435456))) ((op7 (loadF 268435456)).f 24 4) = none) ∧
    (opOf (opS openS (loadF 96)) 7 = some (op7 (loadF 96)) ∧ (op7 (loadF 96)).f 28 4 = 0 ∧
        reserveSlot (opS openS (loadF 96)) (opPart (opS openS (loadF 96)) (op7 (loadF 96))) ((op7 (loadF 96)).f 24 4) = some 0 ∧
        ((opS openS (loadF 96)).krn.bundles.filter (fun b => b.part == opPart (opS openS (loadF 96)) (op7 (loadF 96)))).length < 64 ∧
            bundleB.length = (op7 (loadF 96)).f 24 4 ∧
        bundleOf bundleB = .inr bundleX ∧ (writeClean (opS openS (loadF 96)) 7 0 0 bundleB).2 = true) ∧
    (opOf unloadS 7 = some (op7 [(0, 1, 0x03), (16, 4, 1)]) ∧ (op7 [(0, 1, 0x03), (16, 4, 1)]).code = 0x03 ∧
        allZero (slice (op7 [(0, 1, 0x03), (16, 4, 1)]).desc 20 44) = true ∧
        liveBundle unloadS (opPart unloadS (op7 [(0, 1, 0x03), (16, 4, 1)])) ((op7 [(0, 1, 0x03), (16, 4, 1)]).f 16 4) = some { bundleX with handle := 1 } ∧
        (∀ b' ∈ unloadS.krn.bundles, b'.handle = 1 → b' = { bundleX with handle := 1 }) ∧ (∀ l ∈ unloadS.krn.launches, l.bundle ≠ 1)) ∧
    (liveBundle (opS openS [(0, 1, 0x03), (16, 4, 1)]) 0 ((op7 [(0, 1, 0x03), (16, 4, 1)]).f 16 4) = none) := by
  and_intros <;> decide +kernel


/-! Launches. -/
def launchF : List (Nat × Nat × Nat) := [(0, 1, 0x04), (16, 4, 1), (24, 4, 1), (28, 2, 1), (30, 2, 1)]
/-- The bundle is loaded and cluster 0 has its eight cores declared. -/
def readyS (fs : List (Nat × Nat × Nat)) (ls : List Launch) : State :=
  let s := opS openS fs
  { s with dev := { s.dev with declCores := [(0, 8)], physOf := (List.range 8).map (fun c => (c, c)) }, krn := { bundles := [{ bundleX with handle := 1 }], launches := ls } }
def waiting : Launch := { theLaunch with next := 0, cores := [] }
def timedS : State :=
  let s := grpS theGrp
  { s with tick := 200000, krn := { s.krn with launches := [{ theLaunch with timeout := 2 }] } }

theorem witness_BundlesAndLaunches_launches :
    (opOf (readyS launchF []) 7 = some (op7 launchF) ∧ (op7 launchF).code = 0x04 ∧ (op7 launchF).stage = 0 ∧
        launchCheck (readyS launchF []) (op7 launchF) = .inr (bundleX.entries.headD theLaunch.entry) ∧
        launchOf (readyS launchF []) 7 = none ∧ (op7 launchF).id = 7) ∧
    (launchCheck (opS openS launchF) (op7 launchF) = .inl 3 ∧ opOf (opS openS launchF) 7 = some (op7 launchF)) ∧
    (launchOf (readyS launchF [waiting]) 7 = some waiting ∧ waiting.ended = false ∧ waiting.next < gridSize waiting ∧
        placeCore (readyS launchF [waiting]) waiting = some 0 ∧
        1 ≠ epochOf (readyS launchF [waiting]) 0 ∧ 0 = epochOf (readyS launchF [waiting]) 0 ∧ waiting.op = 7 ∧
            (coreOf (readyS launchF [waiting]) 0).l1 = []) ∧
    (launchOf (readyS launchF [theLaunch]) 7 = some theLaunch ∧ launchBusy (readyS launchF [theLaunch]) theLaunch = false ∧
        gridSize theLaunch ≤ theLaunch.next ∧
        (∀ c ∈ (readyS launchF [theLaunch]).krn.cores, ∀ t ∈ c.2.sets, t.launch ≠ 7)) ∧
    (launchBusy (coreS { theCore with mq := [{ launch := 7, slot := 0, tok := 1, set := 0, desc := [], epi := [], att := false }] }) theLaunch = true) ∧
    (launchOf timedS 7 = some { theLaunch with timeout := 2 } ∧ opOf timedS 7 = some (op7 [(0, 1, 4)]) ∧
        (op7 [(0, 1, 4)]).tick + 100000 * 2 ≤ timedS.tick ∧ groupsOf timedS 7 = [(0, 0, theGrp)] ∧
        grpOf timedS 0 0 = some theGrp ∧ theGrp.launch = 7 ∧ theGrp.halt = none ∧ attached timedS 0 = false ∧ theLaunch.trap = none) ∧
    (launchOf (grpS theGrp) 7 = some theLaunch ∧ opOf (grpS theGrp) 7 = some (op7 [(0, 1, 4)]) ∧ theLaunch.ended = false ∧ theLaunch.timeout = 0) ∧
    (∀ c, (coreOf (readyS launchF []) c).l1 = []) := by
  and_intros <;> first | decide +kernel | (intro c; rfl) | rfl | (intro _; rfl)


/-- All 512 cores are bound to their own number. -/
def boundS (s : State) : State := { s with dev := { s.dev with physOf := (List.range 512).map (fun c => (c, c)) } }

theorem witness_SetsPerCoreAndPlacementOrder :
    (theLaunch.entry.groups ≠ 0 ∧ theLaunch.entry.regs ≠ 0) ∧
    (({ code := 0, regs := 96, groups := 4, barriers := 2, sharedLs := 163840, groupLs := 24576, formats := 0, accBanks := 2, uses := 0 } : Entry).regs = 96) ∧
    (partTents openS 0 ≠ [] ∧ (∀ c, c < 512 → coreThere (boundS openS) c = true) ∧ 511 < 64 * (partTents openS 0).length) := by
  exact ⟨by decide, by decide, by exact ⟨by decide, by decide +kernel, by decide⟩⟩


/-! Chain engine and range operations over physical addresses above the code reserve (0x10000000). -/
def chF (code a b n fl : Nat) : List (Nat × Nat × Nat) := [(0, 1, code), (16, 8, a), (24, 8, b), (32, 8, n), (40, 4, fl)]
def phys : Nat := 2 ^ 31
def chS (fs : List (Nat × Nat × Nat)) (stage : Nat := 0) : State := mapped (opS openS fs stage)
/-- Line 0x20000080 is cached beside the table's line, clean and of zeros. -/
def cmpS (fs : List (Nat × Nat × Nat)) : State :=
  let s := chS fs
  { s with mem := { s.mem with lines := s.mem.lines ++ [cached 0x20000080 [], cached 0x20000100 [1#8]] } }
def fullS (fs : List (Nat × Nat × Nat)) : State :=
  let s := chS fs
  { s with rng := { s.rng with ops := s.rng.ops ++ (List.range 16).map (fun i => { id := 10 + i, ring := 3, slot := 0, desc := desc (chF 9 0x20000000 0 128 phys), tick := 0, stage := 1 }) } }
/-- The header of a sealed object of no bytes, with a wrong magic number, at the end of the table's line. -/
def sealF : List (Nat × Nat × Nat) := chF 8 0x60000000 0 64 4
def scrubF (cap : Nat) : List (Nat × Nat × Nat) := chF 0x0C 0x20000000 0x30000000 128 phys ++ [(48, 4, cap)]

theorem witness_ChainOperationsRunOrRefuse :
    (opOf (chS (chF 9 1 0 128 phys)) 7 = some (op7 (chF 9 1 0 128 phys)) ∧ (op7 (chF 9 1 0 128 phys)).code = 0x09 ∧
        ((op7 (chF 9 1 0 128 phys)).f 16 8 % 128 ≠ 0 ∨ lengthOk ((op7 (chF 9 1 0 128 phys)).f 32 8) = false)) ∧
    (chainFields (op7 (chF 9 0 0 128 phys)) false false false = true ∧ (op7 (chF 9 0 0 128 phys)).f 16 8 % 128 = 0 ∧
        lengthOk ((op7 (chF 9 0 0 128 phys)).f 32 8) = true ∧
        rangeBad (chS (chF 9 0 0 128 phys)) (op7 (chF 9 0 0 128 phys)) ((op7 (chF 9 0 0 128 phys)).f 16 8) ((op7 (chF 9 0 0 128 phys)).f 32 8) = some 0x0A) ∧
    (rangeBad (fullS (chF 9 0x20000000 0 128 phys)) (op7 (chF 9 0x20000000 0 128 phys)) 0x20000000 128 = none ∧
        engineFull (fullS (chF 9 0x20000000 0 128 phys)) (op7 (chF 9 0x20000000 0 128 phys)) = true) ∧
    ((op7 (chF 0x0A 0x20000000 0x20000000 128 phys)).code = 0x0A ∧
        chainFields (op7 (chF 0x0A 0x20000000 0x20000000 128 phys)) false false false = true ∧
        overlapping ((op7 (chF 0x0A 0x20000000 0x20000000 128 phys)).f 16 8) 128 ((op7 (chF 0x0A 0x20000000 0x20000000 128 phys)).f 24 8) 128 = true) ∧
    (overlapping 0x20000080 128 0x20000100 128 = false ∧
        rangeBad (cmpS (chF 0x0A 0x20000080 0x20000100 128 phys)) (op7 (chF 0x0A 0x20000080 0x20000100 128 phys)) 0x20000080 128 = none ∧
        rangeBad (cmpS (chF 0x0A 0x20000080 0x20000100 128 phys)) (op7 (chF 0x0A 0x20000080 0x20000100 128 phys)) 0x20000100 128 = none ∧
            engineFull (cmpS (chF 0x0A 0x20000080 0x20000100 128 phys)) (op7 (chF 0x0A 0x20000080 0x20000100 128 phys)) = false) ∧
    ((op7 (chF 0x0B 0x20000080 0x30000000 8 phys)).code = 0x0B ∧ chainFields (op7 (chF 0x0B 0x20000080 0x30000000 8 phys)) true false false = true ∧
        1 ≤ (op7 (chF 0x0B 0x20000080 0x30000000 8 phys)).f 32 8 ∧
        rangeBad (cmpS (chF 0x0B 0x20000080 0x30000000 8 phys)) (op7 (chF 0x0B 0x20000080 0x30000000 8 phys)) 0x20000080 8 = none ∧
            rangeBad (cmpS (chF 0x0B 0x20000080 0x30000000 8 phys)) (op7 (chF 0x0B 0x20000080 0x30000000 8 phys)) 0x30000000 64 = none ∧
        engineFull (cmpS (chF 0x0B 0x20000080 0x30000000 8 phys)) (op7 (chF 0x0B 0x20000080 0x30000000 8 phys)) = false) ∧
    ((chainBytes (hostSrc (cmpS (chF 0x0B 0x20000080 0x30000000 8 phys)) (op7 (chF 0x0B 0x20000080 0x30000000 8 phys)) [(0x20000080, 8)] .ur).1 (op7 (chF 0x0B 0x20000080 0x30000000 8 phys)) 0x20000080 8
          (hostSrc (cmpS (chF 0x0B 0x20000080 0x30000000 8 phys)) (op7 (chF 0x0B 0x20000080 0x30000000 8 phys)) [(0x20000080, 8)] .ur).2).2.2.isRight = true) ∧
    ((op7 (chF 8 0x60000000 0x70000000 128 phys)).code = 0x08 ∧ bit ((op7 (chF 8 0x60000000 0x70000000 128 phys)).f 40 4) 2 = false ∧
        chainFields (op7 (chF 8 0x60000000 0x70000000 128 phys)) false false false = true ∧
        rangeBad (chS (chF 8 0x60000000 0x70000000 128 phys)) (op7 (chF 8 0x60000000 0x70000000 128 phys)) 0x60000000 128 = none ∧
            rangeBad (chS (chF 8 0x60000000 0x70000000 128 phys)) (op7 (chF 8 0x60000000 0x70000000 128 phys)) 0x70000000 128 = none ∧
        engineFull (chS (chF 8 0x60000000 0x70000000 128 phys)) (op7 (chF 8 0x60000000 0x70000000 128 phys)) = false ∧
            overlapping 0x60000000 128 0x70000000 128 = false) ∧
    (bit ((op7 (chF 8 0 0 64 (phys + 4))).f 40 4) 2 = true ∧ chainPhys (op7 (chF 8 0 0 64 (phys + 4))) = true) ∧
    (bit ((op7 sealF).f 40 4) 2 = true ∧ chainFields (op7 sealF) true true false = true ∧ chainPhys (op7 sealF) = false ∧
        (op7 sealF).f 16 8 % 128 = 0 ∧ (op7 sealF).f 24 8 % 128 = 0 ∧ 64 ≤ (op7 sealF).f 32 8 ∧
        meetsRegs (chS sealF) (op7 sealF) ((op7 sealF).f 24 8) ((op7 sealF).f 32 8) = false ∧ engineFull (chS sealF) (op7 sealF) = false) ∧
    ((op7 (scrubF 6207)).code = 0x0C ∧ chainFields (op7 (scrubF 6207)) false false true = true ∧
        rangeBad (chS (scrubF 6207)) (op7 (scrubF 6207)) 0x20000000 128 = none ∧
        rangeBad (chS (scrubF 6207)) (op7 (scrubF 6207)) 0x30000000 64 = none ∧
        (op7 (scrubF 6207)).f 48 4 < 64 + 768 * scrubTents (chS (scrubF 6207)) (op7 (scrubF 6207)) ∧
            64 + 768 * scrubTents (chS (scrubF 6208)) (op7 (scrubF 6208)) ≤ (op7 (scrubF 6208)).f 48 4 ∧
        (scrubLines 1 (chS (scrubF 6208)) (op7 (scrubF 6208)) [] 0 {}).2.1 = 0) ∧
    (opOf (chS (chF 9 0x20000000 0 128 phys) 3) 7 = some (op7 (chF 9 0x20000000 0 128 phys) 3) ∧ (op7 (chF 9 0x20000000 0 128 phys) 3).stage = 3 ∧
        (op7 (chF 9 0x20000000 0 128 phys) 3).status = 0) ∧
    ((chainPuts (chS (chF 0x0B 0x20000080 0x20000000 8 phys) 3) (op7 (chF 0x0B 0x20000080 0x20000000 8 phys) 3) 0x20000000 (plainBytes (pad [] 64)) 0x20000040).2 = 0) := by
  and_intros <;> decide +kernel


def fillF : List (Nat × Nat × Nat) := chF 9 0x60000000 0x0807060504030201 256 phys

theorem witness_FillWritesItsPatternAndNothingElse :
    (opOf (chS fillF) 7 = some (op7 fillF) ∧ (op7 fillF).code = 0x09 ∧ chainFields (op7 fillF) false false false = true ∧
        chainPhys (op7 fillF) = true ∧ 0x60000000 = (op7 fillF).f 16 8 ∧ 256 = (op7 fillF).f 32 8 ∧
        lengthOk 256 = true ∧ rangeBad (chS fillF) (op7 fillF) 0x60000000 256 = none ∧ engineFull (chS fillF) (op7 fillF) = false ∧
            (∀ i, i < 256 / 128 → outOfService (chS fillF) (0x60000000 + 128 * i) = false ∧
            tentDown (chS fillF) (tentAt (0x60000000 + 128 * i)) = false)) ∧
    ((chS fillF).mem.miss = [] ∧ (chS fillF).mem.redq = [] ∧ (chS fillF).mem.msa = [] ∧ (chS fillF).mem.reqs = []) ∧
    (Memory.wf (chS fillF) = true ∧ (∀ c ∈ (chS fillF).mem.lines, c.data.length = 128 ∧ c.line % 128 = 0 ∧ inHbm c.line = true ∧ c.pois < 4 ∧
        (∀ d ∈ (chS fillF).mem.lines, d.line = c.line → d = c)) ∧ (∀ c ∈ (chS fillF).mem.lines, c.dirty = true)) := by
  exact ⟨by decide +kernel, by decide +kernel, by decide +kernel⟩


def rgF (code a n fl : Nat) : List (Nat × Nat × Nat) := [(0, 1, code), (16, 8, a), (24, 8, n), (32, 4, fl)]

theorem witness_RangeOperationsKeepMemory :
    (opOf (chS (rgF 0x11 0x20000000 128 (phys + 1))) 7 = some (op7 (rgF 0x11 0x20000000 128 (phys + 1))) ∧
        (op7 (rgF 0x11 0x20000000 128 (phys + 1))).code = 0x11 ∧
        rngBad (chS (rgF 0x11 0x20000000 128 (phys + 1))) (op7 (rgF 0x11 0x20000000 128 (phys + 1))) false = some 3) ∧
    (opOf (chS (rgF 0x10 0x20000000 256 phys)) 7 = some (op7 (rgF 0x10 0x20000000 256 phys)) ∧ (op7 (rgF 0x10 0x20000000 256 phys)).code = 0x10 ∧
        rngPhys (op7 (rgF 0x10 0x20000000 256 phys)) = true) ∧
    (rngBad (chS (rgF 0x10 0x20000000 256 phys)) (op7 (rgF 0x10 0x20000000 256 phys)) false = none ∧
        rngBad (chS (rgF 0x10 0x20000000 256 phys)) (op7 (rgF 0x10 0x20000000 256 phys)) true = none ∧
        Memory.wf (chS (rgF 0x10 0x20000000 256 phys)) = true ∧ bit (ringCfg (chS (rgF 0x10 0x20000000 256 phys)) 3) 6 = false) ∧
    (opOf (chS (rgF 0x11 0x20000000 256 phys)) 7 = some (op7 (rgF 0x11 0x20000000 256 phys)) ∧ (op7 (rgF 0x11 0x20000000 256 phys)).code = 0x11 ∧
        rngPhys (op7 (rgF 0x11 0x20000000 256 phys)) = true) ∧
    (rngBad (chS (rgF 0x11 0x20000000 256 phys)) (op7 (rgF 0x11 0x20000000 256 phys)) false = none ∧
        rngBad (chS (rgF 0x11 0x20000000 256 phys)) (op7 (rgF 0x11 0x20000000 256 phys)) true = none ∧
        Memory.wf (chS (rgF 0x11 0x20000000 256 phys)) = true ∧ bit (ringCfg (chS (rgF 0x11 0x20000000 256 phys)) 3) 6 = false) ∧
    (opOf (chS (rgF 0x12 0x20000000 256 phys)) 7 = some (op7 (rgF 0x12 0x20000000 256 phys)) ∧ (op7 (rgF 0x12 0x20000000 256 phys)).code = 0x12 ∧
        rngPhys (op7 (rgF 0x12 0x20000000 256 phys)) = true) ∧
    (rngBad (chS (rgF 0x12 0x20000000 256 phys)) (op7 (rgF 0x12 0x20000000 256 phys)) false = none ∧
        rngBad (chS (rgF 0x12 0x20000000 256 phys)) (op7 (rgF 0x12 0x20000000 256 phys)) true = none ∧
        Memory.wf (chS (rgF 0x12 0x20000000 256 phys)) = true ∧ bit (ringCfg (chS (rgF 0x12 0x20000000 256 phys)) 3) 6 = false) ∧
    ((∀ c ∈ (chS []).mem.lines, c.data.length = 128 ∧ c.line % 128 = 0 ∧ inHbm c.line = true ∧ c.pois < 4 ∧
        (∀ d ∈ (chS []).mem.lines, d.line = c.line → d = c)) ∧ (∀ c ∈ (chS []).mem.lines, c.dirty = true)) ∧
    (memQuiet (chS []) ∧ (∀ l, upsetAt (chS []) l = 0)) := by
  and_intros <;> first | decide +kernel | (exact ⟨⟨rfl, rfl, rfl, rfl⟩, fun _ => rfl⟩) | rfl | (intro _; rfl)


/-- Dead runs of the whole table and elsewhere. -/
def deadS (fs : List (Nat × Nat × Nat)) (ds : List Dead) : State := let s := chS fs; { s with mem := { s.mem with dead := ds } }
def mapF (code va : Nat) : List (Nat × Nat × Nat) := [(0, 1, code), (16, 8, va), (24, 1, 0), (25, 1, 0), (26, 1, 1), (27, 1, 1)]
/-- Tent 0 has one way of Plot, and the entry at 8 GiB points to a table in a second cached line, whose entries are not valid. -/
def mapS (code : Nat) : State :=
  let s := chS (mapF code 0x140000000)
  let t := (List.range 5).map (fun i => cached (0x20001000 + 128 * i) [])
  { s with dev := { s.dev with ptab := s.dev.ptab ++ [(0x48000, 1#32)] }
           mem := { s.mem with lines := cached 0x20000000 (zeros 40 ++ le 8 0x20001005) :: t } }

/-- The mapping made: what PLOT_UNMAP finds. -/
def unmapS (tick : Nat) : State :=
  let s := mapS 0x14
  let o := op7 (mapF 0x14 0x140000000)
  let t := putLeaves s 0 (mapSlots s o) (fun a _ => a + 7)
  { t with tick := tick, rng := (chS (mapF 0x15 0x140000000)).rng, mem := { t.mem with maps := mapWays s o }
           fab := { t.fab with epoch := [(576, { last := some 0 })] } }

theorem witness_DeadRangesPlotsAndRoleEpochs :
    (opOf (chS (rgF 0x13 0x20000001 128 phys)) 7 = some (op7 (rgF 0x13 0x20000001 128 phys)) ∧ (op7 (rgF 0x13 0x20000001 128 phys)).code = 0x13 ∧
        bit ((op7 (rgF 0x13 0x20000001 128 phys)).f 32 4) 0 = false ∧
        rngBad (chS (rgF 0x13 0x20000001 128 phys)) (op7 (rgF 0x13 0x20000001 128 phys)) true = some 3) ∧
    (rngBad (chS (rgF 0x13 0x100000000 128 0)) (op7 (rgF 0x13 0x100000000 128 0)) true = none ∧
        rngFaults (chS (rgF 0x13 0x100000000 128 0)) (op7 (rgF 0x13 0x100000000 128 0)) = true) ∧
    (rngBad (chS (rgF 0x13 0x60000000 256 phys)) (op7 (rgF 0x13 0x60000000 256 phys)) true = none ∧
        rngFaults (chS (rgF 0x13 0x60000000 256 phys)) (op7 (rgF 0x13 0x60000000 256 phys)) = false ∧
        deadPage (chS (rgF 0x13 0x60000000 256 phys)) (op7 (rgF 0x13 0x60000000 256 phys)) = none ∧
        installRuns (deadS (rgF 0x13 0x60000000 256 phys) ((List.range 64).map (fun i => { first := 0x70000000 + 0x100000 * i, last := 0x70010000 + 0x100000 * i, posted := [] }))) (rngRuns (deadS (rgF 0x13 0x60000000 256 phys) []) (op7 (rgF 0x13 0x60000000 256 phys))) = none) ∧
    ((op7 (rgF 0x13 0x20000000 256 phys)).f 32 4 = 2 ^ 31 ∧
        rngBad (chS (rgF 0x13 0x20000000 256 phys)) (op7 (rgF 0x13 0x20000000 256 phys)) true = none ∧
        (chS (rgF 0x13 0x20000000 256 phys)).mem.dead = [] ∧
        bit (ringCfg (chS (rgF 0x13 0x20000000 256 phys)) 3) 6 = false ∧
            tentAt (rngAddr (op7 (rgF 0x13 0x20000000 256 phys))) = tentAt (rngAddr (op7 (rgF 0x13 0x20000000 256 phys)) + rngLen (op7 (rgF 0x13 0x20000000 256 phys)) - 1)) ∧
    ((op7 (rgF 0x13 0x60000000 256 (phys + 1))).f 32 4 = 2 ^ 31 + 1 ∧
        rngBad (deadS (rgF 0x13 0x60000000 256 (phys + 1)) [⟨0x5FFFFF80, 0x60000080, [], []⟩]) (op7 (rgF 0x13 0x60000000 256 (phys + 1))) true = none ∧
        (∀ d ∈ (deadS (rgF 0x13 0x60000000 256 (phys + 1)) [⟨0x5FFFFF80, 0x60000080, [], []⟩]).mem.dead, d.first % 128 = 0 ∧ d.first ≤ d.last)) ∧
    (opOf (chS (mapF 0x14 0x140000000)) 7 = some (op7 (mapF 0x14 0x140000000)) ∧
        mapBad (chS (mapF 0x14 0x140000000)) (op7 (mapF 0x14 0x140000000)) = some 3) ∧
    (mapBad (mapS 0x14) (op7 (mapF 0x14 0x140000000)) = none ∧ (op7 (mapF 0x14 0x140000000)).code = 0x14 ∧
        (mapSlots (mapS 0x14) (op7 (mapF 0x14 0x140000000))).length = 72 ∧
        (∀ x ∈ mapSlots (mapS 0x14) (op7 (mapF 0x14 0x140000000)), isSlot x.1 = true ∧ bit (entryAtSlot (mapS 0x14) 0 x.1) 0 = false)) ∧
    (mapBad (mapS 0x14) (op7 (mapF 0x14 0x180000000)) = none ∧ (∃ x ∈ mapSlots (mapS 0x14) (op7 (mapF 0x14 0x180000000)), x.1 = .bad)) ∧
    (((tget (fabS { epoch := [(3, { last := some 0 })] }).fab.epoch {} (unitKey (.core 3))).last.all (fun x => x + 10000 ≤ 10000)) = true ∧
        (tget (fabS { epoch := [(3, { last := some 0 })] }).fab.epoch {} (unitKey (.core 3))).last = some 0 ∧ 9999 < 0 + 10000) ∧
    (opOf (unmapS 10000) 7 = some (op7 (mapF 0x15 0x140000000)) ∧ mapBad (unmapS 10000) (op7 (mapF 0x15 0x140000000)) = none ∧
        (mapWays (unmapS 10000) (op7 (mapF 0x15 0x140000000))).foldl (fun m w => m.erase w) (unmapS 10000).mem.maps = [] ∧
        (unmapS 10000).mem.maps ≠ [] ∧ bumpSoon (unmapS 9999) 576 = true ∧ bumpSoon (unmapS 10000) 576 = false) ∧
    ((mapSlots (unmapS 10000) (op7 (mapF 0x15 0x140000000))).all (fun x => isSlot x.1 && entryAtSlot (unmapS 10000) 0 x.1 % 4 == 3 && !bit (entryAtSlot (unmapS 10000) 0 x.1) 3 && entryAddr (entryAtSlot (unmapS 10000) 0 x.1) == x.2) = true) := by
  and_intros <;> first | decide +kernel | (exact ⟨by decide, by decide +kernel, by decide⟩) | rfl | (intro _; rfl)


/-! Span. Ports 0 and 1 belong to partition 0 and accept any peer; messages for module 5 leave on port 1. -/
def spnS (p0 : Port) (p1 : Port := {}) (sp : Span := {}) : State :=
  { openS with span := { sp with ports := [(0, p0), (1, p1)] }
               dev := { openS.dev with ptab := openS.dev.ptab ++ [(0xC0100, 0xFFFF0000#32), (0xC0120, 0xFFFF0000#32), (0xC1014, 1#32)] } }
def up : Port := { st := 4, enable := true, width := 4, secure := true, credits := 8, peer := some 3, replay := [(5, 0, []), (6, 0, [])], lanes := [some ⟨0, 3, 0, false⟩] }
def good4 : List (Option LaneTrain) := (List.range 4).map (fun i => some ⟨3 - i, 3, 0, false⟩)
/-- A flit of type IDLE with SEQ 0 that acknowledges `ack` and returns three credits, no symbol in error. -/
def aFlit (ack : Nat) (nack : Bool := false) : Flit := { bytes := flitBytes { rxSeq := ack + 1, freed := 3 } 0 0 false nack [], errs := [] }
theorem aFlit_crc (a : Nat) (k : Bool) : crcOk (aFlit a k) = true := by
  have h (x : Bytes) (hx : x.length = 252) : crcOk { bytes := x ++ le 4 (crc32c x).toNat, errs := [] } = true := by
    have t : (x ++ le 4 (crc32c x).toNat).take 252 = x := by rw [← hx]; simp
    have f := fld_mid x [] 4 (crc32c x).toNat 252 hx
    rw [List.append_nil] at f
    have := (crc32c x).isLt
    rw [crcOk, t, f, Nat.mod_eq_of_lt (by omega)]
    exact beq_self_eq_true _
  exact h _ (by simp)
def at100ms (s : State) : State := { s with tick := 100000000 }

theorem witness_SpanPortsTrainRetrainAndStop :
    ((spnS {}).dev.st = .open_ ∧ bit (spnS {}).dev.spanOut 17 = false ∧ (portOf (spnS {}) 17).draining = false ∧
        (portOf (spnS {}) 17).enable = false) ∧
    ((portOf (spnS { draining := true }) 0).draining = true ∧ bit (spnS { draining := true }).dev.spanOut 0 = false) ∧
    ((portOf (spnS { draining := true, pend := true }) 0).pend = true) ∧
    ((portOf (spnS up) 0).pend = false ∧ (portOf (spnS up) 0).enable = true ∧ (spnS up).span.ops = []) ∧
    ((portOf (spnS { draining := true }) 0).draining = true ∧ (portOf (spnS { draining := true }) 0).pend = false) ∧
    ((portOf (spnS { st := 1 }) 0).st = 1 ∧ LaneSense.transmitter ∉ [LaneSense.open_, .receiver].take 4 ∧
        LaneSense.receiver ∈ [LaneSense.open_, .receiver].take 4 ∧ LaneSense.receiver ∉ [LaneSense.open_].take 4) ∧
    ((portOf (spnS { st := 1 }) 0).miswired = false ∧ LaneSense.transmitter ∈ [LaneSense.receiver, .transmitter].take 4) ∧
    ((portOf (spnS { st := 2 }) 0).st = 2 ∧ (portOf (spnS { st := 2 }) 0).lanes = [] ∧ (spnS { st := 2 }).span.ops = [] ∧
        keptId (good4.take 4) = some (3, 0) ∧ 3 ≠ spanAddr (spnS { st := 2 })) ∧
    ((portOf (spnS { st := 2, lanes := good4 }) 0).lanes.any (·.isSome) = true ∧
        widthOf (portOf (spnS { st := 2, lanes := good4 }) 0) [true, true, true, true] = 4 ∧
        widthOf (portOf (spnS { st := 2, lanes := good4 }) 0) [true, true, true] = 2 ∧
        widthOf (portOf (spnS { st := 2, lanes := good4 }) 0) [false, true] = 1) ∧
    ((portOf (spnS { up with st := 3 }) 0).st = 3 ∧ (spnS { up with st := 3 }).span.ops = [] ∧ (spnS { up with st := 3 }).span.wait = [] ∧
        bits (portCfg (spnS { up with st := 3 }) 0) 16 16 = 0xFFFF) ∧
    ((portOf (spnS { st := 7, reason := 1 }) 0).st = 7 ∧ (portOf (spnS { st := 7, reason := 1 }) 0).reason ≠ 3 ∧
        (portOf (spnS { st := 7, reason := 1 }) 0).reason ≠ 6 ∧ (portOf (spnS { st := 7, reason := 3 }) 0).reason = 3 ∧
        (portOf (spnS { st := 7, reason := 6 }) 0).reason = 6) ∧
    (portUp (spnS up) 0 = true ∧ RetrainCause.lockLoss ≠ .replays ∧
        ((portOf (spnS { up with retrains := [9, 5] }) 0).retrains.filter (fun t => (spnS up).tick < t + 100000000)).length < 3) ∧
    (portUp (spnS { up with retrains := [9, 5, 1] }) 0 = true ∧
        3 ≤ ((portOf (spnS { up with retrains := [9, 5, 1] }) 0).retrains.filter (fun t => (at100ms (spnS up)).tick < t + 100000000)).length) ∧
    ((portOf (spnS { up with st := 5, lanes := good4 }) 0).st = 5 ∧ widthOf (portOf (spnS { up with st := 5, lanes := good4 }) 0) [true, true] ≠ 0 ∧
        widthOf (portOf (spnS { up with st := 5, lanes := good4 }) 0) [] = 0 ∧ (spnS { up with st := 5, lanes := good4 }).span.wait = []) ∧
    ((portOf (spnS up) 0).st = 4 ∧ fecBad (aFlit 5) = 0 ∧ (portOf (spnS up) 0).discarding = false ∧ flitSeq (aFlit 5) = (portOf (spnS up) 0).rxSeq ∧
        flitAckNo (aFlit 5) = 5 ∧
        (∃ e ∈ (portOf (spnS up) 0).replay, e.1 = 5) ∧ (∀ e ∈ (portOf (spnS up) 0).replay, e.1 ≠ 7) ∧ flitNack (aFlit 5) = false ∧
            flitNack (aFlit 5 true) = true) ∧
    (crcOk (aFlit 5) = true ∧ crcOk (aFlit 5 true) = true) ∧
    ((portOf (spnS { up with discarding := true }) 0).discarding = true ∧ flitReplay (aFlit 5) = false) ∧
    (0 < fecBad { aFlit 5 with errs := [99, 0] } ∧ (portOf (spnS {}) 0).st = 0) ∧
    ((portOf (spnS { draining := true }) 0).draining = true ∧ (tget (spnS { draining := true }).fab.epoch {} 584).wait = 0 ∧
        81 + 17 / 6 ∉ (spnS {}).pwr.railOff ∧
        (tget (fabS { epoch := [(584, { wait := 1 })] }).fab.epoch {} (584 + 0)).wait ≠ 0) := by
  and_intros <;> first | decide +kernel | (exact aFlit_crc _ _) | rfl | (intro _; rfl)


/-- A group of two modules, 0 (this one) and 1 through ports 0 and 1, in a cached line of the mapped context. -/
def grpTab (n : Nat) : Bytes := le 4 9 ++ le 2 n ++ le 2 0 ++ le 8 0x100000 ++ le 8 4096 ++ le 8 0 ++ le 8 0xFFFFFFFF0000 ++ le 8 0xFFFF01000001
def colF (k n : Nat) : List (Nat × Nat × Nat) := [(0, 1, 0x20), (16, 1, k), (20, 4, 77), (24, 8, 0x1000), (32, 8, 0x2000), (40, 8, 0x4000), (48, 8, n)]
def sendF (c n : Nat) : List (Nat × Nat × Nat) := [(0, 1, c), (16, 8, 0x1000), (24, 2, 1), (28, 4, 77), (32, 8, 0x2000), (40, 8, n)]
def spS (fs : List (Nat × Nat × Nat)) (n : Nat := 2) (sp : Span := {}) : State :=
  let s := mapped (opS (spnS up up sp) fs)
  { s with mem := { s.mem with lines := s.mem.lines ++ [cached 0x40001000 (grpTab n)] } }
def theGroup : Group := { id := 9, rank := 0, scratch := 0x100000, scratchLen := 4096, ranks := [(0, []), (1, [0, 1])] }
def recvX : SpanOp := { op := 7, part := 0, ctx := 0, kind := 5, elem := 0, red := 0, seq := 77, grp := theGroup, src := 0x2000, dst := 0x2000, count := 64, running := true, peer := 1 }
def askX : SpanOp := { recvX with kind := 4, retry := [1] }

theorem witness_SpanOperationsAreAdmitted :
    (opOf (spS (colF 0 64)) 7 = some (op7 (colF 0 64)) ∧ (op7 (colF 0 64)).code = 0x20 ∧ (op7 (colF 0 64)).stage = 0 ∧ (op7 (colF 0 64)).f 16 1 = 0 ∧
        ((0, .allReduce 7) : Nat × Instr) ∈ ([(0, .allReduce 7)] : List (Nat × Instr))) ∧
    (collFieldsOk (op7 (colF 0 0)) = false ∧ collFieldsOk (op7 (colF 2 127)) = false ∧ collFieldsOk (op7 (colF 0 64)) = true ∧
        collFieldsOk (op7 (colF 3 4096)) = true) ∧
    (groupTable (spS (colF 0 64) 1) (op7 (colF 0 64)) 0x1000 = .inl 3 ∧ groupTable (spS (colF 0 64)) (op7 (colF 0 64)) 0x1000 = .inr theGroup) ∧
    (collApart (collOp openS (op7 (colF 0 4096)) theGroup) = false ∧ collApart (collOp openS (op7 (colF 0 64)) theGroup) = true ∧
        scratchNeed (collOp openS (op7 (colF 0 64)) theGroup) ≤ theGroup.scratchLen ∧
        collApart (collOp openS (op7 (colF 0 2048)) theGroup) = true ∧
            theGroup.scratchLen < scratchNeed (collOp openS (op7 (colF 0 2048)) theGroup)) ∧
    (opOf (spS (sendF 0x21 64)) 7 = some (op7 (sendF 0x21 64)) ∧ (op7 (sendF 0x21 64)).f 16 8 % 64 = 0 ∧ (op7 (sendF 0x21 64)).f 26 2 = 0 ∧
        (op7 (sendF 0x21 64)).f 32 8 % 128 = 0 ∧ allZero (slice (op7 (sendF 0x21 64)).desc 52 12) = true ∧
        1 ≤ (op7 (sendF 0x21 64)).f 40 8 ∧ (op7 (sendF 0x21 64)).f 40 8 ≤ 2 ^ 36 ∧ (op7 (sendF 0x21 64)).f 24 2 < theGroup.ranks.length ∧
            (op7 (sendF 0x21 64)).f 24 2 ≠ theGroup.rank) ∧
    (groupTable (spS (sendF 0x21 64)) (op7 (sendF 0x21 64)) 0x1000 = .inr theGroup ∧
        groupTable (spS (sendF 0x22 64)) (op7 (sendF 0x22 64)) 0x1000 = .inr theGroup) ∧
    ((op7 (sendF 0x21 64 ++ [(24, 2, 0)])).f 24 2 = theGroup.rank ∧ theGroup.ranks.length ≤ (op7 (sendF 0x21 64 ++ [(24, 2, 2)])).f 24 2 ∧
        (op7 (sendF 0x21 64 ++ [(16, 8, 32)])).f 16 8 % 64 ≠ 0) ∧
    (spOp (spS (sendF 0x22 64) 2 { ops := [recvX] }) 7 = some recvX ∧ 3 < recvX.kind ∧ (op7 (sendF 0x22 64 ++ [(48, 4, 1)])).f 48 4 ≠ 0 ∧
        0 + 100000 * (op7 (sendF 0x22 64 ++ [(48, 4, 1)])).f 48 4 ≤ (at100ms openS).tick ∧
        recvX.retry = [] ∧ (∀ y ∈ [recvX], y.op = 7 → y = recvX)) ∧
    ((op7 (colF 0 64)).f 56 4 = 0 ∧ (op7 (colF 0 64 ++ [(56, 4, 1)])).f 56 4 = 1 ∧ 99999 < 0 + 100000 * 1) ∧
    (spOp (spS (sendF 0x21 64) 2 { ops := [askX] }) 7 = some askX ∧ askX.retry = [1] ∧
        (pickPort (spS (sendF 0x21 64) 2 { ops := [askX] }) (rankPorts askX.grp 1)).isSome = true ∧
        ((askX.kind, 3) : Nat × Nat) ∈ ([(0, 2), (1, 2), (2, 2), (4, 3)] : List (Nat × Nat))) := by
  and_intros <;> decide +kernel


def aMsg (ty : Nat) : SpanMsg := { type := ty, info := 0, dst := 0, src := 3, group := 9, seq := 77, rank := 1, ttl := 8, offset := 0, poison := 0, payload := [] }
def inM (ty : Nat) : SpanIn := { port := 0, tagOk := true, epoch := 0, msg := aMsg ty }
def cmds (i : Nat → SpanIn) : List (Nat × Instr) :=
  [(1, .spanData (i 1)), (2, .spanReady (i 2)), (3, .spanReq (i 3)), (4, .spanClear (i 4)), (5, .spanDone (i 5)), (6, .spanCounts (i 6)), (7, .spanGo (i 7)), (8, .spanAbort (i 8)), (9, .spanNack (i 9)), (10, .spanRelease (i 10))]

theorem witness_SpanMessagesAreJudgedAndTaken :
    (((1, .spanData (inM 1)) : Nat × Instr) ∈ cmds inM ∧ (inM 1).msg.type = 1 ∧ (portOf (spnS {}) 0).st ≠ 4 ∧ (portOf (spnS up) 0).st = 4 ∧
        { inM 1 with epoch := 1 }.epoch ≠ epochOf (spnS up) 584 ∧ (inM 1).tagOk = true) ∧
    ({ inM 10 with tagOk := false }.tagOk = false ∧ (spnS up up).span.ops = []) ∧
    ({ aMsg 1 with dst := 5 }.dst ≠ spanAddr (spnS up up) ∧ 2 ≤ { aMsg 1 with dst := 5, ttl := 2 }.ttl ∧ spanFwd (spnS up up) 5 < 18 ∧
        portPart (spnS up up) (spanFwd (spnS up up) 5) = portPart (spnS up up) 0 ∧ portUp (spnS up up) (spanFwd (spnS up up) 5) = true ∧
        (inM 1).epoch = epochOf (spnS up up) 584) ∧
    (((2, .spanReady (inM 2)) : Nat × Instr) ∈ cmds inM ∧ (inM 2).msg.dst = spanAddr (spnS up) ∧ downOf (spnS up) (portPart (spnS up) 0) = none ∧
        portPart (spnS up) 0 ∉ (spnS up).evt.failed ∧ partExists (spnS up) (portPart (spnS up) 0) = true ∧
        holdRoom (spnS up) (portPart (spnS up) 0) = true) ∧
    (Judged (spnS up) (inM 2) ∧ Judged (spS (sendF 0x22 64) 2 { ops := [recvX] }) (inM 8)) := by
  exact ⟨by decide, by decide, by decide, by decide,
    by exact ⟨by unfold Judged; decide +kernel, by unfold Judged; decide +kernel⟩⟩


/-! The debugger. -/
/-- Partition 1 of `twoS` is confidential and LOCKED. -/
def lockedS : State := { twoS with trust := { twoS.trust with tdi := [(1, 1)] } }
def haltedG (c : Nat) : Grp := { theGrp with halt := some c, haltReq := true, active := 1#32 }
def dbgS (g : Grp) : State := debugged (grpS g)
def lsAt (s : State) (a : Nat) : State := { s with regs := { s.regs with w := tset s.regs.w 0x100020 (BitVec.ofNat 32 a) } }

theorem witness_DebuggerAndCoreResets :
    (dbgUp lockedS = true ∧ sealed lockedS 1 = true ∧ sealed lockedS 0 = false ∧ dbgUp State.reset = false) ∧
    (dbgUp (dbgS (haltedG 0x12)) = true ∧ attached (dbgS (haltedG 0x12)) 0 = true ∧
        (∀ c ∈ (dbgS (haltedG 0x12)).krn.cores, ∀ g ∈ c.2.grps, g.2.halt = some 0x12) ∧ partOfCore (dbgS (haltedG 0x12)) 0 = 0 ∧
        partOfCore (dbgS (haltedG 0x12)) 600 ≠ 0) ∧
    ((dbgS (haltedG 3)).krn.cores = [(0, { coreOf (dbgS (haltedG 3)) 0 with grps := [(0, haltedG 3)] })] ∧ (haltedG 3).halt = some 3 ∧
        launchOf (dbgS (haltedG 3)) (haltedG 3).launch = some theLaunch ∧ theLaunch.trap = none ∧ theLaunch.ended = false ∧
        dbgUp (dbgS (haltedG 3)) = true ∧ attached (dbgS (haltedG 3)) 0 = true ∧ partOfCore (dbgS (haltedG 3)) 0 = 0) ∧
    (dbgOn (dbgS (haltedG 0x12)) = true ∧
        grpOf (dbgS (haltedG 0x12)) (dbgCore (dbgS (haltedG 0x12))) (dbgSlot (dbgS (haltedG 0x12))) = some (haltedG 0x12) ∧
        (haltedG 0x12).halt.isSome = true) ∧
    (dbgOn (dbgS theGrp) = true ∧ grpOf (dbgS theGrp) (dbgCore (dbgS theGrp)) (dbgSlot (dbgS theGrp)) = some theGrp ∧ theGrp.halt = none) ∧
    (dbgOn (grpS theGrp) = false) ∧
    (grpOf (grpS { theGrp with haltReq := true }) 0 0 = some { theGrp with haltReq := true } ∧
        (∀ o ∈ (coreOf (grpS { theGrp with haltReq := true }) 0).outst, o.slot ≠ 0) ∧ theGrp.stepping = false ∧
        { theGrp with stepping := true }.stepping = true ∧ theGrp.haltReq = false) ∧
    (dbgReach (lsAt (dbgS (haltedG 0x12)) 64) = true ∧ dbgLsAddr (lsAt (dbgS (haltedG 0x12)) 64) % 4 = 0 ∧
        dbgLsAddr (lsAt (dbgS (haltedG 0x12)) 64) + 4 < 0x200000 ∧
        dbgLsAddr (lsAt (dbgS (haltedG 0x12)) 64) + 4 ≤ lsBytes (coreOf (dbgS (haltedG 0x12)) 0).split) ∧
    (dbgReach (dbgS theGrp) = true ∧ (∀ g ∈ (grpOf (dbgS theGrp) (dbgCore (dbgS theGrp)) (dbgSlot (dbgS theGrp))).toList, g.halt = none) ∧
        dbgReach State.reset = false) ∧
    ((dbgS theGrp).dev.st = .open_ ∧ ∃ x ∈ (coreOf (dbgS theGrp) 0).sets, x.launch = theLaunch.op) ∧
    ((coreOf (coreS { theCore with faults := 1 }) 0).faults = 1 ∧ (coreOf (dbgS theGrp) 0).faults ≠ 1 ∧ State.reset.dev.st ≠ .open_) := by
  and_intros <;> decide +kernel


/-! BAR4 of the PF maps partition 0 from 1 GiB. -/
def barS (out : List Nat := []) (busErr : Bool := false) : State :=
  let s := openS
  { s with mem := { s.mem with lines := [cached 0x40000000 [1#8, 2#8, 3#8], { cached 0x40000080 [] with pois := 1 }] }
           dev := { s.dev with linesOut := out, ptab := [(0x40000, if busErr then 0x402FF#32 else 0x400FF#32), (0x40008, 1#32)] } }

def deadBar : State := let s := barS [] true; { s with mem := { s.mem with dead := [⟨0x40000100, 0x40000100, [], []⟩] } }

theorem witness_HostApertureServesOrRefuses :
    (partOfFn openS 0 ∈ ({ openS with evt := { openS.evt with failed := [0] } } : State).evt.failed ∧ bar4Bad openS 0 0x10000000 4 = none ∧
        bar4Bad { openS with evt := { openS.evt with failed := [0] } } 0 0x10000000 4 = some 1) ∧
    (bar4Bad State.reset 0 0 4 = some 1 ∧ State.reset.dev.st ≠ .open_ ∧ partConf lockedS (partOfFn lockedS 2) = true) ∧
    (0x10000000 ∈ linesIn (bar4Base openS (partOfFn openS 0) + 0x10000000) 4 ∧ 0 ∈ linesIn (bar4Base openS (partOfFn openS 0) + 0) 4 ∧
        inReserve openS (partOfFn openS 0) 0 128 = true ∧ bar4Bad openS 0 0 4 = some 2) ∧
    (bar4Bad (barS [0x40000000]) 0 0 4 = some 2 ∧ outOfService (barS [0x40000000]) 0x40000000 = true ∧ (barS [0x40000000]).link.cfgReady = true ∧
        0 + 4 ≤ bar4Size (barS []) 0) ∧
    (bar4Bad deadBar 0 0x100 4 = none ∧ peek deadBar (bar4Base deadBar (partOfFn deadBar 0) + 0x100) 4 = none) ∧
    ((barS []).link.cfgReady = true ∧ 0 < 3 ∧ 0 + 3 ≤ bar4Size (barS []) 0 ∧ bar4Bad (barS []) 0 0 3 = none ∧
        peek (barS []) (bar4Base (barS []) (partOfFn (barS []) 0) + 0) 3 = some [(1#8, false), (2#8, false), (3#8, false)]) ∧
    (bar4Bad (barS []) 0 (2 ^ 30 - 4) 4 = none ∧ (2 ^ 30 - 4) + 4 ≤ bar4Size (barS []) 0) ∧
    (busMode (barS [] true) (partOfFn (barS [] true) 0) = true ∧ bar4Bad (barS [] true) 0 0 1 = none ∧ ([7#8] : Bytes) ≠ []) := by
  and_intros <;> decide +kernel


theorem witness_HostWritesReachTheirBytesOnly :
    (barGate (barS []) 0 false true {} = .served ∧ hostWaits (barS []) (partOfFn (barS []) 0) 3 = false ∧ ([7#8, 8#8, 9#8] : Bytes) ≠ [] ∧
        126 + 3 ≤ bar4Size (barS []) 0 ∧ bar4Bad (barS []) 0 126 3 = none ∧ 0x4000007E = bar4Base (barS []) (partOfFn (barS []) 0) + 126 ∧
        busMode (barS []) (partOfFn (barS []) 0) = false) ∧
    (Memory.wf (barS []) = true ∧ (∀ c ∈ (barS []).mem.lines, c.data.length = 128 ∧ c.line % 128 = 0 ∧ inHbm c.line = true ∧ c.pois < 4 ∧
        (∀ d ∈ (barS []).mem.lines, d.line = c.line → d = c)) ∧ (∀ c ∈ (barS []).mem.lines, c.dirty = true)) ∧
    (memQuiet (barS [])) ∧
    ((barS []).mem.dead = [] ∧ linesIn 0x4000007E 3 = [0x40000000, 0x40000080] ∧ cutOff (barS []) 8 (tentAt 0x40000000) = false ∧
        cutOff (barS []) 8 (tentAt 0x40000080) = false) := by
  exact ⟨by decide +kernel, by decide +kernel, by exact ⟨rfl, rfl, rfl, rfl⟩, by decide +kernel⟩


/-! Functions. -/
def linkS (l : Link → Link) (s : State := twoS) : State := { s with link := l s.link }
def tdiS (p v : Nat) (s : State := twoS) : State := { s with trust := { s.trust with tdi := [(p, v)] } }

theorem witness_FunctionsAndDeviceInterfaces :
    ((linkS (fun l => { l with vfShut := true, numVfs := 0 })).link.cfgReady = true ∧
        (linkS (fun l => { l with vfShut := true, numVfs := 0 })).link.vfShut = true ∧
        (linkS (fun l => { l with numVfs := 0 })).link.vfShut = false ∧ (linkS (fun l => { l with numVfs := 0 })).link.numVfs = 0 ∧ 8 ≤ 8) ∧
    ((linkS (fun l => { l with vfPend := some 3, vfShut := true })).link.vfPend = some 3 ∧
        (linkS (fun l => { l with vfPend := some 3, vfShut := true })).link.vfShut = true) ∧
    (twoS.link.vfPend = none ∧ twoS.link.numVfs ≠ 0 ∧ single twoS = false ∧ 2 ≤ twoS.link.numVfs ∧ twoS.link.cfgReady = true) ∧
    (lockedTdi lockedS (2 - 1) = true ∧ lockedTdi twoS (2 - 1) = false ∧ downOf twoS (2 - 1) = none ∧ partExists twoS (2 - 1) = true ∧
        downOf { twoS with down := [⟨1, 1, false, true⟩] } (2 - 1) ≠ none) ∧
    (partConf twoS (1 - 1) = false ∧ partConf twoS (2 - 1) = true ∧ tget twoS.trust.tdi 0 (2 - 1) = 0 ∧ twoS.trust.tapOpen = false ∧
        { twoS with trust := { twoS.trust with tapOpen := true } }.trust.tapOpen = true) ∧
    (tget lockedS.trust.tdi 0 (2 - 1) = 1 ∧ downOf lockedS (2 - 1) = none ∧ tget twoS.trust.tdi 0 (2 - 1) ≠ 1) := by
  and_intros <;> decide


/-- A load of core 0 waits for a word of host memory. -/
def loadS : State :=
  let s := coreS { theCore with outst := [{ id := 5, slot := 0, launch := 7, lanes := [(3, 0x1004)], width := 4, dst := 9, kind := 0 }] }
  { s with link := { s.link with reads := [⟨77, 0, 0x1000, 64, .core 0 5, 0⟩] } }

def inValS (x : List (Nat × Nat × Nat)) : State := { loadS with link := { loadS.link with inval := x } }
theorem witness_FunctionPowerInterruptsAndAnswers :
    ((inValS [(0, 0x1FFF, 1)]).link.reads = [⟨77, 0, 0x1000, 64, .core 0 5, 0⟩] ∧ (inValS [(0, 0x1FFF, 1)]).link.inval = [(0, 0x1FFF, 1)]) ∧
    (twoS.link.cfgReady = true ∧ 2 ≤ twoS.link.numVfs) ∧
    (2 ∈ (linkS (fun l => { l with d3 := [2], held := [.interrupt 2 1, .interrupt 1 1] })).link.d3 ∧
        (∀ o ∈ twoS.rng.ops, o.code = 8 → o.stage = 1 → opFn twoS o ≠ 2)) ∧
    (64 * 2 + 63 ∈ (linkS (fun l => { l with pba := [191] })).link.pba ∧ 2 ∉ (linkS (fun l => { l with pba := [191] })).link.d3 ∧
        64 * 2 + 63 ∉ twoS.link.pba) ∧
    (∃ r ∈ loadS.link.reads, r.fn = 0 ∧ 0x1FFF / 4096 ≤ r.addr / 4096 ∧ r.addr / 4096 ≤ (0x1FFF + 1 - 1) / 4096) ∧
    (∀ r ∈ loadS.link.reads, r.fn = 0 → r.addr / 4096 < 0x2000 / 4096 ∨ (0x2000 + 1 - 1) / 4096 < r.addr / 4096) ∧
    (loadS.link.reads.find? (fun r => r.tag == 77) = some ⟨77, 0, 0x1000, 64, .core 0 5, 0⟩ ∧ (outstOf (coreOf loadS 0) 5).isSome = true ∧
        grpOf loadS 0 0 = some theGrp ∧ busMode loadS (partOfCore loadS 0) = false) ∧
    (launchOf loadS theGrp.launch = some theLaunch ∧ theLaunch.ended = false ∧ theLaunch.trap = none ∧ attached loadS theLaunch.part = false ∧
        ∀ r ∈ loadS.link.reads, r.tag ≠ 78) := by
  and_intros <;> decide +kernel


def connS (s : State) (cs : Tab Conn) : State := { s with trust := { s.trust with conns := cs } }

theorem witness_ResponderAnswersAndKeysAreGuarded :
    ((atSt .pitching).dev.st = .pitching ∧ (atSt .pitching).link.cfgReady = true ∧ posting lockedS = true ∧ 4 % 2 = 0) ∧
    ((connOf (connS lockedS [(4, { signed := some [1#8], chunk := [2#8] })]) 4).signed = some [1#8] ∧
        (connOf (connS lockedS [(4, { signed := some [1#8], chunk := [2#8] })]) 4).chunk ≠ []) ∧
    ((connOf (connS lockedS ([0, 2, 6, 8].map (fun c => (c, { secured := true })))) 4).secured = false ∧
        4 ≤ secured (connS lockedS ([0, 2, 6, 8].map (fun c => (c, { secured := true }))))) ∧
    ((connOf (connS lockedS [(4, { secured := true })]) 4).secured = true ∧ sealed (connS lockedS [(4, { secured := true })]) 1 = true ∧ 15 < 16 ∧
        (zeros 32).length = 32 ∧ downOf (connS lockedS [(4, { secured := true })]) 1 = none ∧ lockedS.trust.log.length < 16384) ∧
    (sealed lockedS 0 = false ∧ 16 ≤ 16 ∧ (zeros 31).length ≠ 32 ∧ downOf { lockedS with down := [⟨1, 1, false, true⟩] } 1 ≠ none) := by
  and_intros <;> decide


/-- PITCHED and unlocked, with the register file given. -/
def pitS (w : Tab Word := []) : State := let s := atSt .pitched; { s with regs := { s.regs with w := w }, link := { s.link with memSpace := [0] } }

theorem witness_RegisterWritesObeyTheMap :
    (barGate pitS 0 false false {} = .served ∧ barGate openS 0 false false {} = .served ∧ barGate openS 0 true false {} = .served ∧
        barGate twoS 2 false false {} = .served ∧ barGate (opS openS []) 0 false false {} = .served ∧ 0x200D0 < 2 ^ 25) ∧
    (8 ≠ 4 ∧ 0x102 % 4 ≠ 0 ∧ regAt pitS 0 0x102 = none ∧ regAt State.reset 0 0x108 = none) ∧
    (regAt pitS 0 0x204 = some 0x204 ∧ selMask 0x204 = some 0x3F ∧ 0x204 < 0x100008) ∧
    (regAt pitS 0 0x80000 = some 0x80000 ∧ selMask 0x80000 = none ∧ instOk pitS 0 0x80000 = true ∧
        rwlList.find? (fun r => r.off = 0x80000 && r.inst = instOf pitS 0 0x80000) = some ⟨0x80000, 0, 0x1FFF, 3600⟩ ∧ pitS.dev.commitOp = none ∧
        pitS.dev.locked = false ∧ pitS.dev.st = .pitched) ∧
    (regAt pitS 0 0x4001C = some 0x4001C ∧ instOk pitS 0 0x4001C = true ∧
        rwlList.find? (fun r => r.off = 0x4001C && r.inst = instOf pitS 0 0x4001C) = some ⟨0x4001C, 0, 0xFFFFFFFF, 0x200000⟩ ∧
        lockedTdi pitS (0x4001C / 0x1000 - 0x40) = false) ∧
    (regAt twoS 2 0x41000 = some 0x41000 ∧
        rwlList.find? (fun r => r.off = 0x41000 && r.inst = instOf twoS 2 0x41000) = some ⟨0x41000, 0, 0x00FF03FF, 0x40000⟩ ∧
        twoS.dev.locked = true ∧ 1 ≤ 2) ∧
    (regAt lockedS 0 0x41024 = some 0x41024 ∧ lockedTdi lockedS (0x41024 / 0x1000 - 0x40) = true ∧ selMask 0x41024 = none) ∧
    (regAt (opS openS []) 0 0x200D0 = some 0x200D0 ∧ (ringOf (opS openS []) ((0x200D0 - 0x20000) / 0x40)).st ≠ 0) ∧
    (lowWord 0x20000 = true ∧ regAt openS 0 0x20000 = some 0x20000 ∧ regAt openS 0 0x100008 = some 0x100008 ∧ sealed openS (dbgPart openS) = false ∧
        manyCtl (3#32).toNat = true) ∧
    (regAt openS 0 0x108 = some 0x108 ∧ regAt openS 0 0x200D8 = some (0x20018 + 0x40 * 3) ∧ regAt openS 0 0xE0010 = some 0xE0010 ∧ bit 1 0 = true ∧
        bit 0 0 = false ∧ regAt openS 0 0x10000C = some 0x10000C) ∧
    (regAt openS 0 0xA0000 = some 0xA0000 ∧ roLowWord 0xA0000 = true ∧ regAt openS 0 0x20000 = some 0x20000 ∧ roLowWord 0x20000 = false ∧
        roLowWord 0x204 = false ∧ lowWord 0x204 = false ∧ regAt openS 0 0x204 = some 0x204) ∧
    (regOk State.reset 0 0x80000 = false ∧ regOk openS 0 0x80000 = true ∧ fnThere openS 1 = false ∧ fnThere twoS 2 = true ∧
        lockedTdi lockedS (2 - 1) = true ∧ 6 ≤ 6) := by
  and_intros <;> decide +kernel


/-! Requests at a slice. Line 0x20000080 is cached, line 0x20000100 is not. -/
def rdQ (line : Nat) (act : MemDo := .read) (id : Nat := 1) : MemReq := { id, src := .core 0, cls := 1, line, act }
def slS (f : Mem → Mem) : State := let s := cmpS []; { s with mem := f { s.mem with lines := s.mem.lines.take 2 } }
def reqS (r : MemReq) (f : Mem → Mem := id) : State := slS (fun m => f { m with reqs := [r] })
def addR : MemDo := .red .add .int32 [(4, 7)] 0
def kA : Nat := sliceAt 0x20000080
def kB : Nat := sliceAt 0x20000100
def aMiss : Miss := { slice := kB, line := 0x20000100, merged := [], mpois := 0, waiters := [], multicast := false, ref := true }
/-- The column of the slice of 0x20000100 is retired, so no line may be installed there. -/
def fullWays (s : State) : State := { s with fab := { s.fab with cut := [8 * (kB / 48) + kB % 48 / 6] } }


theorem witness_SlicesServeRequestsFillsAndReductions :
    (nextReq (slS id) 5 = none ∧ nextReq (reqS (rdQ 0x100000000000)) (sliceAt 0x100000000000) = some (rdQ 0x100000000000) ∧
        backed (reqS (rdQ 0x100000000000)) 0x100000000000 = false) ∧
    (nextReq (reqS (rdQ 0x20000080)) kA = some (rdQ 0x20000080) ∧ backed (reqS (rdQ 0x20000080)) 0x20000080 = true ∧ isRed MemDo.read = false ∧
        (resident (reqS (rdQ 0x20000080)) 0x20000080).isSome = true ∧ (reqS (rdQ 0x20000080)).fab.downSvc = []) ∧
    (nextReq (reqS (rdQ 0x20000080 addR)) kA = some (rdQ 0x20000080 addR) ∧ inPlot 0x20000080 = false ∧ isRed addR = true ∧
        (resident (reqS (rdQ 0x20000080 addR)) 0x20000080).isSome = true) ∧
    (nextReq (reqS (rdQ 0x20000100) (fun m => { m with miss := [aMiss] })) kB = some (rdQ 0x20000100) ∧
        resident (reqS (rdQ 0x20000100)) 0x20000100 = none ∧
        missOf (reqS (rdQ 0x20000100) (fun m => { m with miss := [aMiss] })) 0x20000100 = some aMiss ∧
        backed (reqS (rdQ 0x20000100)) 0x20000100 = true) ∧
    (nextReq (reqS (rdQ 0x20000100) (fun m => { m with dead := [⟨0x20000100, 0x20000100, [], []⟩] })) kB = some (rdQ 0x20000100) ∧
        deadAt (reqS (rdQ 0x20000100) (fun m => { m with dead := [⟨0x20000100, 0x20000100, [], []⟩] })) 0x20000100 = some ⟨0x20000100, 0x20000100, [], []⟩) ∧
    (nextReq (reqS (rdQ 0x20000100)) kB = some (rdQ 0x20000100) ∧ missOf (reqS (rdQ 0x20000100)) 0x20000100 = none ∧
        deadAt (reqS (rdQ 0x20000100)) 0x20000100 = none ∧ wholeWrite MemDo.read = false) ∧
    (nextReq (fullWays (reqS (rdQ 0x20000100 addR))) kB = some (rdQ 0x20000100 addR) ∧
        victim (fullWays (reqS (rdQ 0x20000100 addR))) (sliceAt 0x20000100) (setAt 0x20000100) = none) ∧
    ((slS id).mem.miss.find? (fun m => m.slice == kB && m.line == 0x20000100) = none ∧
        (slS (fun m => { m with miss := [aMiss] })).mem.miss.find? (fun m => m.slice == kB && m.line == 0x20000100) = some aMiss ∧
        sectorPois (slS id) 0x20000100 = false ∧ sectorPois (slS id) (0x20000100 + 64) = false) ∧
    ((slS (fun m => { m with redq := [rdQ 0x20000080 addR] })).mem.redq.find? (fun r => sliceAt r.line == kA) = some (rdQ 0x20000080 addR) ∧
        busAt (slS id) 0x20000080 = false ∧ (∀ x ∈ (slS id).mem.lines, x.line = 0x20000080 → some x = resident (slS id) 0x20000080) ∧
        (slS id).mem.redq = []) ∧
    ((slS (fun m => { m with msa := [rdQ 0x20000100 addR] })).mem.msa.find? (fun r => sliceAt r.line == kB) = some (rdQ 0x20000100 addR) ∧
        redHalves addR = [0] ∧ busAt (slS id) 0x20000100 = false ∧ (slS id).mem.msa = []) ∧
    (away (reqS (rdQ 0x20000080)) (rdQ 0x20000080) = none ∧ away (reqS (rdQ 0x100000000000)) (rdQ 0x100000000000) = some .bus ∧
        wholeWrite (.write ((List.range 128).map (fun i => (i, 0))) 0) = true ∧
        fillable (slS (fun m => { m with miss := [aMiss] })) kB 0x20000100 = true ∧ fillable (slS id) kB 0x20000100 = false) ∧
    ((slS id).mem.reqs = [] ∧ servedAt (slS id) 0x20000080 = kA ∧ resident (slS id) 0x20000080 ≠ none ∧
        (lineIn (slS id) kA (setAt 0x20000080) 0).isSome = true ∧
        (deadIn (slS (fun m => { m with dead := [⟨0x20000100, 0x20000100, [], []⟩] })) kB)[0]? = some ⟨0x20000100, 0x20000100, [], []⟩) ∧
    (busAt (barS [] true) 0x40000000 = true ∧ freshLine (barS [] true) 0x40000000 { parity := 4 } {} = true ∧ upsetAt (slS id) 0x20000080 = 0) := by
  and_intros <;> decide +kernel


/-! Groups. Lane 0 and lane 1 run; `rg` gives registers as 256 × lane + register. -/
def duo (rs : List (Nat × Word)) (po : List Nat := []) : Grp := { theGrp with live := 3#32, active := 3#32, regs := rs, pois := po }
def solo (rs : List (Nat × Word)) (po : List Nat := []) : Grp := { duo rs po with live := 1#32, active := 1#32 }
/-- The group issues: register 9 of each lane is the one that instructions name. -/
def deep (g : Grp) (n : Nat) : Grp := { g with stack := List.replicate n (.pend 4096 2#32 4096) }
def noCode : State := let s := grpS theGrp; { s with krn := { s.krn with bundles := [] } }

theorem witness_GroupsIssueBranchAndReconverge :
    (∀ rs, issuable openS iss rs = none) ∧
    (issuable (grpS theGrp) iss [] = some (theLaunch, theSet, theGrp) ∧ issuable noCode iss [] = some (theLaunch, theSet, theGrp) ∧
        fetchTrap noCode theLaunch 0 0 16 = some 1) ∧
    (issuable (grpS (duo [(9, 1#32)] [265])) iss [9] = some (theLaunch, theSet, duo [(9, 1#32)] [265]) ∧
        fetchTrap (grpS (duo [(9, 1#32)] [265])) theLaunch 0 0 16 = none ∧
        (∃ x ∈ actives (duo [(9, 1#32)] [265]), regPois (duo [(9, 1#32)] [265]) x 9 = true)) ∧
    (issuable (grpS (duo [])) iss [9] = some (theLaunch, theSet, duo []) ∧ (∀ x ∈ actives (duo []), regPois (duo []) x 9 = false) ∧
        (∀ x ∈ actives (duo []), regVal 0 (duo []) x 9 = 0) ∧ (duo []).stepping = false) ∧
    (issuable (grpS (duo [(9, 1#32), (265, 2#32)])) iss [9] = some (theLaunch, theSet, duo [(9, 1#32), (265, 2#32)]) ∧
        (∀ x ∈ actives (duo [(9, 1#32), (265, 2#32)]), regVal 0 (duo [(9, 1#32), (265, 2#32)]) x 9 ≠ 0)) ∧
    (issuable (grpS (duo [(265, 2#32)])) iss [9] = some (theLaunch, theSet, duo [(265, 2#32)]) ∧
        2#32 = maskOf ((actives (duo [(265, 2#32)])).filter (fun x => truth (regVal 0 (duo [(265, 2#32)]) x 9))) ∧
        2#32 ≠ (duo [(265, 2#32)]).active ∧ 2#32 ≠ (0 : Word) ∧ stackFull (deep (duo [(265, 2#32)]) 31) 1 = false ∧
        stackFull (deep (duo [(265, 2#32)]) 32) 1 = true) ∧
    (issuable (grpS (duo [(9, 64#32), (265, 64#32)])) iss [9] = some (theLaunch, theSet, duo [(9, 64#32), (265, 64#32)]) ∧
        (∀ x ∈ actives (duo [(9, 64#32), (265, 64#32)]), regPois (duo [(9, 64#32), (265, 64#32)]) x 9 = false ∧
        (regVal 0 (duo [(9, 64#32), (265, 64#32)]) x 9).toNat = 64)) ∧
    (issuable (grpS (duo [(9, 64#32), (265, 64#32)])) iss [9, 30] = some (theLaunch, theSet, duo [(9, 64#32), (265, 64#32)]) ∧
        fetchTrap (grpS (duo [(9, 64#32), (265, 64#32)])) theLaunch 0 0 16 = none) ∧
    ({ duo [] with stack := [.pend 8 2#32 64], pc := 64 }.stack = .pend 8 2#32 64 :: [] ∧
        { duo [] with stack := [.pend 8 2#32 64], pc := 64 }.active ≠ 0#32 ∧ (8 : Nat) ≠ 64 ∧
        { duo [] with stack := [.join 64 1#32], pc := 64 }.stack = [.join 64 1#32]) := by
  and_intros <;> first | decide +kernel | (exact fun _ => rfl) | rfl | (intro _; rfl)


def lockedG (a : Nat) : Grp := { solo [(9, BitVec.ofNat 32 a)] with locks := [(0, a)] }
/-- The group's set with a lock word at local address 64. -/
def lockS (g : Grp) (w : Nat) : State := let s := grpS g; setCore s 0 (lsWrite 0 (coreOf s 0) 64 (le 8 w) false)
def barS' (g : Grp) (b : Bar) : State := coreS { theCore with grps := [(0, g)], sets := [{ theSet with bars := [(1, b)] }] }
def parkG : Grp := { theGrp with live := 3#32, active := 0#32, parked := [⟨0, .barrier 1, 0, 32⟩, ⟨1, .barrier 1, 0, 32⟩], spin := true }

theorem witness_ExitBarriersAndLocks :
    (issuable (grpS (lockedG 64)) iss [] = some (theLaunch, theSet, lockedG 64) ∧ fetchTrap (grpS (lockedG 64)) theLaunch 0 0 16 = none ∧
        (∃ x ∈ actives (lockedG 64), ∃ k ∈ (lockedG 64).locks, k.1 = x)) ∧
    ((∀ x ∈ actives theGrp, ∀ k ∈ theGrp.locks, k.1 ≠ x) ∧ theLaunch.entry.barriers ≤ 2 ∧ 1 < theLaunch.entry.barriers) ∧
    (tfind { theSet with bars := [(1, ⟨0, 1, 0⟩)] }.bars 1 = some ⟨0, 1, 0⟩ ∧
        1 < liveThreads (barS' parkG ⟨0, 1, 0⟩) 0 { theSet with bars := [(1, ⟨0, 1, 0⟩)] } ∧
        liveThreads (barS' parkG ⟨0, 2, 0⟩) 0 { theSet with bars := [(1, ⟨0, 2, 0⟩)] } ≤ 2 ∧ grpOf (barS' parkG ⟨0, 2, 0⟩) 0 0 = some parkG ∧
        0 ∈ theSet.slots ∧ parkedAt (.barrier 1) parkG ≠ []) ∧
    (issuable (lockS (solo [(9, 60#32)]) 0) iss [9] = some (theLaunch, theSet, solo [(9, 60#32)]) ∧
        lockBad theSet 0 (solo [(9, 60#32)]) 9 = some 0xA ∧ lockBad theSet 0 (solo [(9, 1024#32)]) 9 = some 3 ∧
        lockBad theSet 0 (solo [(9, 1016#32)]) 9 = none ∧ lockBad theSet 0 (solo [(9, 64#32)] [9]) 9 = some 5) ∧
    (issuable (lockS (solo [(9, 64#32)]) 0) iss [9] = some (theLaunch, theSet, solo [(9, 64#32)]) ∧
        fetchTrap (lockS (solo [(9, 64#32)]) 0) theLaunch 0 0 16 = none ∧
        (∃ x ∈ actives (solo [(9, 64#32)]), lsWord (lockS (solo [(9, 64#32)]) 0) 0 (theSet.lsBase + (regVal 0 (solo [(9, 64#32)]) x 9).toNat) ≠ lockWord 0 x)) ∧
    (issuable (lockS (lockedG 64) (lockWord 0 0)) iss [9] = some (theLaunch, theSet, lockedG 64) ∧
        (∀ x ∈ actives (lockedG 64), lsWord (lockS (lockedG 64) (lockWord 0 0)) 0 (theSet.lsBase + (regVal 0 (lockedG 64) x 9).toNat) = lockWord 0 x)) ∧
    (grpOf (lockS (solo []) 0) 0 0 = some (solo []) ∧ lsWord (lockS (solo []) 0) 0 (theSet.lsBase + 64) = 0 ∧ 31 < 32 ∧
        cellsWf (lsDefault 0 (coreOf (lockS (solo []) 0) 0)) (coreOf (lockS (solo []) 0) 0).ls = true ∧
        lsWord (lockS (solo []) (lockWord 3 4)) 0 (theSet.lsBase + 64) ≠ 0) := by
  and_intros <;> decide +kernel


theorem witness_VectorResultsPerLane :
    (issuable (grpS (duo [(9, 5#32), (265, 6#32)])) iss (20 :: 21 :: [Src.reg 9, .imm 7].flatMap srcRegs) = some (theLaunch, theSet, duo [(9, 5#32), (265, 6#32)]) ∧ fetchTrap (grpS (duo [(9, 5#32), (265, 6#32)])) theLaunch 0 0 16 = none) ∧
    ([Src.reg 9, .imm 7].length = vopArity (.add .int32) ∧ [Src.reg 9].length ≠ vopArity (.add .int32) ∧ 31 < 32 ∧ ofFp32 0x7FC00001#32 = .nan) ∧
    (vecRes (grpS (duo [(9, 5#32), (265, 6#32)])) iss theLaunch (duo [(9, 5#32), (265, 6#32)]) (.add .int32) [.reg 9, .imm 7] = some [(0, 12, false), (1, 13, false)]) := by
  exact ⟨by decide +kernel, by decide, by decide +kernel⟩


theorem witness_TalliesActOverTheActiveMask :
    ([0, 1] = lanesOf (maskOf [0, 1]) ∧ 1 ∈ [0, 1] ∧ (∀ x ∈ [0, 1], (fun _ => 7#32 : Nat → Word) x = 7#32) ∧
        (∃ x ∈ [0, 1], (fun n => BitVec.ofNat 32 n : Nat → Word) x ≠ 1#32)) ∧
    (issuable (grpS (duo [(9, 5#32)])) iss (20 :: 21 :: (srcRegs (.reg 9)).take 1) = some (theLaunch, theSet, duo [(9, 5#32)]) ∧
        fetchTrap (grpS (duo [(9, 5#32)])) theLaunch 0 0 16 = none ∧ 20 ≠ 21 ∧ (duo [(9, 5#32)]).stepping = false) := by
  exact ⟨by decide, by decide +kernel⟩


theorem witness_LaneExchangesTakeTheirSourceLane :
    (4 = 2 ∨ 4 = 4 ∨ 4 = 8 ∨ 4 = 16 ∨ 4 = 32) ∧
    (issuable (grpS (duo [(9, 5#32), (265, 6#32)])) iss (20 :: 21 :: [Src.reg 9, .imm 1, .imm 77].flatMap (fun q => (srcRegs q).take 1)) = some (theLaunch, theSet, duo [(9, 5#32), (265, 6#32)]) ∧ fetchTrap (grpS (duo [(9, 5#32), (265, 6#32)])) theLaunch 0 0 16 = none ∧ (20 : Nat) ≠ 21) ∧
    (xlnLane .below 1 (srcVal 0 (duo [(9, 5#32), (265, 6#32)]) 1 (.imm 1)).1.toNat 4 = some 0 ∧
        (duo [(9, 5#32), (265, 6#32)]).active.getLsbD 0 = true ∧ xlnLane .below 0 1 4 = none ∧ xlnLane .above 1 1 4 = some 2 ∧
        (duo []).active.getLsbD 2 = false) := by
  exact ⟨by decide, by decide +kernel, by decide +kernel⟩


/-! Memory instructions of one lane: its address register is 9 (with 10 for a virtual address), its data register 12. -/
def lsA (store : Bool) (sp : Space := .local_) (w : Nat := 4) : LsArgs := { store, space := sp, width := w, addr := 9, off := 0, data := 12, cls := none }
def lsR (a : LsArgs) : List Nat := pairRegs a.space a.addr ++ (List.range (cdiv a.width 4)).map (· + a.data)
def atA (k : AtomKind) (sp : Space := .local_) : AtomArgs := { kind := k, space := sp, addr := 9, off := 0, src := 14, cmp := 16 }
/-- Address 64, data 0x11223344, operand 5; the word at local address 64 holds 7. -/
def mG (a : Word := 64#32) : Grp := solo [(9, a), (12, 0x11223344#32), (14, 5#32), (16, 7#32)]
def mS (g : Grp) : State := let s := grpS g; setCore s 0 (lsWrite 0 (coreOf s 0) 64 (le 4 7) true)
def fenceG : Grp := { mG with fencing := true }
/-- The fencing group waits for a store of its own. -/
def fenceS (g : Grp) : State := coreS { theCore with grps := [(0, g)], outst := [{ id := 5, slot := 0, launch := 7, lanes := [], width := 4, dst := 0, kind := 1 }] }

theorem witness_LocalLoadsStoresAndAtomics :
    (tgtAt (mS mG) theLaunch theSet .local_ true 4 (1020, false) = .ls (theSet.lsBase + 1020) ∧ 1020 % 4 = 0 ∧ 1020 + 4 ≤ theSet.lsLen ∧
        theSet.lsLen < 1024 + 4 ∧ 66 % 4 ≠ 0) ∧
    (issuable (mS mG) iss (lsR (lsA false)) = some (theLaunch, theSet, mG) ∧ fetchTrap (mS mG) theLaunch 0 0 16 = none ∧
        fenced (mS mG) iss mG = false ∧ actives mG = [0] ∧ tgtAt (mS mG) theLaunch theSet .local_ false 4 (laneAddr 0 mG .local_ 0 9 0) = .ls 64 ∧
        tgtAt (mS mG) theLaunch theSet .local_ true 4 (laneAddr 0 mG .local_ 0 9 0) = .ls 64 ∧ mG.stepping = false) ∧
    (issuable (mS (mG 66#32)) iss (lsR (lsA true)) = some (theLaunch, theSet, mG 66#32) ∧
        tgtAt (mS (mG 66#32)) theLaunch theSet .local_ true 4 (laneAddr 0 (mG 66#32) .local_ 0 9 0) = .bad 2) ∧
    (cellsWf (lsDefault 0 (coreOf (mS mG) 0)) (coreOf (mS mG) 0).ls = true ∧
        issuable (mS mG) iss (atomRegs (atA (.ret .add false 20))) = some (theLaunch, theSet, mG)) := by
  exact ⟨by decide +kernel, by decide +kernel, by decide +kernel, by decide +kernel⟩


theorem witness_MemoryAccessesGoThroughTheL1 :
    (issuable (fenceS fenceG) iss (lsR (lsA false)) = some (theLaunch, theSet, fenceG) ∧ fetchTrap (fenceS fenceG) theLaunch 0 0 16 = none ∧
        fenced (fenceS fenceG) iss fenceG = true) ∧
    (issuable (mS mG) iss (lsR (lsA false .virt)) = some (theLaunch, theSet, mG) ∧
        tgtAt (mS mG) theLaunch theSet .virt false 4 (laneAddr 0 mG .virt 0 9 0) = .mem 0x40000040 ∧ l1Hit (coreOf (mS mG) 0) 0x40000040 4 = none ∧
        l1Find (coreOf (mS mG) 0) (lineOf 0x40000040) = none ∧ hasLimit (mS mG) (portKey 0 0 (accessCls theLaunch none)) = false) ∧
    (tgtAt (mS mG) theLaunch theSet .virt true 4 (laneAddr 0 mG .virt 0 9 0) = .mem 0x40000040 ∧ regPois mG 0 12 = false ∧
        (coreOf (mS mG) 0).split ≤ 4 ∧ 0x40000040 % 4 = 0) ∧
    (issuable (mS mG) iss (atomRegs (atA (.ret .add false 20) .virt)) = some (theLaunch, theSet, mG) ∧ atomOk (.ret .add false 20) = true ∧
        Space.virt ≠ .local_ ∧ (atomArgs 0 mG (atA (.ret .add false 20) .virt) 0).2.2 = false ∧
        hasLimit (mS mG) (portKey 0 0 theLaunch.cls) = false) := by
  exact ⟨by decide +kernel, by decide +kernel, by decide +kernel, by decide +kernel⟩


theorem witness_TrapsFencesAndSpin :
    (grpOf (debugged (mS mG)) 0 0 = some mG ∧ launchOf (debugged (mS mG)) mG.launch = some theLaunch ∧
        attached (debugged (mS mG)) theLaunch.part = true ∧ attached (mS mG) theLaunch.part = false ∧ theLaunch.ended = false ∧
        theLaunch.trap = none) ∧
    ({ theLaunch with ended := true, trap := some (3, 5, 0, 2) }.ended = true ∧
        { theLaunch with ended := true, trap := some (3, 5, 0, 2) }.trap = some (3, 5, 0, 2) ∧ 3 < { openS with tick := 4 }.tick) ∧
    (issuable (mS mG) iss [] = some (theLaunch, theSet, mG) ∧ fenced (mS mG) iss mG = false ∧ (coreOf (mS mG) 0).l1 = [] ∧
        issuable (fenceS fenceG) iss [] = some (theLaunch, theSet, fenceG) ∧ fenced (fenceS fenceG) iss fenceG = true) ∧
    (grpOf (grpS { mG with spin := true }) 0 0 = some { mG with spin := true } ∧ theLaunch.spin ≠ 0xFFFF ∧
        grpRuns (grpS { mG with spin := true }) 0 0 { mG with spin := true } = true ∧ mG.spin = false) := by
  exact ⟨by decide +kernel, by decide, by decide +kernel, by decide +kernel⟩


/-! The arrays: one row, one column, K 2, FP32: 1 · 3 + 2 · 4, with the operands in the set's local store. -/
def mmaD (b3 : Nat) (fs : List (Nat × Nat × Nat) := []) : Bytes :=
  desc ([(3, 1, b3), (4, 4, 2), (8, 2, 1), (12, 4, 1), (16, 4, 128), (20, 4, 16), (28, 4, 16), (32, 8, 160), (52, 4, 192)] ++ fs)
def epiD (dest : Nat) : Bytes := desc (if dest = 0 then [(8, 8, 256), (32, 4, 16)] else [(5, 1, 2), (24, 8, 0x2000), (58, 2, 2)])
def matL : Launch := { theLaunch with entry := { theLaunch.entry with formats := 0xFFFF } }
def matC (g : Grp) (d e : Bytes) : Core :=
  let c : Core := { theCore with grps := [(0, g)] }
  lsWrite 0 (lsWrite 0 (lsWrite 0 (lsWrite 0 c 0 d false) 128 (le 4 0x3F800000 ++ le 4 0x40000000) false) 160 (le 4 0x40400000 ++ le 4 0x40800000) false) 192 e false
def matS (c : Core) : State :=
  let s := coreS c
  { s with krn := { s.krn with launches := [matL] }
           mem := { s.mem with lines := s.mem.lines ++ [cached 0x40002000 [], cached 0x40012000 []] } }
/-- The group issues a descriptor at local address 0 into register 20. -/
def issG (g : Grp := solo []) : State := matS (matC g (mmaD 0xC) (epiD 0))
def tokG : Grp := { solo [(9, 1#32)] with nextTok := 2, toks := [{ t := 1 }] }
def matOp (stage : Nat) (b3 : Nat := 0xC) (dest : Nat := 0) : MatOp :=
  { launch := 7, slot := 0, tok := 1, set := 0, desc := mmaD b3, epi := epiD dest, att := false, stage }
/-- One operation in the queue; bank 0 holds 5 at row 0, column 0. -/
def mqS (m : MatOp) (qs : List MatOp := []) : State :=
  matS { matC tokG m.desc m.epi with mq := m :: qs, banks := [(0, { acc := [(0, { v := 0x40A00000#32 })] })] }
/-- The token has failed with BUS, or is done. -/
def waitS (k : Tok) : State := matS (matC { tokG with toks := [k] } [] [])

theorem witness_MatrixIssueChecksAndRates :
    (issuable (issG (duo [] [265])) iss [20, 9] = some (matL, theSet, duo [] [265]) ∧ fetchTrap (issG (duo [] [265])) matL 0 0 16 = none ∧
        (∃ x ∈ actives (duo [] [265]), regPois (duo [] [265]) x 9 = true)) ∧
    (issuable (issG (duo [(265, 64#32)])) iss [20, 9] = some (matL, theSet, duo [(265, 64#32)]) ∧
        (∃ x ∈ actives (duo [(265, 64#32)]), ∃ y ∈ actives (duo [(265, 64#32)]), regVal 0 (duo [(265, 64#32)]) x 9 ≠ regVal 0 (duo [(265, 64#32)]) y 9)) ∧
    (issuable issG iss [20, 9] = some (matL, theSet, solo []) ∧ (∀ x ∈ actives (solo []), regPois (solo []) x 9 = false) ∧
        (∀ x ∈ actives (solo []), (regVal 0 (solo []) x 9).toNat = 0) ∧ outstanding (solo []) < 8 ∧ queued (coreOf issG 0) < 16 ∧
        mmaDesc 0 issG matL theSet 0 = .inl (mmaD 0xC, epiD 0)) ∧
    (attDesc 0 issG matL theSet 0 = .inr (0xF, false) ∧ 8 ≤ outstanding { solo [] with toks := (List.range 8).map (fun i => { t := i }) }) ∧
    (issuable (waitS { t := 1, done := true }) iss [9] = some (matL, theSet, { tokG with toks := [{ t := 1, done := true }] }) ∧
        1 = (regVal 0 tokG ((actives tokG).headD 0) 9).toNat % 65536 ∧
        { tokG with toks := [{ t := 1, failed := 6 }] }.toks.find? (fun (x : Tok) => x.t == 1) = some { t := 1, failed := 6 } ∧
        (solo []).toks.find? (fun x => x.t == 1) = none) ∧
    (mmaCheck matL.entry 0 1024 (mmaD 0xC) = none ∧ fld decodeTile 2 1 < 3 ∧ fld decodeTile 3 1 < 16 ∧ fld decodeTile 56 4 = 0 ∧
        bit 0xFFFF 9 = true ∧ pairOk 11 10 = true ∧ pairOk 0 11 = false ∧ matL.entry.accBanks ≤ dBank (mmaD 0xD) ∧
        pairOk (dA (mmaD 0xD)) (dW (mmaD 0xD)) = true ∧ bit matL.entry.formats (dA (mmaD 0xD)) = true) ∧
    (0 < 4 ∧ pairOk 3 13 = true) := by
  and_intros <;> decide +kernel


/-- The arbiter of the core's rail holds it. -/
def heldRail (s : State) : State := { s with pwr := { s.pwr with hold := [0] } }

theorem witness_MatrixOperationAccumulates :
    (headOp (coreOf (matS theCore) 0) = none ∧ headOp (coreOf (mqS (matOp 1)) 0) = some (matOp 1) ∧ (matOp 1).stage ≠ 0) ∧
    (headOp (coreOf (mqS (matOp 0)) 0) = some (matOp 0) ∧ launchOf (mqS (matOp 0)) 7 = some matL ∧ (matOp 0).att = false ∧
        drainHolds (coreOf (mqS (matOp 0)) 0) (matOp 0) (dBank (matOp 0).desc) = false) ∧
    ((bankOf { coreOf (mqS (matOp 0)) 0 with banks := [(0, { int := true })] } (matOp 0 8) 0).int ≠ dInt (matOp 0 8).desc ∧
        dClear (matOp 0 8).desc = false) ∧
    ((bankOf (coreOf (mqS (matOp 0 8)) 0) (matOp 0 8) 0).int = dInt (matOp 0 8).desc ∧ dSrc (matOp 0 8).desc = 0 ∧
        (readCols (mqS (matOp 0 8)) 0 (baseOf (coreOf (mqS (matOp 0 8)) 0) (matOp 0 8)) 0 (matOp 0 8).desc).2 = .inl [{ vals := [.fin false 12582912 (-22), .fin false 8388608 (-21)], p := false, faults := 0 }]) ∧
    (([(0, { vals := [], p := false, prom := [] }), (3, { vals := [], p := true, prom := [] })] : List (Nat × ARow)).map (·.1) = [0, 3] ∧
        [0, 3].Nodup ∧ ([{ vals := [], p := false, faults := 0 }] : List WCol)[0]? = some { vals := [], p := false, faults := 0 }) ∧
    (drainHolds (coreOf (mqS (matOp 0) [{ matOp 2 with tok := 2 }]) 0) (matOp 0) (dBank (matOp 0).desc) = true ∧
        headOp (coreOf (mqS (matOp 0) [{ matOp 2 with tok := 2 }]) 0) = some (matOp 0) ∧ 0 / 8 ∉ (mqS (matOp 0)).pwr.hold ∧
        0 / 8 ∈ (heldRail (mqS (matOp 0))).pwr.hold) ∧
    ((readCols (mqS { matOp 0 with desc := mmaD 0xC [(2, 1, 2), (32, 8, 0xFF00000000)] }) 0 0 0 (mmaD 0xC [(2, 1, 2), (32, 8, 0xFF00000000)])).2 matches .inr _) := by
  and_intros <;> decide +kernel


def combS (n : Nat) : State := let s := mqS (matOp 4 0xC 2); { s with krn := { s.krn with combq := [(0, List.replicate n { core := 9, slot := 0, tok := 1, launch := 9, set := 0, part := 0, ctx := 0, desc := [], epi := [], int := false, promoted := false })] } }

theorem witness_MatrixResultsDrainArriveAndCombine :
    (headOp (coreOf (mqS (matOp 1)) 0) = some (matOp 1) ∧ dDrain (matOp 1).desc = true ∧
        ((coreOf (mqS (matOp 1)) 0).mq.filter (fun x => x.stage == 2)).length < 2 ∧
        2 ≤ ((coreOf (mqS (matOp 1) [{ matOp 2 with tok := 2 }, { matOp 2 with tok := 3 }]) 0).mq.filter (fun x => x.stage == 2)).length) ∧
    (dDrain (matOp 1 4).desc = false ∧ (coreOf (mqS (matOp 1 4) [{ matOp 0 with tok := 2 }]) 0).mq = matOp 1 4 :: [{ matOp 0 with tok := 2 }] ∧
        sameOp { matOp 0 with tok := 2 } (matOp 1 4) = false ∧ { matOp 0 with tok := 2 }.stage ≠ 6 ∧
        issuer (mqS (matOp 1 4) [{ matOp 0 with tok := 2 }]) 0 (matOp 1 4) = some tokG) ∧
    ((coreOf (mqS (matOp 2)) 0).mq.find? (fun m => m.stage == 2) = some (matOp 2) ∧ launchOf (mqS (matOp 2)) 7 = some matL ∧
        combHeld (mqS (matOp 2)) (coreOf (mqS (matOp 2)) 0) = false ∧ combHeld (combS 32) (coreOf (combS 32) 0) = true) ∧
    (eDest (matOp 2).epi = 0 ∧ eOut (matOp 2).epi = 0 ∧ fld (matOp 2).epi 3 1 = 0 ∧ eBias (matOp 2).epi = 0 ∧ eAct (matOp 2).epi = 0 ∧
        dInt (matOp 2).desc = false ∧ dN (matOp 2).desc ≤ 256 ∧ 4 * dN (matOp 2).desc ≤ eStride (matOp 2).epi ∧
        cellsWf (lsDefault 0 (coreOf (mqS (matOp 2)) 0)) (coreOf (mqS (matOp 2)) 0).ls = true) ∧
    (eDest (matOp 2 0xC 2).epi = 2 ∧ eCount (matOp 2 0xC 2).epi ≠ 1) ∧
    ((coreOf (mqS (matOp 3 0xC 2)) 0).mq.find? (fun m => m.stage == 3) = some (matOp 3 0xC 2) ∧ isBack (matOp 3 0xC 2) = false ∧
        vpeek (mqS (matOp 3 0xC 2)) 0 (jobWord (matOp 3 0xC 2).epi) 8 0 = .ok (plainBytes (zeros 8)) ∧ 0 = fld (bytesOf (plainBytes (zeros 8))) 0 4 ∧
        0 < eCount (matOp 3 0xC 2).epi ∧ 0 + 1 < eCount (matOp 3 0xC 2).epi ∧ 1 + 1 = eCount (matOp 3 0xC 2).epi ∧ eCount (matOp 3 0xC 2).epi ≤ 2) ∧
    ((devPut (mqS (matOp 3 0xC 2)) 0 (jobWord (matOp 3 0xC 2).epi) (plainBytes (le 4 1)) 0 0).2 = 0) ∧
    ((coreOf (combS 32) 0).mq.find? (fun m => m.stage == 4) = some (matOp 4 0xC 2) ∧ eHome (matOp 4 0xC 2).epi = 0 ∧ epochOf (combS 32) 512 = 0 ∧
        32 ≤ (tget (combS 32).krn.combq [] 0).length ∧ (tget (combS 31).krn.combq [] 0).length < 32 ∧ (1 : Nat) ≠ 0) ∧
    (tget (combS 0).krn.combq [] 0 = [] ∧ (tget (combS 1).krn.combq [] 0).length = 1) := by
  and_intros <;> decide +kernel


theorem witness_PartialsCombineInTheFixedTree :
    (2 ^ 2 < [1, 2, 3, 4, 5, 6].length ∧ [1, 2, 3, 4, 5, 6].length ≤ 2 ^ (2 + 1) ∧ [5#32, 0xFFFFFFFD#32] ≠ [] ∧
        ([5#32, 0xFFFFFFFD#32].foldl (fun a w => a + w.toInt.natAbs) 0) < 2 ^ 31) ∧
    (finiteW (fadd 0x7F7FFFFF#32 0x7F7FFFFF#32) = false) := by
  exact ⟨by decide +kernel, by decide⟩


/-! The guard: 8012 of 1021952 activations clipped under PROMOTE. -/
def guardL (q : List Counts) (st : Nat := 1) : Launch := { theLaunch with policy := { mode := 2 }, guard := { st, queue := q }, cores := [0, 1] }
def guardS (l : Launch) : State := { openS with krn := { openS.krn with launches := [l] } }
/-- Core 1 has an operation of the launch at its queue's head. -/
def promoS : State := setCore (guardS (guardL [] 3)) 1 { mq := [matOp 0] }
def aTile : Counts := { actElems := 1021952, actClip := 8012, weight := 3 }

theorem witness_GuardTalliesAndPromotes :
    (launchOf openS 7 = none ∧ launchOf (guardS (guardL [])) 7 = some (guardL []) ∧ (guardL []).guard.queue = [] ∧
        launchOf (guardS (guardL [aTile])) 7 = some (guardL [aTile]) ∧ (guardL [aTile]).guard.queue = aTile :: []) ∧
    ((guardL [aTile]).guard.st = 1 ∧ clipFires (guardL [aTile]).policy (tallyAdd (guardL [aTile]).guard.c aTile) = true ∧
        (guardL [aTile] 0).guard.st ≠ 1) ∧
    (({ clipShift := 7, minShift := 16 } : Policy).clipShift = 7 ∧ ({ clipShift := 7, minShift := 16 } : Policy).minShift = 16) ∧
    (headOp (coreOf (promoS) 1) = some (matOp 0) ∧ (matOp 0).launch = 7 ∧ 1 ∉ (guardL [] 3).guard.got ∧ launchOf promoS 7 = some (guardL [] 3)) ∧
    ((guardL [] 3).guard.st = 3 ∧ 1 ∈ (guardL [] 3).cores ∧ 2 ∉ (guardL [] 3).cores ∧ (guardL []).guard.st ≠ 3) := by
  and_intros <;> decide


/-! A sort request of four keys at local address 0, its payload at 32, its outputs at 64 and 96. -/
def sortD : Bytes := desc [(0, 1, 2), (4, 4, 4), (8, 4, 0), (12, 4, 32), (16, 4, 64), (20, 4, 96)]
def sortM : MatOp := { launch := 7, slot := 0, tok := 1, set := 0, desc := sortD, epi := [], att := true }
def sortS (mark : Bool) : State :=
  matS { lsWrite 0 (lsWrite 0 { theCore with grps := [(0, tokG)] } 0 ([9, 3, 9, 1].flatMap (le 4)) mark) 32 ([50, 51, 52, 53].flatMap (le 4)) false with mq := [sortM] }

theorem witness_LengthSorterSortsAndBuckets :
    (2 ≤ 2 ∧ rising [64, 128, 256] = true ∧ 3 ≤ [64, 128, 256].length ∧ [37, 512] ≠ [] ∧ (∃ k ∈ [37, 512], 2 ^ 5 ≤ Nat.max k 1 ∧
        Nat.max k 1 < 2 ^ (5 + 1)) ∧ (∀ k ∈ [37, 512], 2 ^ 5 ≤ Nat.max k 1) ∧ 2 + 1 < 4) ∧
    (attHead (sortS true) 0 2 = some sortM ∧ fld sortM.desc 4 4 = 4 ∧
        (∃ k ∈ List.range 4, lsMarked (coreOf (sortS true) 0) (0 + fld sortM.desc 8 4 + 4 * k) 4 = true) ∧ attHead (matS theCore) 0 2 = none) ∧
    (∀ k ∈ List.range 4, lsMarked (coreOf (sortS false) 0) (0 + fld sortM.desc 8 4 + 4 * k) 4 = false) ∧
    (attHead (sortS false) 0 2 = some sortM ∧ bits (fld sortM.desc 2 1) 1 2 = 0 ∧
        cellsWf (lsDefault 0 (coreOf (sortS false) 0)) (coreOf (sortS false) 0).ls = true ∧
        fld sortM.desc 16 4 + 4 * 4 ≤ fld sortM.desc 20 4 ∧
            (List.range 4).map (fun k => unle (lsRead 0 (coreOf (sortS false) 0) (0 + fld sortM.desc 8 4 + 4 * k) 4)) = [9, 3, 9, 1]) := by
  exact ⟨by decide, by decide +kernel, by decide +kernel, by decide +kernel⟩


/-! Attention: one row of dimension 64, BF16. -/
def attM (fs : List (Nat × Nat × Nat)) (epi : Bytes := []) (tile : Nat := 0) : MatOp :=
  { launch := 7, slot := 0, tok := 1, set := 0, desc := putAt (zeros 192) 0 (desc fs) , epi, att := true, tile }
def fwdM : MatOp := { attM [] with desc := (desc [(0, 1, 1), (1, 1, 1), (3, 1, 1), (4, 1, 1)]) ++ desc [(4, 4, 128), (8, 4, 256), (12, 4, 128), (20, 4, 512)] }
/-- Arrays of a backward operation at `q`; keys from 0x100000; one tile; slice 0 of two. -/
def backM (q : Nat) (tile : Nat) : MatOp :=
  { attM [] with tile, epi := desc [(5, 1, 2), (24, 8, 0x2000), (58, 2, 2)]
                 desc := (desc [(0, 1, 3), (1, 1, 1), (3, 1, 1), (4, 1, 1), (44, 4, 0x8000), (48, 8, 0x100000), (56, 4, 33)]) ++
                   (desc [(4, 4, 128), (12, 4, 128)] ++ desc [(0, 8, q), (8, 8, q), (16, 8, q), (24, 8, q), (32, 8, q), (44, 2, 1), (46, 2, 0), (48, 4, 0x20080)]) }
def attS (m : MatOp) : State := matS { theCore with grps := [(0, tokG)], mq := [m] }
def aComb : Combine := { core := 0, slot := 0, tok := 1, launch := 7, set := 0, part := 0, ctx := 0, desc := [], epi := [], int := false, promoted := false }
/-- The tile's inputs can be read and its dQ partial can be written. -/
def tileRuns (s : State) (m : MatOp) : Bool :=
  let v := backNote (frzDraw s 0 true true true) 0 0 m.desc m.tile
  match backIn s 0 0 m.desc m.tile, sliceKeys s 0 0 m.desc false, sliceKeys s 0 0 m.desc true with
  | .inl b, .inl ks, .inl vs =>
    let o := backTile m.desc 0 b ks vs (fun _ _ => (0, false)) (fun _ _ => (0, false))
    (putRecord (putRows (putRows (putRows (putRows (putRows v 0 m 3 o.dP) 0 m 2 o.sT) 0 m 1 o.dV) 0 m 0 o.dK) 0 m 2 o.q) 0
      (eScratch (tileEpi m) + 32768 * eSplit (tileEpi m)) 1024 0 (List.range (backRows m.desc))
      (fun i => ((List.range (headDim m.desc)).map (fun k => (o.dQ.getD i []).getD k (0, false))).flatMap wordBytes)).2 == 0
  | _, _, _ => false

theorem witness_AttentionSeesOnlyVisibleKeys :
    (∀ k, visible [] 0 5 (128 * 1 + k) = false) ∧
    (ofFp32 negInf ≠ .nan ∧ toFp32 (ofFp32 0#32) = 0#32 ∧ (0#32) ≠ 0x80000000#32 ∧ attReady (matS theCore) 0 1 3 = none ∧
        attReady (matS theCore) 0 3 4 = none) ∧
    (attReady (attS fwdM) 0 1 3 = some (fwdM, matL, theSet) ∧ aBatch fwdM.desc = false ∧ aKvLen fwdM.desc = 0 ∧ saveLse fwdM.desc = false ∧
        backRows fwdM.desc ≤ 32 ∧ headDim fwdM.desc * elB (oFmt fwdM.desc) ≤ aOutStride fwdM.desc ∧
        (∀ i, i < backRows fwdM.desc → aFlag fwdM.desc + 4 ≤ aOut fwdM.desc + i * aOutStride fwdM.desc ∨ aOut fwdM.desc + i * aOutStride fwdM.desc + headDim fwdM.desc * elB (oFmt fwdM.desc) ≤ aFlag fwdM.desc)) ∧
    (cellsWf (lsDefault 0 (coreOf (attS fwdM) 0)) (coreOf (attS fwdM) 0).ls = true ∧ backRows fwdM.desc = 1) ∧
    (attReady (attS (backM 0x180000000 0)) 0 3 4 = some (backM 0x180000000 0, matL, theSet) ∧
        (backM 0x180000000 0).tile < fld (backM 0x180000000 0).desc 172 2 ∧
        (match backIn (attS (backM 0x180000000 0)) 0 0 (backM 0x180000000 0).desc 0 with | .inr x => x == 4 | .inl _ => false) = true) ∧
    (attReady (attS (backM 0x8000 0)) 0 3 4 = some (backM 0x8000 0, matL, theSet) ∧ eCount (tileEpi (backM 0x8000 0)) ≠ 1 ∧
        tileRuns (attS (backM 0x8000 0)) (backM 0x8000 0) = true) ∧
    (attReady (attS (backM 0x180000000 1)) 0 3 4 = some (backM 0x180000000 1, matL, theSet) ∧
        fld (backM 0x180000000 1).desc 172 2 ≤ (backM 0x180000000 1).tile ∧ (attS (backM 0x180000000 1)).krn.combq = [] ∧
        translate (attS (backM 0x180000000 1)) 0 (fld (backM 0x180000000 1).desc 160 8) true = .fault) ∧
    (combOp (attS (backM 0 1)) aComb = some (backM 0 1) ∧ aComb.core = 0 ∧ aComb.launch = (backM 0 1).launch ∧ aComb.set = (backM 0 1).set ∧
        aComb.slot = (backM 0 1).slot ∧ aComb.tok = (backM 0 1).tok) := by
  and_intros <;> first | decide +kernel | (exact fun k => by simp [visible]) | rfl | (intro _; rfl)


/-! WellFormed refuses an ill-formed term for each of its checks. -/
def badGrp : List Iss := [⟨512, 0, 4⟩, ⟨0, 32, 4⟩, ⟨0, 0, 0⟩, ⟨0, 0, 17⟩]
def okIss : Iss := ⟨511, 31, 16⟩
def okLs : LsArgs := ⟨false, .virt, 16, 255, 0, 255, some 3⟩
def okAt : AtomArgs := ⟨.ret .add false 255, .virt, 255, 0, 255, 255, none⟩
theorem test_wf_issue : badGrp.all (fun i => !Iss.wf i) = true ∧ badGrp.all (fun i => !(Instr.exit i).wf && !(Instr.trap i 0).wf) = true ∧
    (Instr.fence okIss .core).wf = true := by decide
theorem test_wf_operands : ([{ okLs with width := 3 }, { okLs with addr := 256 }, { okLs with data := 256 },
      { okLs with store := true, space := .const }, { okLs with cls := some 4 }].all (fun a => !(Instr.loadStore okIss a).wf)) = true ∧
    ([{ okAt with addr := 256 }, { okAt with src := 256 }, { okAt with cmp := 256 }, { okAt with space := .const },
      { okAt with cls := some 4 }, { okAt with kind := .ret .add false 256 }].all (fun a => !(Instr.atomic okIss a).wf)) = true ∧
    (Instr.loadStore okIss okLs).wf = true ∧ (Instr.atomic okIss okAt).wf = true := by decide
theorem test_wf_registers : ([.branch okIss 256 0 0, .branch okIss 0 0 0 (some 256), .indirectBranch okIss 256 0, .indirectBranch okIss 0 0 (some 256), .vectorInstruction okIss .mov 256 [.reg 0],
      .vectorInstruction okIss .mov 0 [.reg 256], .specialFunction okIss .sqrt 256 (.reg 0), .specialFunction okIss .sqrt 0 (.reg 256),
      .xln okIss .at_ 256 0 (.reg 0) (.reg 0) (.reg 0) 2, .xln okIss .at_ 0 256 (.reg 0) (.reg 0) (.reg 0) 2,
      .xln okIss .at_ 0 0 (.reg 256) (.reg 0) (.reg 0) 2, .xln okIss .at_ 0 0 (.reg 0) (.reg 256) (.reg 0) 2,
      .xln okIss .at_ 0 0 (.reg 0) (.reg 0) (.reg 256) 2, .xln okIss .at_ 0 0 (.reg 0) (.reg 0) (.reg 0) 3, .tally okIss .every 256 0 (.reg 0),
      .tally okIss .every 0 256 (.reg 0), .tally okIss .every 0 0 (.reg 256), .join okIss 16 0, .join okIss 0 1025, .lockAcq okIss 256,
      .lockRel okIss 256, .mmaIssue okIss 256 0, .mmaIssue okIss 0 256, .attIssue okIss 256 0, .mmaWait okIss 256] : List Instr).all
    (fun c => !c.wf) = true := by decide
theorem test_wf_defects : ([.hbmRemap 384 0 0 0 0 0 0, .hbmRemap 0 2 0 0 0 0 0, .hbmUnrepaired 0 0 4 0 0 0, .hbmUnrepaired 0 0 0 4 0 0,
      .hbmUnrepaired 0 0 0 0 4 0, .hbmUnrepaired 0 0 0 0 0 32768, .hbmChannelOut 384, .hbmPin 384 0 0, .hbmPin 0 2 0, .hbmPin 0 0 64,
      .gsRow 384 0 0, .gsWay 384 0, .gsWay 0 16, .pole 8192 0 [], .pole 0 5 [], .core 8 0 0, .core 0 8 0, .core 0 0 9, .domain 1020,
      .phase 84 0, .phase 0 8, .sensor 1184, .sense 105, .lateral 14 0 0 0, .lateral 0 16 0 0, .lateral 0 0 0 65, .spanLane 18 0 0,
      .spanLane 0 0 9] : List Defect).all (fun d => !d.wf && !(Instr.ledgerCheck .ur { noFind with defects := [d] }).wf) = true := by decide
theorem test_wf_messages : ([{ inM 1 with port := 18 }, { inM 1 with msg := aMsg 16 }, { inM 1 with msg := { aMsg 1 with dst := 1024 } },
      { inM 1 with msg := { aMsg 1 with src := 1024 } }] : List SpanIn).all (fun m => !m.wf && !(Instr.spanData m).wf) = true := by decide
theorem test_wf_long_message : SpanIn.wf { inM 1 with msg := { aMsg 1 with payload := zeros 4097 } } = false := by
  simp [SpanIn.wf, inM, aMsg]
theorem test_wf_numbers : ([.configurationRequestRetry 9, .senseOpen 105, .phaseFail 84 0 (.misbehaved 0), .phaseFail 0 8 (.misbehaved 0), .droopDetect 84 0, .stretchRelease 84 0 0,
      .domainPowerUp 1020 0, .domainGrant 104 0, .coreIdleOff 512 0, .combine 64, .haltTakesEffect 512 0, .haltTakesEffect 0 32,
      .sqTail 9 0 0 4, .sqTail 0 256 0 4, .sqTail 0 0 0 0, .ringEnable 9 0, .ringEnable 0 256, .ringDisabled 256, .evtHead 9 0,
      .teardownErase 8, .bar4Read 9 0 4, .bar4Read 0 0 0, .bar4Read 0 0 4097, .bar4Write 9 0 [1#8],
      .bar4Write 0 0 [], .vfEnable 9, .vfFlr 0, .vfFlr 9, .msixUnmask 9 0, .msixUnmask 0 64, .keyImport 0 8 0 (zeros 32),
      .keyImport 0 0 16 (zeros 32), .keyImport 0 0 0 (zeros 31), .keyDrop 0 8 0, .keyDrop 0 0 16, .debugAttach 256, .sliceRequest 384 .none,
      .rowRemap 384 0 [], .roleEpochIncrement (.core 512), .roleEpochIncrement (.cluster 64), .roleEpochIncrement (.plot 8),
      .roleEpochIncrement (.port 18), .spanPortEnable 18, .entdaa 128, .lowWordRead 1040 0 4, .lowWordRead 0 0 2, .lowWordRead 0 2 4, .registerWrite 1040 0 0#32 4,
      .registerWrite 0 0 0#32 0, .bucketAdmit 6 0 0, .bucketAdmit 0 0 4, .plotMigration 8, .poleTest 8192 []] : List Instr).all
    (fun c => !c.wf) = true := by decide +kernel
theorem test_wf_media : ([.fillArrival 384 0 {} {}, .fillArrival 0 0 { errs := [(36, 1)] } {}, .memorySideAtomic 384 {} {},
      .patrolScrub 0 0 0 { errs := [(0, 65536)] }, .refreshManagement 0 2 0 0, .poleBeatFail 8192 [] 0, .poleBeatFail 0 [] (2 ^ 536),
      .poleBeatFail 0 [2 ^ 536] 0, .lateralModuleRetrain 14 0 0 0, .lateralModuleRetrain 0 0 100 48, .spanFlitReceive 0 ⟨[], []⟩] : List Instr).all
    (fun c => !c.wf) = true ∧ (Instr.lateralModuleRetrain 0 0 32 64).wf = true ∧
    (Instr.fillArrival 0 0 { errs := [(35, 65535)] } {}).wf = true := by decide +kernel

/-! The outer code of HBM3E. Expected values by hand: the check symbols of a one in symbol 31 are the generator's coefficients
(x + 1)(x + 2)(x + 4)(x + 8) = x^4 + 15 x^3 + 54 x^2 + 120 x + 64 (R247). -/
theorem test_rs_check_symbols : checkSymbols (List.replicate 31 0 ++ [1]) = [15, 54, 120, 64] := by decide +kernel
theorem test_rs_decodes_erasures_and_poison : decode false [0] [(0, 0x1234), (1, 1)] = .corrected [] true ∧ decode true [] [] = .poisoned ∧
    decode false [] poisonMask = .poisoned ∧ decode true [] [(5, 1)] = .uncorrectable := by decide +kernel

/-- A sealed object of no bytes at the start of the first page. -/
def sealedS : State :=
  let s := chS sealF
  { s with mem := { s.mem with lines := s.mem.lines ++ [cached 0x40000000 (le 4 0x31575356)] } }

theorem witness_RangePlotAndSealedCommandsComplete :
    (opOf (chS (rgF 0x10 0x20000000 256 phys)) 7 = some (op7 (rgF 0x10 0x20000000 256 phys)) ∧ (op7 (rgF 0x10 0x20000000 256 phys)).code = 0x10 ∧
        rngBad (chS (rgF 0x10 0x20000000 256 phys)) (op7 (rgF 0x10 0x20000000 256 phys)) true = none ∧
        rngBad (chS (rgF 0x11 0x20000000 256 phys)) (op7 (rgF 0x11 0x20000000 256 phys)) false = none ∧
            rngBad (chS (rgF 0x12 0x20000000 256 phys)) (op7 (rgF 0x12 0x20000000 256 phys)) false = none) ∧
    ((op7 (rgF 0x13 0x60000000 256 phys)).code = 0x13 ∧
        rngBad (chS (rgF 0x13 0x60000000 256 phys)) (op7 (rgF 0x13 0x60000000 256 phys)) true = none ∧
        rngFaults (chS (rgF 0x13 0x60000000 256 phys)) (op7 (rgF 0x13 0x60000000 256 phys)) = false ∧
        deadPage (chS (rgF 0x13 0x60000000 256 phys)) (op7 (rgF 0x13 0x60000000 256 phys)) = none ∧
            (installRuns (chS (rgF 0x13 0x60000000 256 phys)) (rngRuns (chS (rgF 0x13 0x60000000 256 phys)) (op7 (rgF 0x13 0x60000000 256 phys)))).isSome = true ∧
        bit ((op7 (rgF 0x13 0x60000000 256 (phys + 1))).f 32 4) 0 = true ∧
            (rngLeads (chS (rgF 0x13 0x60000000 256 (phys + 1))) (op7 (rgF 0x13 0x60000000 256 (phys + 1)))).all (fun x => match x.2.2 with | .foreign _ => false | _ => true) = true) ∧
    (mapBad (mapS 0x14) (op7 (mapF 0x14 0x140000000)) = none ∧
        (mapSlots (mapS 0x14) (op7 (mapF 0x14 0x140000000))).all (fun x => isSlot x.1 && !bit (entryAtSlot (mapS 0x14) 0 x.1) 0) = true) ∧
    (mapBad (unmapS 10000) (op7 (mapF 0x15 0x140000000)) = none ∧ (op7 (mapF 0x15 0x140000000)).code = 0x15 ∧
        bumpSoon (unmapS 10000) (576 + (op7 (mapF 0x15 0x140000000)).f 24 1) = false ∧
        (mapSlots (unmapS 10000) (op7 (mapF 0x15 0x140000000))).all (fun x => isSlot x.1 && entryAtSlot (unmapS 10000) 0 x.1 % 4 == 3 && !bit (entryAtSlot (unmapS 10000) 0 x.1) 3 && entryAddr (entryAtSlot (unmapS 10000) 0 x.1) == x.2) = true) ∧
    (bumpSoon openS (unitKey (.core 3)) = false) ∧
    (opOf sealedS 7 = some (op7 sealF) ∧ (op7 sealF).code = 0x08 ∧ bit ((op7 sealF).f 40 4) 2 = true ∧
        chainFields (op7 sealF) true true false = true ∧ chainPhys (op7 sealF) = false ∧ (op7 sealF).f 32 8 = 64 ∧
        meetsRegs sealedS (op7 sealF) ((op7 sealF).f 24 8) 64 = false ∧ engineFull sealedS (op7 sealF) = false ∧
            hostHeld sealedS (op7 sealF) [((op7 sealF).f 24 8, 64)] = false) ∧
    ((match (chainBytes (hostSrc sealedS (op7 sealF) [((op7 sealF).f 24 8, 64)] .ur).1 (op7 sealF) ((op7 sealF).f 24 8) 64 (hostSrc sealedS (op7 sealF) [((op7 sealF).f 24 8, 64)] .ur).2) with
        | (u, v, .inr b) => !anyPois b && fld (bytesOf b) 0 4 == 0x31575356 && fld (bytesOf b) 8 8 == 0 && !meetsRegs u (op7 sealF) ((op7 sealF).f 16 8) 0 &&
            (sealLoop (sealChunks 0) u (op7 sealF) (bytesOf b) v 0 0 []).2.1 == 0
        | _ => false) = true) := by
  and_intros <;> decide +kernel


def runX : SpanOp := { recvX with agreed := some 64 }
/-- Operation 7 runs and its messages arrive on port 0. -/
def runS (x : SpanOp) : State := spS (sendF 0x22 64) 2 { ops := [x] }

theorem witness_SpanMessagesActOnTheirOperations :
    (Judged (runS runX) (inM 1) ∧ Judged (runS askX) (inM 4)) ∧
    ([(2, 0), (5, 0), (7, 3), (6, 3), (8, 5), (4, 4)].all (fun x : Nat × Nat => (msgOp (runS { runX with kind := x.2, agreed := none }) (portPart (runS runX) 0) (aMsg x.1) (fun o => o.running)) == some { runX with kind := x.2, agreed := none }) = true) ∧
    (msgOp (runS runX) (portPart (runS runX) 0) (aMsg 1) (fun o => o.running && (o.kind ≤ 3 || (o.kind == 5 && o.agreed.isSome && tget o.got 0 1 < o.agreed.getD 0))) = some runX ∧ (aMsg 1).poison = 0 ∧
        busMode (barS [] true) 0 = true) ∧
    ((runS runX).span.ops.find? (fun o => o.running && o.part == portPart (runS runX) 0 && o.grp.id == (aMsg 9).group && o.seq == (aMsg 9).seq) = some runX ∧ (aMsg 9).info ≠ 4) := by
  exact ⟨by exact ⟨by unfold Judged; decide +kernel, by unfold Judged; decide +kernel⟩, by decide +kernel,
    by decide +kernel, by decide +kernel⟩


end Sys2Proof.Tests
end

section
/-! Number formats (02_number_formats.md): rounding to nearest even and accumulation into INT32. -/
namespace Sys2Proof.Proofs
open Sys2Proof.Machine Sys2Proof.Safety

/-! Rounding to nearest even (R50). The values of a grid are a strictly increasing `W`; the grid position below the value X
is `lo`, and X lies `r` of `den` steps above it. -/

theorem le_rne (g : Nat × Nat × Nat) : g.1 ≤ rne g := by
  unfold rne; split <;> omega

/-- Rounding goes to one of the two neighbours, with steps of any size `t`: to the lower one only in the lower half, to
the upper one only in the upper half, and at the middle to the even one. -/
theorem rne_cases (lo r den : Nat) {t : Nat} (ht : 0 < t) :
    (rne (lo, r, den) = lo ∧ (2 * (r * t) < den * t ∨ 2 * (r * t) = den * t ∧ lo % 2 = 0)) ∨
    (rne (lo, r, den) = lo + 1 ∧ (den * t < 2 * (r * t) ∨ 2 * (r * t) = den * t ∧ (lo + 1) % 2 = 0)) := by
  simp only [rne, Bool.or_eq_true, Bool.and_eq_true, decide_eq_true_eq, beq_iff_eq, ← Nat.mul_assoc,
    Nat.mul_lt_mul_right ht, Nat.mul_left_inj (Nat.ne_of_gt ht)]
  split <;> omega

/-- A grid whose values rise with their positions. -/
def Rises (W : Nat → Nat) : Prop := ∀ ⦃i j⦄, i < j → W i < W j

theorem rises_of_lt_succ {W : Nat → Nat} (h : ∀ i, W i < W (i + 1)) : Rises W := by
  intro i j hij
  induction hij with
  | refl => exact h i
  | step _ ih => exact Nat.lt_trans ih (h _)

theorem Rises.mul_const {W : Nat → Nat} (hW : Rises W) {c : Nat} (hc : 0 < c) : Rises fun i => W i * c :=
  fun _ _ hij => Nat.mul_lt_mul_of_pos_right (hW hij) hc

/-- Every grid value lies at or below the lower neighbour, or at or above the upper one. -/
theorem grid_value_outside {W : Nat → Nat} (hW : Rises W) (lo k : Nat) :
    (k = lo ∨ W k < W lo) ∨ (k = lo + 1 ∨ W (lo + 1) < W k) := by
  rcases Nat.lt_trichotomy k lo with h | h | h
  · exact .inl (.inr (hW h))
  · exact .inl (.inl h)
  · rcases Nat.eq_or_lt_of_le (Nat.succ_le_of_lt h) with h | h
    · exact .inr (.inl h.symm)
    · exact .inr (.inr (hW h))

/-- The value that rounding takes is a nearest one, and of two equally near the even one. -/
theorem rne_nearest {W : Nat → Nat} (hW : Rises W) {X lo r den t : Nat} (ht : 0 < t) (hr : r < den)
    (hlo : X = W lo + r * t) (hhi : W (lo + 1) = W lo + den * t) (k : Nat) :
    ((X : Int) - W (rne (lo, r, den))).natAbs ≤ ((X : Int) - W k).natAbs ∧
    (k ≠ rne (lo, r, den) → ((X : Int) - W (rne (lo, r, den))).natAbs = ((X : Int) - W k).natAbs →
      rne (lo, r, den) % 2 = 0) := by
  have hrt : r * t < den * t := Nat.mul_lt_mul_of_pos_right hr ht
  have hk := grid_value_outside hW lo k
  rcases rne_cases lo r den ht with ⟨hn, hhalf⟩ | ⟨hn, hhalf⟩ <;> rw [hn]
  · rcases hk with (rfl | hk) | (rfl | hk) <;> omega
  · rcases hk with (rfl | hk) | (rfl | hk) <;> omega

/-! The magnitudes of a floating-point format, in units of its smallest one. -/

/-- The magnitude of code `c` of a format with `mb` mantissa bits, in units of the format's smallest subnormal: from one
exponent to the next the step doubles, and exponents 0 and 1 have the same step (R35). -/
def unitsOf (mb c : Nat) : Nat := (c - (c / 2 ^ mb - 1) * 2 ^ mb) * 2 ^ (c / 2 ^ mb - 1)

/-- A significand of the full width, or any below it in the lowest binade, has the code that `gridF` builds. -/
theorem unitsOf_binade {mb j a : Nat} (ha : a < 2 * 2 ^ mb) (hj : j = 0 ∨ 2 ^ mb ≤ a) :
    unitsOf mb (j * 2 ^ mb + a) = a * 2 ^ j := by
  have hpos : 0 < 2 ^ mb := Nat.two_pow_pos mb
  have hquot : (j * 2 ^ mb + a) / 2 ^ mb - 1 = j := by
    rw [Nat.add_comm, Nat.add_mul_div_right _ _ hpos]
    rcases hj with rfl | hj
    · have : a / 2 ^ mb < 2 := Nat.div_lt_of_lt_mul (by omega)
      omega
    · have : a / 2 ^ mb = 1 := Nat.div_eq_of_lt_le (by omega) (by omega)
      omega
  rw [unitsOf, hquot, Nat.add_sub_cancel_left]

/-- The first significand beyond a binade is the first one of the next. -/
theorem unitsOf_binade_succ {mb j a : Nat} (ha : a < 2 * 2 ^ mb) (hj : j = 0 ∨ 2 ^ mb ≤ a) :
    unitsOf mb (j * 2 ^ mb + a + 1) = a * 2 ^ j + 2 ^ j := by
  rcases Nat.lt_or_ge (a + 1) (2 * 2 ^ mb) with h | h
  · rw [Nat.add_assoc, unitsOf_binade h (by omega), Nat.add_mul, Nat.one_mul]
  · have hcode : j * 2 ^ mb + a + 1 = (j + 1) * 2 ^ mb + 2 ^ mb := by rw [Nat.add_mul]; omega
    have hbinade : 2 ^ mb < 2 * 2 ^ mb := by have := Nat.two_pow_pos mb; omega
    have hnext : a + 1 = 2 ^ mb * 2 := by omega
    calc unitsOf mb (j * 2 ^ mb + a + 1) = 2 ^ mb * 2 ^ (j + 1) := by
          rw [hcode, unitsOf_binade hbinade (.inr (Nat.le_refl _))]
      _ = 2 ^ mb * 2 * 2 ^ j := by rw [Nat.pow_succ]; ac_rfl
      _ = a * 2 ^ j + 2 ^ j := by rw [← hnext, Nat.add_mul, Nat.one_mul]

theorem unitsOf_rises (mb : Nat) : Rises (unitsOf mb) := by
  refine rises_of_lt_succ fun c => ?_
  have hpos : 0 < 2 ^ mb := Nat.two_pow_pos mb
  obtain ⟨j, a, ha, hj, rfl⟩ : ∃ j a, a < 2 * 2 ^ mb ∧ (j = 0 ∨ 2 ^ mb ≤ a) ∧ c = j * 2 ^ mb + a := by
    have hc := Nat.div_add_mod' c (2 ^ mb)
    have hm := Nat.mod_lt c hpos
    rcases hx : c / 2 ^ mb with _ | x
    · exact ⟨0, c % 2 ^ mb, by omega, .inl rfl, by rw [hx] at hc; omega⟩
    · exact ⟨x, c % 2 ^ mb + 2 ^ mb, by omega, .inr (by omega), by rw [hx, Nat.succ_mul] at hc; omega⟩
  rw [unitsOf_binade ha hj, unitsOf_binade_succ ha hj]
  exact Nat.lt_add_of_pos_right (Nat.two_pow_pos j)

/-! Powers of two as the fraction `up e / down e`. -/

theorem down_pos (e : Int) : 0 < down e := Nat.two_pow_pos _

theorem up_add_mul (e : Int) (k : Nat) : up (e + k) * down e = 2 ^ k * up e * down (e + k) := by
  rw [up, down, up, down, ← Nat.pow_add, ← Nat.pow_add, ← Nat.pow_add]
  congr 1
  omega

theorem up_sub_mul (j u : Nat) : up (j - u : Int) * 2 ^ u = 2 ^ j * down (j - u : Int) := by
  rw [up, down, ← Nat.pow_add, ← Nat.pow_add]
  congr 1
  omega

/-- Comparing a × 2^(e + k) with b is comparing a × 2^k × 2^e with b. -/
theorem mul_up_add_le_iff (a b : Nat) (e : Int) (k : Nat) :
    a * up (e + k) ≤ b * down (e + k) ↔ a * 2 ^ k * up e ≤ b * down e := by
  have hleft : a * up (e + k) * down e = a * 2 ^ k * up e * down (e + k) := by
    rw [Nat.mul_assoc, up_add_mul]; ac_rfl
  have hright : b * down (e + k) * down e = b * down e * down (e + k) := Nat.mul_right_comm ..
  rw [← Nat.mul_le_mul_right_iff (down_pos e), hleft, hright, Nat.mul_le_mul_right_iff (down_pos (e + k))]

theorem mul_up_sub_le_iff (a b i j : Nat) : a * up (i - j : Int) ≤ b * down (i - j : Int) ↔ a * 2 ^ i ≤ b * 2 ^ j := by
  have hup : up (-j : Int) = 1 := by rw [up, Int.toNat_neg_natCast, Nat.pow_zero]
  have hdown : down (-j : Int) = 2 ^ j := by rw [down, Int.neg_neg, Int.toNat_natCast]
  rw [show (i - j : Int) = -j + i by omega, mul_up_add_le_iff, hup, hdown, Nat.mul_one]

/-- A comparison with a power of two holds with a smaller one. -/
theorem mul_up_le_of_le {a b : Nat} {e e' : Int} (he : e' ≤ e) (h : a * up e ≤ b * down e) : a * up e' ≤ b * down e' := by
  obtain ⟨k, rfl⟩ : ∃ k : Nat, e = e' + k := ⟨(e - e').toNat, by omega⟩
  rw [mul_up_add_le_iff] at h
  exact Nat.le_trans (Nat.mul_le_mul_right _ (Nat.le_mul_of_pos_right a (Nat.two_pow_pos k))) h

/-- `flog` is the exponent of the binade in which p / d lies. -/
theorem flog_bounds {p d : Nat} (hp : 0 < p) (hd : 0 < d) :
    d * up (flog p d) ≤ p * down (flog p d) ∧ p * down (flog p d + 1) < d * up (flog p d + 1) := by
  have hple : 2 ^ log2 p ≤ p := Nat.log2_self_le (Nat.ne_of_gt hp)
  have hplt : p < 2 ^ (log2 p + 1) := Nat.lt_log2_self
  have hdle : 2 ^ log2 d ≤ d := Nat.log2_self_le (Nat.ne_of_gt hd)
  have hdlt : d < 2 ^ (log2 d + 1) := Nat.lt_log2_self
  have hbelow : d * up (log2 p - (log2 d + 1 : Nat) : Int) ≤ p * down (log2 p - (log2 d + 1 : Nat) : Int) := by
    rw [mul_up_sub_le_iff, Nat.mul_comm p]
    exact Nat.mul_le_mul (Nat.le_of_lt hdlt) hple
  have habove : p * down ((log2 p + 1 : Nat) - log2 d : Int) < d * up ((log2 p + 1 : Nat) - log2 d : Int) := by
    rw [← Nat.not_le, mul_up_sub_le_iff, Nat.not_le, Nat.mul_comm d]
    exact Nat.mul_lt_mul_of_lt_of_le hplt hdle hd
  simp only [flog]
  split
  case isTrue h =>
    exact ⟨by rwa [show (log2 p - log2 d - 1 : Int) = log2 p - (log2 d + 1 : Nat) by omega], by rwa [Int.sub_add_cancel]⟩
  case isFalse h =>
    exact ⟨Nat.not_lt.mp h, by rwa [show (log2 p - log2 d + 1 : Int) = (log2 p + 1 : Nat) - log2 d by omega]⟩

/-! The codes of a format and the grid that `gridF` finds for p / d. -/

theorem floatFormats_range {f : FF} (hf : f ∈ floatFormats) : 0 < f.bias + f.mb ∧ f.maxCode < 2 ^ (f.eb + f.mb) := by
  revert f; decide

/-- The exponent of a format's smallest subnormal is minus this (R35). -/
def unitExp (f : FF) : Nat := f.bias + f.mb - 1

/-- A code up to the largest finite one decodes to its significand with the exponent of its binade. -/
theorem decodeF_finite {f : FF} {c : Nat} (hf : f ∈ floatFormats) (hc : c ≤ f.maxCode) :
    ∃ neg, decodeF f c = .fin neg (c - (c / 2 ^ f.mb - 1) * 2 ^ f.mb) ((c / 2 ^ f.mb - 1 : Nat) - unitExp f : Int) := by
  obtain ⟨hunit, hmax⟩ := floatFormats_range hf
  have hcode : c % 2 ^ f.w = c := Nat.mod_eq_of_lt (by
    have : 2 ^ (f.eb + f.mb) ≤ 2 ^ f.w := Nat.pow_le_pow_right Nat.two_pos (by unfold FF.w; omega)
    omega)
  have hmag : c % 2 ^ (f.eb + f.mb) = c := Nat.mod_eq_of_lt (by omega)
  refine ⟨bit c (f.eb + f.mb), ?_⟩
  simp only [decodeF, hcode, hmag, if_neg (Nat.not_lt.mpr hc), unitExp]
  have hsplit := Nat.div_add_mod' c (2 ^ f.mb)
  rcases hx : c / 2 ^ f.mb with _ | x
  · rw [if_pos rfl, Num.fin.injEq, Nat.zero_sub, Nat.zero_mul]
    exact ⟨rfl, rfl, by omega⟩
  · rw [hx, Nat.succ_mul] at hsplit
    rw [if_neg x.succ_ne_zero, Num.fin.injEq, Nat.add_sub_cancel]
    exact ⟨rfl, by omega, by omega⟩

/-- A code's magnitude is its number of units times the unit. -/
theorem decodeF_frac {f : FF} {c : Nat} (hf : f ∈ floatFormats) (hc : c ≤ f.maxCode) :
    0 < (decodeF f c).frac.2 ∧ (decodeF f c).frac.1 * 2 ^ unitExp f = unitsOf f.mb c * (decodeF f c).frac.2 := by
  obtain ⟨neg, hdec⟩ := decodeF_finite hf hc
  rw [hdec]
  exact ⟨down_pos _, by rw [Num.frac, unitsOf, Nat.mul_assoc, up_sub_mul, Nat.mul_assoc]⟩

/-- `gridF` divides p / d by the step of its own binade, or of the lowest one: the quotient has at most the full width,
and exactly the full width above the lowest binade. -/
theorem gridF_quotient {f : FF} {p d : Nat} (hf : f ∈ floatFormats) (hp : 0 < p) (hd : 0 < d) :
    ∃ (j : Nat) (q : Int), q = j - unitExp f ∧
      gridF f p d = (j * 2 ^ f.mb + p * down q / (d * up q), p * down q % (d * up q), d * up q) ∧
      p * down q / (d * up q) < 2 * 2 ^ f.mb ∧ (j = 0 ∨ 2 ^ f.mb ≤ p * down q / (d * up q)) := by
  obtain ⟨hunit, -⟩ := floatFormats_range hf
  obtain ⟨hge, hlt⟩ := flog_bounds hp hd
  let q : Int := max (flog p d - f.mb) (-unitExp f)
  have hden : 0 < d * up q := Nat.mul_pos hd (Nat.two_pow_pos _)
  refine ⟨(q + unitExp f).toNat, q, by omega, ?_, ?_, ?_⟩
  · have hmin : (1 - f.bias - f.mb : Int) = -unitExp f := by unfold unitExp; omega
    have hq : (if flog p d - f.mb < -unitExp f then (-unitExp f : Int) else flog p d - f.mb) = q := by
      split <;> omega
    simp only [gridF, hmin, hq, Int.sub_neg]
  · rw [Nat.div_lt_iff_lt_mul hden, ← Nat.not_le, ← Nat.mul_assoc]
    intro hwide
    rw [← Nat.pow_succ', Nat.mul_comm _ d, ← mul_up_add_le_iff] at hwide
    exact Nat.not_le.mpr hlt (mul_up_le_of_le (by omega) hwide)
  · by_cases hlow : flog p d - f.mb ≤ -unitExp f
    · exact .inl (by omega)
    · refine .inr ((Nat.le_div_iff_mul_le hden).mpr ?_)
      rw [← Nat.mul_assoc, Nat.mul_comm _ d, ← mul_up_add_le_iff]
      exact mul_up_le_of_le (by omega) hge

/-- Scaled by `s`, p / d in units lies `rem` of `den` steps of size `t` above the code that `gridF` gives. -/
theorem gridF_between {f : FF} {p d : Nat} (hf : f ∈ floatFormats) (hp : 0 < p) (hd : 0 < d) :
    ∃ code rem den s t, gridF f p d = (code, rem, den) ∧ 0 < s ∧ 0 < t ∧ rem < den ∧
      p * 2 ^ unitExp f * s = unitsOf f.mb code * (d * s) + rem * t ∧
      unitsOf f.mb (code + 1) * (d * s) = unitsOf f.mb code * (d * s) + den * t := by
  obtain ⟨j, q, hq, hgrid, hwidth, hfull⟩ := gridF_quotient hf hp hd
  have hup : 0 < up q := Nat.two_pow_pos _
  have hscale : up q * 2 ^ unitExp f = 2 ^ j * down q := hq ▸ up_sub_mul j (unitExp f)
  refine ⟨_, _, _, up q, 2 ^ j, hgrid, hup, Nat.two_pow_pos j, Nat.mod_lt _ (Nat.mul_pos hd hup), ?_, ?_⟩
  · rw [unitsOf_binade hwidth hfull]
    calc p * 2 ^ unitExp f * up q = p * (up q * 2 ^ unitExp f) := by ac_rfl
      _ = p * down q * 2 ^ j := by rw [hscale]; ac_rfl
      _ = (p * down q / (d * up q) * (d * up q) + p * down q % (d * up q)) * 2 ^ j := by rw [Nat.div_add_mod']
      _ = _ := by rw [Nat.add_mul, Nat.mul_right_comm]
  · rw [unitsOf_binade hwidth hfull, unitsOf_binade_succ hwidth hfull, Nat.add_mul, Nat.mul_comm (2 ^ j)]

/-- The distance of a code from x / y units, times y. -/
def unitsOff (f : FF) (x y c : Nat) : Nat := ((x : Int) - (unitsOf f.mb c * y : Nat)).natAbs

theorem offBy_eq_unitsOff {f : FF} {c : Nat} (hf : f ∈ floatFormats) (hc : c ≤ f.maxCode) (p d s : Nat) :
    offBy f p d c * (2 ^ unitExp f * s) = unitsOff f (p * 2 ^ unitExp f * s) (d * s) c * (decodeF f c).frac.2 := by
  obtain ⟨-, hfrac⟩ := decodeF_frac hf hc
  rw [offBy, unitsOff, ← Int.natAbs_natCast (2 ^ unitExp f * s), ← Int.natAbs_mul,
    ← Int.natAbs_natCast (decodeF f c).frac.2, ← Int.natAbs_mul, Int.natAbs_natCast]
  congr 1
  have hcode : (decodeF f c).frac.1 * d * (2 ^ unitExp f * s) = unitsOf f.mb c * (d * s) * (decodeF f c).frac.2 := calc
    _ = (decodeF f c).frac.1 * 2 ^ unitExp f * (d * s) := by ac_rfl
    _ = unitsOf f.mb c * (d * s) * (decodeF f c).frac.2 := by rw [hfrac]; ac_rfl
  have hvalue : p * (decodeF f c).frac.2 * (2 ^ unitExp f * s) = p * 2 ^ unitExp f * s * (decodeF f c).frac.2 := by ac_rfl
  rw [Int.sub_mul, Int.sub_mul, ← Int.natCast_mul, ← Int.natCast_mul, ← Int.natCast_mul, ← Int.natCast_mul, hcode, hvalue]

/-- R50 for a floating-point format: `gridF` and `rne` find the nearest of all codes. -/
theorem rne_gridF_nearest {f : FF} {p d k : Nat} (hf : f ∈ floatFormats) (hp : 0 < p) (hd : 0 < d)
    (hn : rne (gridF f p d) ≤ f.maxCode) (hk : k ≤ f.maxCode) :
    offBy f p d (rne (gridF f p d)) * (decodeF f k).frac.2 ≤ offBy f p d k * (decodeF f (rne (gridF f p d))).frac.2 ∧
    (k ≠ rne (gridF f p d) →
      offBy f p d (rne (gridF f p d)) * (decodeF f k).frac.2 = offBy f p d k * (decodeF f (rne (gridF f p d))).frac.2 →
      rne (gridF f p d) % 2 = 0) := by
  obtain ⟨code, rem, den, s, t, hgrid, hs, ht, hrem, hlo, hhi⟩ := gridF_between hf hp hd
  have hrises : Rises fun c => unitsOf f.mb c * (d * s) := (unitsOf_rises f.mb).mul_const (Nat.mul_pos hd hs)
  have hnearest := rne_nearest hrises ht hrem hlo hhi k
  rw [← hgrid] at hnearest
  generalize rne (gridF f p d) = n at *
  obtain ⟨hle, heven⟩ : unitsOff f (p * 2 ^ unitExp f * s) (d * s) n ≤ unitsOff f (p * 2 ^ unitExp f * s) (d * s) k ∧
      (k ≠ n → unitsOff f (p * 2 ^ unitExp f * s) (d * s) n = unitsOff f (p * 2 ^ unitExp f * s) (d * s) k → n % 2 = 0) :=
    hnearest
  have hunit : 0 < 2 ^ unitExp f * s := Nat.mul_pos (Nat.two_pow_pos _) hs
  have hdens : 0 < (decodeF f n).frac.2 * (decodeF f k).frac.2 :=
    Nat.mul_pos (decodeF_frac hf hn).1 (decodeF_frac hf hk).1
  have hscaledN : offBy f p d n * (decodeF f k).frac.2 * (2 ^ unitExp f * s) =
      unitsOff f (p * 2 ^ unitExp f * s) (d * s) n * ((decodeF f n).frac.2 * (decodeF f k).frac.2) := by
    rw [Nat.mul_right_comm, offBy_eq_unitsOff hf hn p d s, Nat.mul_assoc]
  have hscaledK : offBy f p d k * (decodeF f n).frac.2 * (2 ^ unitExp f * s) =
      unitsOff f (p * 2 ^ unitExp f * s) (d * s) k * ((decodeF f n).frac.2 * (decodeF f k).frac.2) := by
    rw [Nat.mul_right_comm, offBy_eq_unitsOff hf hk p d s, Nat.mul_assoc, Nat.mul_comm (decodeF f k).frac.2]
  constructor
  · refine Nat.le_of_mul_le_mul_right ?_ hunit
    rw [hscaledN, hscaledK]
    exact Nat.mul_le_mul_right _ hle
  · intro hne heq
    refine heven hne (Nat.eq_of_mul_eq_mul_right hdens ?_)
    rw [← hscaledN, ← hscaledK, heq]

/-- R50 for the integers, whose grid is the multiples of d. -/
theorem rne_integer_nearest (p d k : Nat) (hd : 0 < d) :
    ((p : Int) - (rne (p / d, p % d, d) * d : Nat)).natAbs ≤ ((p : Int) - (k * d : Nat)).natAbs ∧
    (k ≠ rne (p / d, p % d, d) →
      ((p : Int) - (rne (p / d, p % d, d) * d : Nat)).natAbs = ((p : Int) - (k * d : Nat)).natAbs →
      rne (p / d, p % d, d) % 2 = 0) := by
  have hrises : Rises fun c : Nat => c * d := Rises.mul_const (W := id) (fun _ _ hij => hij) hd
  exact rne_nearest hrises Nat.one_pos (Nat.mod_lt p hd) (by rw [Nat.mul_one, Nat.div_add_mod'])
    (by rw [Nat.mul_one, Nat.add_mul, Nat.one_mul]) k

/-- Without stochastic rounding an in-range code is the one that `rne` gives. -/
theorem pick_nearest {c : Ctl} (hc : c.rnd = false) {mx : Nat} {g : Nat × Nat × Nat} (h : rne g ≤ mx) :
    pick c mx g = some (rne g) := by
  have hg := le_rne g
  simp only [pick, hc, if_neg (Nat.not_lt.mpr h)]
  split
  · exact congrArg some (by omega)
  · rfl

/-- R52: a conversion to nearest within range writes the sign and the code that `rne` gives. -/
theorem convF_nearest {f : FF} {c : Ctl} (hc : c.rnd = false) (neg : Bool) {m : Nat} (hm : 0 < m) (e : Int)
    (h : rne (gridF f (Num.fin neg m e).frac.1 (Num.fin neg m e).frac.2) ≤ f.maxCode) :
    (convF f c (.fin neg m e)).code =
      (if neg then 2 ^ (f.eb + f.mb) else 0) + rne (gridF f (Num.fin neg m e).frac.1 (Num.fin neg m e).frac.2) := by
  have hp : (Num.fin neg m e).frac.1 ≠ 0 := Nat.ne_of_gt (Nat.mul_pos hm (Nat.two_pow_pos _))
  simp only [convF, convQ, if_neg hp, pick_nearest hc h]

/-- Settles O7: `gridF` places the value between two neighbouring codes, and the nearer of two neighbours is the nearest
of all codes because magnitudes rise with codes. -/
theorem roundingTakesTheNearestEven : Obligations.RoundingTakesTheNearestEven := by
  refine ⟨?_, ?_, ?_⟩
  · rintro f p d _ k hf hp hd rfl hn hk
    exact rne_gridF_nearest hf hp hd hn hk
  · rintro p d _ k hd rfl
    exact rne_integer_nearest p d k hd
  · rintro f ovf neg m e _ - hm rfl hn
    exact convF_nearest rfl neg hm e hn

/-! Accumulation into INT32 (R47). -/

/-- An accumulator away from both bounds takes the exact sum, kept within the bounds. -/
theorem toInt_iadd {a : Word} (x : Int) (hmax : a ≠ 0x7FFFFFFF#32) (hmin : a ≠ 0x80000000#32) :
    (iadd a x).toInt = max (-2147483648) (min 2147483647 (a.toInt + x)) := by
  have hval : toS 32 a.toNat = a.toInt := by
    rw [BitVec.toInt_eq_toNat_cond, toS]
    have := a.isLt
    simp only [Nat.mod_eq_of_lt this]
    split <;> split <;> omega
  have hmax' : a.toInt ≠ 2147483647 := fun h => hmax (BitVec.eq_of_toInt_eq h)
  have hmin' : a.toInt ≠ -2147483648 := fun h => hmin (BitVec.eq_of_toInt_eq h)
  simp only [iadd, hval, Bool.or_eq_true, decide_eq_true_eq, hmax', hmin', or_self, if_false]
  rw [BitVec.toInt_ofInt, Int.bmod_eq_of_le] <;> split <;> omega

theorem iadd_max (x : Int) : iadd 0x7FFFFFFF#32 x = 0x7FFFFFFF#32 := rfl

theorem iadd_min (x : Int) : iadd 0x80000000#32 x = 0x80000000#32 := rfl

theorem toInt_iadd_exact {a : Word} {x : Int} (ha : a.toInt.natAbs ≤ 2147483646) (hx : (a.toInt + x).natAbs ≤ 2147483646) :
    (iadd a x).toInt = a.toInt + x := by
  rw [toInt_iadd x (by rintro rfl; contradiction) (by rintro rfl; contradiction)]
  omega

/-- A cycle of an integer accumulator adds the sum of its products. -/
theorem accStep_int (a : Word) (ps : List Machine.Num) : accStep true a ps = iadd a (ps.map intOf).sum := by
  rw [accStep, if_pos rfl, List.sum_eq_foldl, List.foldl_map]

theorem accRun_saturated {a : Word} (h : ∀ x, iadd a x = a) (gs : List Nat) (ps : List Machine.Num) : accRun true gs a ps = a := by
  induction gs generalizing ps with
  | nil => rfl
  | cons g gs ih => rw [accRun, accStep_int, h, ih]

theorem suml_eq_sum (l : List Nat) : suml l = l.sum := List.sum_eq_foldl.symm

theorem natAbs_sum_le (b : Nat) (l : List Int) (h : ∀ x ∈ l, x.natAbs ≤ b) : l.sum.natAbs ≤ b * l.length := by
  induction l with
  | nil => exact Nat.zero_le _
  | cons x l ih =>
    have hx := h x List.mem_cons_self
    have hl := ih fun y hy => h y (List.mem_cons_of_mem x hy)
    rw [List.sum_cons, List.length_cons, Nat.mul_succ]
    omega

/-- While no partial sum can reach a bound, a run adds all its products exactly, whatever its cycles. -/
theorem toInt_accRun_exact (b : Nat) (gs : List Nat) (a : Word) (ps : List Machine.Num) (hgs : suml gs = ps.length)
    (hps : ∀ v ∈ ps.map intOf, v.natAbs ≤ b) (hfit : a.toInt.natAbs + b * ps.length ≤ 2147483646) :
    (accRun true gs a ps).toInt = a.toInt + (ps.map intOf).sum := by
  induction gs generalizing a ps with
  | nil =>
    have : ps = [] := List.length_eq_zero_iff.mp hgs.symm
    rw [this, accRun, List.map_nil, List.sum_nil, Int.add_zero]
  | cons g gs ih =>
    rw [suml_eq_sum, List.sum_cons, ← suml_eq_sum] at hgs
    have hfirst : ((ps.take g).map intOf).sum.natAbs ≤ b * g := by
      have := natAbs_sum_le b ((ps.take g).map intOf) fun v hv => hps v (List.mem_of_mem_take (List.map_take ▸ hv))
      rwa [List.length_map, List.length_take_of_le (by omega)] at this
    have hsplit : b * ps.length = b * g + b * (ps.drop g).length := by
      rw [← Nat.mul_add, List.length_drop]; congr 1; omega
    have hstep : (accStep true a (ps.take g)).toInt = a.toInt + ((ps.take g).map intOf).sum := by
      rw [accStep_int]
      exact toInt_iadd_exact (by omega) (by omega)
    rw [accRun, ih _ (ps.drop g) (by rw [List.length_drop]; omega) (fun v hv => hps v (List.mem_of_mem_drop (List.map_drop ▸ hv)))
      (by omega), hstep, Int.add_assoc, ← List.sum_append, ← List.map_append, List.take_append_drop]

/-- The product of two integer elements is the product of their two's complement values. -/
theorem intOf_mulN_int (w a b : Nat) : intOf (mulN (elemNum (.int w 0) a) (elemNum (.int w 0) b)) = toS w a * toS w b := by
  have hup : up (-((0 : Nat) : Int) + -((0 : Nat) : Int)) = 1 := rfl
  simp only [elemNum, mulN, intOf, hup, Nat.mul_one, Int.natCast_mul]
  generalize toS w a = x
  generalize toS w b = y
  by_cases hx : x < 0 <;> by_cases hy : y < 0
  · have hmag : (x.natAbs : Int) * y.natAbs = x * y := by
      rw [Int.ofNat_natAbs_of_nonpos (Int.le_of_lt hx), Int.ofNat_natAbs_of_nonpos (Int.le_of_lt hy), Int.neg_mul_neg]
    simp only [hx, hy, hmag, bne_self_eq_false, Bool.false_eq_true, if_false]
  · have hmag : -((x.natAbs : Int) * y.natAbs) = x * y := by
      rw [Int.ofNat_natAbs_of_nonpos (Int.le_of_lt hx), Int.natAbs_of_nonneg (Int.not_lt.mp hy), Int.neg_mul, Int.neg_neg]
    simp only [hx, hy, hmag, decide_true, decide_false, Bool.bne_false, if_true]
  · have hmag : -((x.natAbs : Int) * y.natAbs) = x * y := by
      rw [Int.natAbs_of_nonneg (Int.not_lt.mp hx), Int.ofNat_natAbs_of_nonpos (Int.le_of_lt hy), Int.mul_neg, Int.neg_neg]
    simp only [hx, hy, hmag, decide_true, decide_false, Bool.false_bne, if_true]
  · have hmag : (x.natAbs : Int) * y.natAbs = x * y := by
      rw [Int.natAbs_of_nonneg (Int.not_lt.mp hx), Int.natAbs_of_nonneg (Int.not_lt.mp hy)]
    simp only [hx, hy, hmag, bne_self_eq_false, Bool.false_eq_true, if_false]

theorem natAbs_toS_eight_le (a : Nat) : (toS 8 a).natAbs ≤ 128 := by
  have := Nat.mod_lt a (show 0 < 2 ^ 8 by decide)
  simp only [toS]
  split <;> omega

theorem natAbs_int8_product_le (a b : Nat) : (toS 8 a * toS 8 b).natAbs ≤ 16384 := by
  rw [Int.natAbs_mul]
  exact Nat.mul_le_mul (natAbs_toS_eight_le a) (natAbs_toS_eight_le b)

theorem map_intOf_products (x y : List Nat) :
    (List.zipWith mulN (x.map (elemNum (.int 8 0))) (y.map (elemNum (.int 8 0)))).map intOf =
      List.zipWith (fun a b => toS 8 a * toS 8 b) x y := by
  simp only [List.zipWith_map, List.map_zipWith, intOf_mulN_int]

/-- R47: up to K of 131,071 a run of INT8 products is their exact sum. -/
theorem toInt_dotRun_int8 (gs x y : List Nat) (hxy : x.length = y.length) (hx : x.length ≤ 131071) (hgs : suml gs = x.length) :
    (dotRun true gs 0 (x.map (elemNum (.int 8 0))) (y.map (elemNum (.int 8 0)))).toInt =
      (List.zipWith (fun a b => toS 8 a * toS 8 b) x y).sum := by
  have hlen : (List.zipWith mulN (x.map (elemNum (.int 8 0))) (y.map (elemNum (.int 8 0)))).length = x.length := by
    rw [List.length_zipWith, List.length_map, List.length_map, hxy, Nat.min_self]
  have hproducts : ∀ v ∈ List.zipWith (fun a b => toS 8 a * toS 8 b) x y, v.natAbs ≤ 16384 := by
    intro v hv
    obtain ⟨i, hi, rfl⟩ := List.getElem_of_mem hv
    rw [List.getElem_zipWith]
    exact natAbs_int8_product_le _ _
  have hzero : (0 : Word).toInt = 0 := rfl
  rw [← map_intOf_products] at hproducts ⊢
  rw [dotRun, toInt_accRun_exact 16384 gs 0 _ (hgs.trans hlen.symm) hproducts (by rw [hlen, hzero]; omega), hzero,
    Int.zero_add]

/-- Settles O9: 131,071 products of at most 16,384 stay short of both bounds, so no cycle of such a run saturates. An
accumulator whose value is a bound counts as saturated (log entry 39). -/
theorem int32AccumulatorsAddExactlyAndSaturate : Obligations.Int32AccumulatorsAddExactlyAndSaturate := by
  refine ⟨fun a x => toInt_iadd x, ?_, ?_, by decide, ?_⟩
  · exact fun gs ps => ⟨accRun_saturated iadd_max gs ps, accRun_saturated iadd_min gs ps⟩
  · intro a b _ _
    rw [intOf_mulN_int]
    exact natAbs_int8_product_le a b
  · intro gs x y hxy hx hgs _ _
    rw [← List.sum_eq_foldl]
    exact toInt_dotRun_int8 gs x y hxy hx hgs

end Sys2Proof.Proofs
end

section
/-! Thread groups (03_cores_and_groups.md): the state that an issuing instruction reads and writes, the traps, TRAP and BRK. -/
namespace Sys2Proof.Proofs
open Sys2Proof.Machine Sys2Proof.Safety Sys2Proof.Laws

/-! Cores, groups and launches: what a read returns after a write. -/

@[simp] theorem tfind_tset_self {α : Type} (t : Tab α) (k : Nat) (v : α) : tfind (tset t k v) k = some v := by
  induction t with
  | nil => simp [tset, tfind]
  | cons e r ih =>
    rw [tset]
    split
    · simp [tfind]
    · split
      case isTrue h => rw [tfind, if_pos rfl]
      case isFalse h => rw [tfind, if_neg (Ne.symm h), ih]

@[simp] theorem coreOf_setCore_self (s : State) (i : Nat) (c : Machine.Core) : coreOf (setCore s i c) i = c := by
  rw [coreOf, setCore, tget_tset, if_pos rfl]

@[simp] theorem coreOf_setGrp_self (s : State) (core slot : Nat) (g : Grp) :
    coreOf (setGrp s core slot g) core = { coreOf s core with grps := tset (coreOf s core).grps slot g } :=
  coreOf_setCore_self ..

@[simp] theorem grpOf_setGrp_self (s : State) (core slot : Nat) (g : Grp) : grpOf (setGrp s core slot g) core slot = some g := by
  rw [grpOf, coreOf_setGrp_self, tfind_tset_self]

theorem updGrp_eq_setGrp {s : State} {core slot : Nat} {g : Grp} (f : Grp → Grp) (hg : grpOf s core slot = some g) :
    updGrp s core slot f = setGrp s core slot (f g) := by
  rw [updGrp, hg]

theorem op_of_launchOf {s : State} {op : Nat} {l : Launch} (hl : launchOf s op = some l) : l.op = op := by
  simpa using List.find?_some hl

/-- A change that keeps the operation of every launch is seen by the reader of the launch. -/
theorem launchOf_updLaunch_self (s : State) (op : Nat) {f : Launch → Launch} (hf : ∀ l, (f l).op = l.op) :
    launchOf (updLaunch s op f) op = (launchOf s op).map f := by
  have hop : (fun l : Launch => l.op == op) ∘ (fun l => if l.op == op then f l else l) = fun l => l.op == op := by
    funext l
    simp only [Function.comp]
    split <;> simp [hf]
  rw [launchOf, launchOf, updLaunch, List.find?_map, hop]
  refine Option.map_congr fun l hl => ?_
  rw [if_pos (by simpa using List.find?_some hl)]

/-! The event of a detection (R332, R492). -/

/-- A detection of a code without a rate limit appends one record to the queue while the device writes records. -/
theorem detect_queues {s : State} {code : Nat} (hpost : posting s = true) (hlim : limited code = false)
    (sev part unit addr : Nat) (detail : Bytes) (ring : Nat) :
    ∃ e, (detect s code sev part unit addr detail ring).evt.q = s.evt.q ++ [e] ∧ e.code = code ∧ e.detail = pad detail 28 := by
  have hcount : ∀ e, posting { countEv s code part with evt := e } = true := fun _ => by simpa [posting] using hpost
  simp only [detect, hcount, hlim]
  exact ⟨_, rfl, rfl, rfl⟩

@[simp] theorem launchOf_detect (s : State) (op code sev part unit addr : Nat) (detail : Bytes) (ring : Nat) :
    launchOf (detect s code sev part unit addr detail ring) op = launchOf s op := by
  simp [launchOf]

/-! Traps (R88 to R90). -/

/-- The launch that its first trap ends (R89). -/
def endedByTrap (now core slot code : Nat) (fmt : Bool) (l : Launch) : Launch :=
  { l with ended := true, trap := some (now, code, core, slot), status := trapStatus code fmt, trapped := sadd l.trapped core }

theorem launchOf_updLaunch_endedByTrap {s : State} {op : Nat} {l : Launch} (hl : launchOf s op = some l)
    (now core slot code : Nat) (fmt : Bool) :
    launchOf (updLaunch s op (endedByTrap now core slot code fmt)) op = some (endedByTrap now core slot code fmt l) := by
  rw [launchOf_updLaunch_self s op (f := endedByTrap now core slot code fmt) fun _ => rfl, hl, Option.map_some]

/-- The first trap of a running launch ends it, and the core's EV_TRAP carries the trap record. -/
theorem endLaunch_first {s : State} {g : Grp} {l : Launch} {core : Nat} (hl : launchOf s g.launch = some l)
    (hrun : l.ended = false) (htrap : l.trap = none) (hcore : core ∉ l.trapped) (now slot code imm : Nat) (fmt : Bool) :
    endLaunch s now core slot code imm fmt g =
      detect (updLaunch s g.launch (endedByTrap now core slot code fmt)) 0x201 2 l.part core 0 (trapDetail code slot g imm)
        (launchRing s g.launch) := by
  have hfresh : (!l.trapped.contains core) = true := by simpa using hcore
  simp only [endLaunch, hl, hrun, htrap, hfresh, Bool.false_and, Bool.not_false, Bool.and_true, if_true]
  rfl

theorem raise_of_attached {s : State} {core slot : Nat} {g : Grp} {l : Launch} (hg : grpOf s core slot = some g)
    (hl : launchOf s g.launch = some l) (hdbg : attached s l.part = true) (code imm : Nat) (fmt : Bool) :
    raise s core slot code imm fmt = setGrp s core slot
      { g with halt := some code, haltReq := false, stepping := false, trapAt := s.tick, trapImm := imm, trapFmt := fmt } := by
  simp only [raise, hg, hl, Option.map_some, Option.getD_some, hdbg, if_true]

theorem raise_of_not_attached {s : State} {core slot : Nat} {g : Grp} {l : Launch} (hg : grpOf s core slot = some g)
    (hl : launchOf s g.launch = some l) (hdbg : attached s l.part = false) (code imm : Nat) (fmt : Bool) :
    raise s core slot code imm fmt = endLaunch s s.tick core slot code imm fmt g := by
  simp only [raise, hg, hl, Option.map_some, Option.getD_some, hdbg, Bool.false_eq_true, if_false]

/-! An issuing instruction (R57). -/

/-- The group that issues is resident, and its launch runs. -/
theorem resident_of_issues {s : State} {i : Iss} {rs : List Nat} {l : Launch} {t : GSet} {g : Grp} (h : Issues s i rs l t g) :
    grpOf s i.core i.slot = some g ∧ launchOf s g.launch = some l ∧ l.ended = false := by
  obtain ⟨hissuable, -⟩ := h
  unfold issuable at hissuable
  split at hissuable
  · cases hissuable
  case h_2 g' hg =>
    split at hissuable
    case h_2 => cases hissuable
    case h_1 l' t' hl _ =>
      split at hissuable
      · cases hissuable
      case isFalse hready =>
        cases hissuable
        exact ⟨hg, hl, by simp_all⟩

/-- An instruction that issues has its effect. -/
theorem issue_of_issues {s : State} {i : Iss} {rs : List Nat} {l : Launch} {t : GSet} {g : Grp} (h : Issues s i rs l t g)
    (f : Launch → GSet → Grp → Eff) : issue s i rs f = settle s i (f l t g) := by
  obtain ⟨hissuable, hfetch⟩ := h
  simp only [issue, hissuable, hfetch]

/-- An instruction's effect passes through unchanged when it touches no part but those an instruction may change. -/
theorem keepKrn_eq {s t : State} (h : OnlyIn [.krn, .mem, .hbm, .fab, .evt, .free, .regs, .link, .dbg] s t) :
    keepKrn s t = t := by
  have hsame := onlyIn_iff.1 h
  simp at hsame
  cases s; cases t
  simp_all [keepKrn]

/-! TRAP and BRK (R74). -/

theorem exec_trap_eq_raise {s : State} {i : Iss} {l : Launch} {t : GSet} {g : Grp} (h : Issues s i [] l t g) (m : BitVec 16) :
    exec (.trap i m) s = .next (raise s i.core i.slot 0xE m.toNat) := by
  have hkeep : keepKrn s (raise s i.core i.slot 0xE m.toNat) = raise s i.core i.slot 0xE m.toNat :=
    keepKrn_eq (onlyIn_mono (raise_only ..) (by decide))
  change execTrap i m s = _
  rw [execTrap, trapInstr, issue_of_issues h, settle, hkeep]

/-- A group that a breakpoint has halted. -/
def haltedAtBrk (g : Grp) : Grp := { g with halt := some 0x10, haltReq := false, stepping := false, stepBlocked := false }

theorem exec_brk_of_attached {s : State} {i : Iss} {l : Launch} {t : GSet} {g : Grp} (h : Issues s i [] l t g)
    (hdbg : attached s l.part = true) :
    exec (.brk i) s = .next (setGrp (setGrp s i.core i.slot (haltedAtBrk g)) i.core i.slot (haltedAtBrk g)) := by
  change Host.Outcome.next (keepKrn s (brk i s)) = _
  have hbrk : brk i s = setGrp (setGrp s i.core i.slot (haltedAtBrk g)) i.core i.slot (haltedAtBrk g) := by
    rw [brk, issue_of_issues h, if_pos hdbg]
    exact updGrp_eq_setGrp stepOver (grpOf_setGrp_self ..)
  rw [hbrk, keepKrn_eq (onlyIn_mono (onlyIn_trans (setGrp_only ..) (setGrp_only ..)) (by decide))]

/-- The state in which a core has counted one more BRK. -/
def brkCounted (s : State) (core : Nat) : State :=
  setCore s core { coreOf s core with brks := (coreOf s core).brks + 1 }

theorem coreOf_brkCounted_self (s : State) (core : Nat) :
    coreOf (brkCounted s core) core = { coreOf s core with brks := (coreOf s core).brks + 1 } :=
  coreOf_setCore_self ..

theorem brkCounted_only (s : State) (core : Nat) : OnlyIn [.krn] s (brkCounted s core) := setCore_only ..

theorem exec_brk_of_not_attached {s : State} {i : Iss} {l : Launch} {t : GSet} {g : Grp} (h : Issues s i [] l t g)
    (hdbg : attached s l.part = false) :
    exec (.brk i) s = .next (setGrp (brkCounted s i.core) i.core i.slot (advance i.len g)) := by
  change Host.Outcome.next (keepKrn s (brk i s)) = _
  obtain ⟨hg, -, -⟩ := resident_of_issues h
  have hgrp : grpOf (brkCounted s i.core) i.core i.slot = some g := by rwa [grpOf, coreOf_brkCounted_self]
  have hbrk : brk i s = setGrp (brkCounted s i.core) i.core i.slot (advance i.len g) := by
    rw [brk, issue_of_issues h, hdbg]
    exact updGrp_eq_setGrp (advance i.len) hgrp
  rw [hbrk, keepKrn_eq (onlyIn_mono (onlyIn_trans (brkCounted_only ..) (setGrp_only ..)) (by decide))]

/-- Settles O10: each instruction that issues comes to one next state, from which the clauses are read off. That a halt
under the debugger leaves the pc at the instruction is log entry 15. -/
theorem trapAndBreakpointInstructions : Obligations.TrapAndBreakpointInstructions := by
  refine ⟨fun s i l t g m h hdbg htrap hpost hcore => ?_, fun s i l t g m h hdbg => ?_,
    fun s i l t g h => ⟨fun hdbg => ?_, fun hdbg => ?_⟩⟩
  · obtain ⟨hg, hl, hrun⟩ := resident_of_issues h
    obtain ⟨e, hq, hcode, hdetail⟩ := detect_queues (s := updLaunch s g.launch (endedByTrap s.tick i.core i.slot 0xE false))
      (code := 0x201) hpost rfl 2 l.part i.core 0 (trapDetail 0xE i.slot g m.toNat) (launchRing s g.launch)
    rw [exec_trap_eq_raise h, raise_of_not_attached hg hl hdbg, endLaunch_first hl hrun htrap hcore]
    refine ⟨_, e, endedByTrap s.tick i.core i.slot 0xE false l, rfl, ?_, rfl, rfl, hq, hcode, hdetail⟩
    rw [launchOf_detect, op_of_launchOf hl, launchOf_updLaunch_endedByTrap hl]
  · obtain ⟨hg, hl, -⟩ := resident_of_issues h
    rw [exec_trap_eq_raise h, raise_of_attached hg hl hdbg]
    exact ⟨_, _, rfl, grpOf_setGrp_self .., rfl, rfl, setGrp_only ..⟩
  · exact ⟨_, _, exec_brk_of_attached h hdbg, grpOf_setGrp_self .., rfl, rfl, rfl, onlyIn_trans (setGrp_only ..) (setGrp_only ..)⟩
  · have hcore : coreOf (setGrp (brkCounted s i.core) i.core i.slot (advance i.len g)) i.core =
        { coreOf s i.core with brks := (coreOf s i.core).brks + 1, grps := tset (coreOf s i.core).grps i.slot (advance i.len g) } := by
      rw [coreOf_setGrp_self, coreOf_brkCounted_self]
    exact ⟨_, exec_brk_of_not_attached h hdbg, by rw [hcore], grpOf_setGrp_self .., by rw [hcore],
      onlyIn_trans (brkCounted_only ..) (setGrp_only ..)⟩

end Sys2Proof.Proofs
end
